-- ==== Sys2Proof/Word.lean ====
section
/-! DEFINITION. Words of the machine: a register is 64 bits, a lane element 32, a byte 8 (R3, R26, R53). -/

namespace Sys2Proof

/-- A scalar register, a virtual address, a special register (R26, R32). -/
abbrev W64 := BitVec 64

/-- One lane's element of a vector register, and an instruction word (R26, R46). -/
abbrev W32 := BitVec 32

/-- The unit of memory (R3). -/
abbrev Byte := BitVec 8

/-- A 7-bit register field A, B or D of R, I and M format (R53). -/
abbrev Reg := BitVec 7

end Sys2Proof
end

