-- ==== Sys2Proof/Config.lean ====
section
/-! DEFINITION. What the spec leaves open: values of time and energy, and cryptographic functions. Each is an opaque
constant without a body, so no proof can know its value; a claim about it holds whatever it is (logs 2, 9, 10). -/

namespace Sys2Proof.Config

/-- Nanoseconds that pass between step n and step n + 1 (R451; log 2). -/
opaque nsOf : Nat → Nat

/-- CCLK cycles that pass between step n and step n + 1 (R32 sr.cycle; log 2). -/
opaque cclkOf : Nat → Nat

/-- CCLK cycles between the point the device counts from and the moment a core leaves reset, as sr.cycle counts them: the
counts of two cores are not aligned (R32; log 2). -/
opaque cycleBase : Nat → Nat

/-- Whether, in step n, a context's mean rate in a QoS class (number 4 × context + class) is below 15/16 of its limit
(R324; log 10). -/
opaque bwUnder : Nat → Nat → Bool

/-- What a shuffle or a broadcast finds in an inactive lane of a q register, which delivers no element there, by em, the elements
that it delivers, as pairs of lane and value, and the lane (R57, R142, R144, R244; log 14). -/
opaque freeLane : BitVec 64 → List (Nat × Nat) → Nat → BitVec 32

/-- Values the spec does not state, in step n, by use: 0 MAJOR and FN of a fetch fault (log 12), 1 ERD's projection outside a
stage (log 17), 2 and 3 what a CLK_SYNC record shows without an exchange (log 23), 4 another device's answer (log 19), 5 CODE
and DETAIL of a PLAN_DEADLOCK status (log 20), 6 the address of a vault slot (log 26), 7 the status of an LSUB in a context that
is not ACTIVE (log 62), from 16 on DETAIL and WHERE of the
step's log entries (log 20). -/
opaque freeWord : Nat → Nat → BitVec 64

/-- Energy in nanojoules that a core spends in its n-th update (R322; the coefficients are not stated; log 10). -/
opaque energyOf : Nat → Nat → Nat

/-- SHA-512 of a byte string, as a number (R423; log 9). -/
opaque sha512 : List (BitVec 8) → BitVec 512

/-- Whether an Ed25519 signature over a digest verifies against the root key (R423; log 9). -/
opaque rootVerifies : Nat → Nat → Bool

/-- The Ed25519 signature of the identity key of a security version over 256 bytes (R424, R425; log 9). -/
opaque identitySign : Nat → List (BitVec 8) → BitVec 512

/-- What another device answers, in step n, for an access of this device to a page of its own: 1 NOT_MAPPED, 2 OWNER, 3 RETIRED,
any other number that it serves the access (R41, R417; log 19). -/
opaque podNak : Nat → Nat → Nat

end Sys2Proof.Config
end

