-- ==== Sys2Proof/Machine/Maps.lean ====
section
/-! DEFINITION. Sparse memories and sparse tables as plain lists. A memory lists only the addresses whose value
differs from what an unlisted address reads as (zero: R20, R25, R402), in rising order, so that equal memories are
equal lists. -/

namespace Sys2Proof.Machine

/-- A memory of `w`-bit values by address: strictly rising addresses, no zero value listed. -/
abbrev SMap (w : Nat) := List (Nat × BitVec w)

/-- The value at an address; an unlisted address reads zero. -/
def SMap.get {w : Nat} : SMap w → Nat → BitVec w
  | [], _ => 0
  | (b, v) :: rest, a => if a = b then v else SMap.get rest a

/-- Lists a value under an address, in its place in the order. -/
def SMap.insert {w : Nat} : SMap w → Nat → BitVec w → SMap w
  | [], a, v => [(a, v)]
  | (b, u) :: rest, a, v =>
    if a < b then (a, v) :: (b, u) :: rest
    else if a = b then (a, v) :: rest
    else (b, u) :: SMap.insert rest a v

/-- Writes one value; writing zero removes the entry. -/
def SMap.set {w : Nat} (m : SMap w) (a : Nat) (v : BitVec w) : SMap w :=
  if v = 0 then m.filter fun p => decide (p.1 ≠ a) else m.insert a v

/-- Every entry lies above `lo`, in strictly rising order, and none is zero. -/
def SMap.wfAbove {w : Nat} : Option Nat → SMap w → Bool
  | _, [] => true
  | lo, (b, v) :: rest =>
    (match lo with | none => true | some l => decide (l < b)) && decide (v ≠ 0) && SMap.wfAbove (some b) rest

/-- The canonical form of a memory. -/
def SMap.wf {w : Nat} (m : SMap w) : Bool := SMap.wfAbove none m

/-- Drops every entry whose address lies in `[lo, lo + n)`, which makes the range read zero. -/
def SMap.clear {w : Nat} (m : SMap w) (lo n : Nat) : SMap w :=
  m.filter fun p => decide (p.1 < lo ∨ lo + n ≤ p.1)

/-- `n` bytes from address `a` on, as one little-endian number (R3). -/
def SMap.readLE (m : SMap 8) (a : Nat) : Nat → Nat
  | 0 => 0
  | n + 1 => (m.get a).toNat + 256 * SMap.readLE m (a + 1) n

/-- Writes the low `n` bytes of `v` at address `a`, little-endian (R3). -/
def SMap.writeLE (m : SMap 8) (a : Nat) : Nat → Nat → SMap 8
  | 0, _ => m
  | n + 1, v => SMap.writeLE (m.set a (BitVec.ofNat 8 v)) (a + 1) n (v / 256)

/-- The bytes of a range, lowest address first. -/
def SMap.bytes (m : SMap 8) (a n : Nat) : List Byte := (List.range n).map fun i => m.get (a + i)

/-- Writes a list of bytes from address `a` on. -/
def SMap.putBytes (m : SMap 8) (a : Nat) : List Byte → SMap 8
  | [] => m
  | b :: rest => SMap.putBytes (m.set a b) (a + 1) rest

/-- A table of records by number, sorted by key; a key that is not listed has the default of its table. -/
abbrev AList (α : Type) := List (Nat × α)

/-- The entry under a key, if listed. -/
def AList.find? {α : Type} : AList α → Nat → Option α
  | [], _ => none
  | (b, v) :: rest, a => if a = b then some v else AList.find? rest a

/-- The entry under a key, or the default. -/
def AList.getD {α : Type} (t : AList α) (k : Nat) (dflt : α) : α := (t.find? k).getD dflt

/-- Writes the entry under a key. -/
def AList.put {α : Type} : AList α → Nat → α → AList α
  | [], a, v => [(a, v)]
  | (b, u) :: rest, a, v =>
    if a < b then (a, v) :: (b, u) :: rest
    else if a = b then (a, v) :: rest
    else (b, u) :: AList.put rest a v

/-- Removes the entry under a key. -/
def AList.del {α : Type} (t : AList α) (k : Nat) : AList α := t.filter fun p => decide (p.1 ≠ k)

/-- The keys of a table. -/
def AList.keys {α : Type} (t : AList α) : List Nat := t.map Prod.fst

/-- The least key from `lo` on that the table does not list, among `n` candidates. -/
def AList.free {α : Type} (t : AList α) (lo : Nat) : Nat → Nat
  | 0 => lo
  | n + 1 => if (t.find? lo).isSome then AList.free t (lo + 1) n else lo

/-- Replaces the first element that meets `p`. -/
def updateFirst {α : Type} (p : α → Bool) (f : α → α) : List α → List α
  | [] => []
  | x :: xs => if p x then f x :: xs else x :: updateFirst p f xs

/-- Position `n` of a list replaced. -/
def setAt {α : Type} (l : List α) (n : Nat) (x : α) : List α := l.set n x

end Sys2Proof.Machine
end

