-- ==== Sys2Proof/Machine/Events.lean ====
section
/-! DEFINITION. The arguments of the events of the device: what a unit that finishes, or the outside, supplies. -/

namespace Sys2Proof

/-- Who waits on an EMPTY scratchpad line (R180): a part of a wave, a copy's source read, or the Vat. -/
inductive Waiter where
  | part (agent part : Nat)
  | copy (op : Nat)
  | vat
  deriving DecidableEq, Repr

/-- What a core loads a launch record for (R12): a stage of a plan, or tasks. -/
inductive LoadFor where
  | stage (plan stage : Nat)
  | tasks
  deriving DecidableEq, Repr

/-- The completion counters of R221; ENG is called CP in a copy context. -/
inductive CounterClass where
  | ld | st | eng | xc
  deriving DecidableEq, Repr

/-- How a handle leaves PENDING (R377, R382): resolved with an address and a size by a task that ran on a device, or broken
with a reason, a detail and a cause; `stale` is the answer of another device that the handle names nothing (R376). -/
inductive Settlement where
  | resolved (addr : BitVec 64) (size dev : Nat)
  | broken (reason detail : BitVec 8) (cause : BitVec 64)
  | stale
  deriving DecidableEq, Repr

/-- A plan that the controller of another device has accepted, as it announces it to this one (R314, R316): its context and
priority class, and the bytes of its record with those of its stages' launch records after them. -/
structure RemotePlan where
  ctx : Nat
  prio : Nat
  addr : BitVec 64
  record : List (BitVec 8)
  launches : List (List (BitVec 8))
  deriving DecidableEq, Repr

/-- A task record that another device sends to this one (R372, R374, R379): its 16 bytes, ARG0, the handle it settles, and for
an RINVH its input handle, with that handle's result where it has one. -/
structure RemoteTask where
  ctx : Nat
  record : List (BitVec 8)
  arg0 : BitVec 64
  handle : BitVec 64
  input : BitVec 64
  result : Option (BitVec 64 × Nat)
  deriving DecidableEq, Repr

/-- A record or a message that arrives: one of this device's own, by its number, or one that another device sends (R374, R379). -/
inductive MsgRef where
  | own (op : Nat)
  | pod (r : RemoteTask)
  deriving DecidableEq, Repr

/-- The rendezvous entry of a gang: its workgroup's residency slot and its members' sr.gng (R153). -/
structure RdvRef where
  wg : Nat
  gng : BitVec 16
  deriving DecidableEq, Repr

/-- What a JCAN message does at a device (R392). -/
inductive CancelAct where
  | reserve | set | release | clear
  deriving DecidableEq, Repr

/-- Which cache a line leaves (R184, R189, R191): the L1 of a core, the buffer or the atomic unit of a cluster, the cache ways
of a die's slices, or its replicas. -/
inductive CacheLevel where
  | l1 (core : Nat)
  | buffer (cluster : Nat)
  | ways (die : Nat)
  | replica (die : Nat)
  deriving DecidableEq, Repr

/-- A request of another device to this one (R416, R417, R419): a read, a write of bytes, an atomic operation of 4 or 8 bytes with
FN as in R234, or a plan that its controller has accepted (R316); `engine` marks the device's own engines, which alone may use the device-reserved window. -/
inductive PodReq where
  | read (size : Nat) (engine : Bool)
  | write (data : List (BitVec 8)) (engine : Bool)
  | atom (fn size : Nat) (operand swap : BitVec 64) (engine : Bool)
  | plan (r : RemotePlan)
  deriving DecidableEq, Repr

/-- A 64 KiB page of classes 0 to 4, by IA[55:16], or a 64 KiB granule of a die's vault (R399, R401). -/
inductive PageRef where
  | page (n : Nat)
  | granule (die n : Nat)
  deriving DecidableEq, Repr

/-- A firmware image as the boot ROM sees it (R423): its body's digest, its signature and its security version. -/
structure Image where
  body : Nat
  signature : Nat
  svn : Nat
  deriving DecidableEq, Repr

/-- Management registers that have no row of their own (R422). -/
inductive MgmtReg where
  | cbEnergy (ctx : Nat) | cbBw (ctx cls : Nat)
  | ttBase (ctx : Nat) | ttCount (ctx : Nat)
  | part (ctx : Nat) | hostMap (ctx : Nat)
  | hostRangeBase (ctx n : Nat) | hostRangeSize (ctx n : Nat)
  | mwErr | elRd (die : Nat)
  | pagePolicy (page : Nat)
  | qosWeight (queue cls : Nat) | qosCredit (queue cls : Nat)
  | shadowRoute (part entry : Nat)
  | linkKey (port : Nat) | ptpConfig
  | retireWindow (cls : Nat) | retireThreshold (cls : Nat)
  | groupMember (die group rank : Nat) | groupSize (die group : Nat) | groupRank (die group : Nat)
  deriving DecidableEq, Repr

end Sys2Proof
end

