-- ==== Sys2Proof/Syntax.lean ====
section
/-! DEFINITION. The events of the device and the instructions of Nerrum: one constructor per row of the opcode table,
first the rows without an encoding (events), then the rows with one, each group in the table's order, its operand
fields as the table gives them (R46, R60 to R68). -/

namespace Sys2Proof

inductive Instr where
  /-- EMPTY_LINE_TIMEOUT (R180): An access that has waited 2^24 CCLK on an EMPTY line traps, or ends its engine operation. -/
  | emptyLineTimeout (core : Nat) (who : Waiter)
  /-- RENDEZVOUS_TIMEOUT (R155): An entry, of a gang value of a resident workgroup, open for 2^20 CCLK is discarded and its parked members trap. -/
  | rendezvousTimeout (core : Nat) (gng : RdvRef)
  /-- WSWAP_EFFECT (R173): The banks exchange once earlier MMAs have read their last row and earlier WLOADs are complete. -/
  | wswapEffect (core : Nat)
  /-- VAT_COMPLETE (R147): A WLOAD, MMA, MMAC, MZERO or MDRAIN completes and ENG decrements. -/
  | vatComplete (core : Nat) (op : Nat)
  /-- VAT_FAULT (R170): A Vat operation ends on a timeout or uncorrectable read, with its trap deferred. -/
  | vatFault (core : Nat) (code : BitVec 8)
  /-- LAUNCH_LOAD (R20): After XSTs to it land, the core writes back L1, loads boundaries, clears the pool and resets the Vat. -/
  | launchLoad (core ctx : Nat) (lr : BitVec 64) (why : LoadFor)
  /-- WG_ADMIT (R288): The head workgroup is admitted once slots, registers, accumulators and budgets allow. -/
  | wgAdmit (core : Nat)
  /-- WAVE_PROMOTE (R291): A wave ready for 64 CCLK without issuing is promoted. -/
  | wavePromote (core agent : Nat)
  /-- PART_WAKE (R297): A parked part wakes once its condition holds. -/
  | partWake (core agent part : Nat)
  /-- TRYWAIT_EXPIRE (R297): A try-wait returns its false predicate after sr.twh × 64 CCLK. -/
  | trywaitExpire (core agent part : Nat)
  /-- PREEMPT_REQUEST (R307): The launch processor asks a core, or a cluster's exchange cores, to stop at safe points. -/
  | preemptRequest (core : Nat)
  /-- PREEMPT_SAVE (R307): Once every part is stopped and the counters have drained, the core's state is saved. -/
  | preemptSave (core : Nat)
  /-- PREEMPT_FORCE (R308): After 2^20 CCLK, the unstopped parts stop at an instruction boundary and WATCHDOG is logged. -/
  | preemptForce (core : Nat)
  /-- RESUME (R309): The saved state is restored on the same core and each part continues. -/
  | resume (core : Nat)
  /-- ACCESS_COMPLETE (R221): A load, store, ordered access or atomic completes and its counter retires in order. -/
  | accessComplete (core agent : Nat) (cls : CounterClass) (op : Nat)
  /-- XST_LAND (R181): An XST lands in the peer's shadow bank and XC decrements. -/
  | xstLand (core op : Nat)
  /-- COPY_LAND (R268): A unit of up to 128 bytes lands or is read, and counts down on the barrier. -/
  | copyLand (core op : Nat)
  /-- COPY_VISIBLE (R269): A copy reaches its visible point; CP decrements and any signal is decremented. -/
  | copyVisible (core op : Nat)
  /-- COPY_ABORT (R273): An unresolvable fault ends a copy with a failed landing, FULL lines and a recorded fault. -/
  | copyAbort (core op : Nat) (code : BitVec 8) (addr : BitVec 64)
  /-- COLL_START (R281): A collective step begins sending its chunk once the previous step is visible. -/
  | collStart (core op : Nat)
  /-- COLL_CHUNK_ARRIVE (R280): A peer's chunk arrives and is reduced or gathered into DST. -/
  | collChunkArrive (core op : Nat) (data : List (BitVec 8))
  /-- COLL_END (R280): The step's sent chunk is acknowledged and its received chunk performed; the step is visible. -/
  | collEnd (core op : Nat)
  /-- PEER_UNREACHABLE (R280): A port reports a peer unreachable; steps fail and handles break. -/
  | peerUnreachable (dev : Nat)
  /-- PLAN_START (R316): A waiting plan first in priority order receives its cores and starts its stages. -/
  | planStart
  /-- PLAN_DRAIN (R342): Stops and ends every workgroup, discards the pipes, writes the status and decrements FAULT_SIG. -/
  | planDrain (plan : Nat) (st reason stage pipe : Nat)
  /-- RESERVE_SERVED (R326): A blocked reservation takes a freed slot and the next ticket. -/
  | reserveServed (plan pipe : Nat)
  /-- COMMIT_ARRIVE (R327): A commit reaches the home; void tickets are skipped and C_FREE is recomputed. -/
  | commitArrive (plan pipe : Nat) (ticket : Nat)
  /-- RELEASE_ARRIVE (R328): A release reaches the producer end and frees its slot. -/
  | releaseArrive (plan pipe : Nat) (ticket : Nat)
  /-- SEAL_ARRIVE (R329): A seal takes effect at an end, and waiting CRSVs may find the pipe closed. -/
  | sealArrive (plan pipe : Nat) (home : Bool)
  /-- OCCUPANCY_SAMPLE (R337): Every 1 µs, each pipe's occupancy is sampled at the producer end. -/
  | occupancySample (plan : Nat)
  /-- BALANCE (R338): At the end of a balance interval, a receiver and a donor are chosen and one core starts to move. -/
  | balance (plan : Nat)
  /-- CORE_MOVE_LOAD (R339): Once the donor's workgroups on the moving core have ended, the core loads the receiver's launch record. -/
  | coreMoveLoad (core : Nat)
  /-- DEADLOCK_SNAPSHOT (R341): Every DL_US the lead takes a snapshot and judges deadlock. -/
  | deadlockSnapshot (plan : Nat) (remoteQuiet : Bool) (remoteCount sent received : Nat)
  /-- ENERGY_WINDOW (R324): At each 1 ms TAI boundary a new energy window starts and refused heads are retested. -/
  | energyWindow
  /-- ENERGY_UPDATE (R457): Every 1 µs each core's energy count is brought up to date. -/
  | energyUpdate (core : Nat)
  /-- CLOCK_STRETCH (R324): Module power above the limit by more than 3 % over 100 µs stretches the clock, which is logged. -/
  | clockStretch
  /-- PASS_BEGIN (R349): A Ladle fixes a pass's subscribers and issues the page's first read. -/
  | passBegin (ctx : Nat) (sweep : BitVec 64) (die : Nat)
  /-- BATCH_ASSIGN (R352): A fetched batch is given to a waiting or next-arriving LPASS; bytes are posted and lines marked. -/
  | batchAssign (ctx : Nat) (sweep : BitVec 64) (core agent : Nat)
  /-- PARTIAL_ARRIVE (R359): A partial reaches the Hoop and is merged, held, spilled or discarded. -/
  | partialArrive (op : Nat)
  /-- HOOP_WAIT_EXPIRE (R359): After 8 µs without a buffer the partial goes to Whey, or the slot breaks. -/
  | hoopWaitExpire (op : Nat)
  /-- TASK_ENQUEUE (R374): A task record enters a device's task queue, or is discarded when cancelled. -/
  | taskEnqueue (op : MsgRef)
  /-- TASK_START (R374): The head record is checked, tested for cancel, and admitted as a workgroup. -/
  | taskStart (ctx : Nat)
  /-- INVOCATION_ARRIVE (R379): An RINVH reaches its input handle's home and is broken, forwarded or held. -/
  | invocationArrive (op : MsgRef)
  /-- HANDLE_SETTLE (R381): A resolution or break reaches the home; waiting invocations are placed and SIG decremented. -/
  | handleSettle (handle : BitVec 64) (how : Settlement)
  /-- QUEUE_REPORT (R387): Every 100 µs each device reports its task queue lengths. -/
  | queueReport (dev ctx len : Nat)
  /-- CANCEL_ARRIVE (R392): A JCAN message reserves or sets or clears a cancel bit on a device. -/
  | cancelArrive (dev ctx : Nat) (job : BitVec 32) (act : CancelAct)
  /-- JCAN_COMPLETE (R392): Every device has acknowledged and JCAN writes D. -/
  | jcanComplete (op : Nat)
  /-- MIGRATE (R406): The owning master migrates a resolved result's pages and the home moves LOC. -/
  | migrate (handle : BitVec 64) (dev : Nat)
  /-- NAK_REPORT (R435): A NAK reaches the core; the wave parks its memory issue, or a copy suspends. -/
  | nakReport (core agent op : Nat)
  /-- PAGER_ANSWER (R436): The pager resolves or refuses a NAK. -/
  | pagerAnswer (page : Nat) (resolved : Bool)
  /-- MEMORY_ISSUE_RESUME (R436): Once every replay is complete, memory issue resumes or MEMORY_FAULT is taken at the park point. -/
  | memoryIssueResume (core agent : Nat)
  /-- RD (R198): A read packet from a slice is served by the base die in port order. -/
  | rd (die slice stack pch tag : Nat)
  /-- WR (R199): A masked write packet is applied, by read-modify-write when it partly covers an ECC word. -/
  | wr (die slice stack pch tag : Nat)
  /-- RDR (R196): Read data returns to the slice and frees its tag. -/
  | rdr (die slice stack pch tag : Nat)
  /-- WRA (R196): A write acknowledgement returns to the slice. -/
  | wra (die slice stack pch tag : Nat)
  /-- NAK (R196): The base die refuses a request with a fault code. -/
  | nak (die slice stack pch tag : Nat) (code : BitVec 8)
  /-- PORT_SEND (R197): A request waiting for a tag of its pseudo-channel leaves the port. -/
  | portSend (die slice stack pch : Nat)
  /-- SLICE_WRITE (R188): A write, write-back or atomic reaches its home slice and takes a sequence tag. -/
  | sliceWrite (ctx : Nat) (ia : Nat) (data : List (BitVec 8)) (mask : List Bool)
  /-- LINE_FILL (R189): A line fill reaches a slice and is fetched as two RDs. -/
  | lineFill (core : Nat) (ia : Nat)
  /-- WRITE_BACK (R185): A dirty line is written back on eviction. -/
  | writeBack (level : CacheLevel) (line : Nat)
  /-- POD_REQUEST (R417): A pod request arrives and is checked against the context and page owner. -/
  | podRequest (ctx : Nat) (off : Nat) (req : PodReq)
  /-- COLLAPSE (R404): A write to a read-duplicated page starts invalidating its replicas. -/
  | collapse (page : Nat)
  /-- REPLICA_INVALIDATE (R404): A replica device unmaps the replica, discards its lines and acknowledges. -/
  | replicaInvalidate (page : Nat) (dev : Nat)
  /-- COLLAPSE_DONE (R404): Every acknowledgement is in; POLICY becomes 0 and faulting lanes replay. -/
  | collapseDone (page : Nat)
  /-- REPLICA_MAKE (R403): The reader's pager fills a replica of a read-duplicated page. -/
  | replicaMake (page dev : Nat) (data : List (Nat × BitVec 8))
  /-- PAGE_OWNER_CHANGE (R402): A page or granule is written back, zeroed and given a new owner. -/
  | pageOwnerChange (page : PageRef) (owner : Option Nat)
  /-- ERROR_EVENT (R443): A correctable or uncorrectable event is counted on its unit and may retire it. -/
  | errorEvent (chan : Nat) (cls unit : Nat) (uncorrectable : Bool) (ctx : Option Nat) (at_ : Nat)
  /-- ACTIVATION_ALERT (R449): A stack's activation alert is served within its window, with any owed refresh first. -/
  | activationAlert (die stack pch : Nat)
  /-- PTP_EXCHANGE (R452): Every 1 ms the device sends a timestamped flit to the adapter. -/
  | ptpExchange
  /-- PTP_REPLY (R452): The reply completes an exchange; offset and delay are computed, the rate slewed and the state updated. -/
  | ptpReply (t2 t3 : Nat)
  /-- PTP_TIMEOUT (R453): No completed exchange for 3 ms moves LOCKED to HOLDOVER. -/
  | ptpTimeout
  /-- LANE_FAIL (R411): A lane failing training or its error threshold is dropped. -/
  | laneFail (link lane : Nat)
  /-- FLIT_REPLAY (R411): A flit with a bad CRC is replayed, and the link retrains after 8 failures. -/
  | flitReplay (ok : Bool)
  /-- LINK_DOWN (R411): A link not retrained within 100 ms is down; class 6 accesses NAK and watches stop. -/
  | linkDown
  /-- DEVICE_RESET (R423): The boot ROM verifies the firmware image, or holds the device in recovery. -/
  | deviceReset (image : Option Image)
  /-- RECOVERY_IMAGE (R423): A streamed image is verified, then run and written to flash, or refused. -/
  | recoveryImage (image : Image)
  /-- SVN_RAISE (R423): A running image raises the fused minimum security version. -/
  | svnRaise (svn : Nat)
  /-- ATTESTATION_REQUEST (R425): Answers with a signed report of the firmware, configuration and plan digests. -/
  | attestationRequest (ctx : Nat) (nonce : BitVec 256)
  /-- LAUNCH_REQUEST (R413): A 64-byte launch-window write is queued, or discarded. -/
  | launchRequest (ctx off size : Nat) (data : BitVec 512)
  /-- LAUNCH_WAIT_SATISFIED (R414): A request whose signals are all at most 0 is passed to the plan controller. -/
  | launchWaitSatisfied (ctx idx : Nat)
  /-- WATCH_ARM (R415): Arms a signal watch, which fires at once when its condition already holds. -/
  | watchArm (ctx idx : Nat) (addr threshold : BitVec 64) (vector : Nat)
  /-- WATCH_FIRE (R415): An armed watch's signal reaches its threshold; the MSI-X vector fires and the watch disarms. -/
  | watchFire (ctx idx : Nat)
  /-- OWNERSHIP_CLAIM (R420): A master submits a priority and nonce claim to an open election. -/
  | ownershipClaim (master prio nonce : Nat)
  /-- ELECTION_DECIDE (R420): After 10 ms of collecting claims, the lowest claim wins. -/
  | electionDecide
  /-- HEARTBEAT (R421): The owner's heartbeat write keeps its ownership. -/
  | heartbeat (master : Nat)
  /-- OWNER_LAPSE (R421): One second without a heartbeat vacates ownership and opens an election. -/
  | ownerLapse
  /-- HANDOVER (R422): The owner names a successor's claim. -/
  | handover (master prio nonce : Nat)
  /-- ACCEPT (R422): The successor's matching claim passes ownership. -/
  | accept (master prio nonce : Nat)
  /-- HANDOVER_LAPSE (R422): An unaccepted handover lapses after 100 ms. -/
  | handoverLapse
  /-- POWER_LIMIT_WRITE (R1): Sets the module power limit, or is ignored outside 1 500 to 3 200 W. -/
  | powerLimitWrite (master watts : Nat)
  /-- CARVE_WRITE (R24): Changes VAULT_STEPS, or is ignored when the value or the moment is illegal. -/
  | carveWrite (master die : Nat) (v : BitVec 32)
  /-- CTX_ACTIVATE (R395): A write of 1 makes a FREE context ACTIVE. -/
  | ctxActivate (master ctx : Nat)
  /-- CTX_TEARDOWN (R395): A write of 2 stops admission and drains, ends and breaks everything of the context. -/
  | ctxTeardown (master ctx : Nat)
  /-- TEARDOWN_FREE (R395): Once the drains and page releases are done, STATE becomes FREE. -/
  | teardownFree (ctx : Nat)
  /-- MAP_WINDOW_WRITE (R397): Writes a map window, or refuses the write and sets MW_ERR. -/
  | mapWindowWrite (master ctx n : Nat) (va ia ctl : BitVec 64)
  /-- CB_CORES_WRITE (R323): Sets the core budget, taking effect as cores are freed. -/
  | cbCoresWrite (master ctx : Nat) (v : BitVec 32)
  /-- SWAP_REQ (R408): Stops a partition's sources from injecting. -/
  | swapReq (master part : Nat)
  /-- SWAP_DONE (R408): Once the partition has drained, its routing tables are exchanged and injection resumes. -/
  | swapDone
  /-- SNAP_REQ (R448): Latches every error counter, log and NEXT_EVENT in one step. -/
  | snapReq (master : Nat)
  /-- TR_BASE_WRITE (R459): Sets BASE and resets WR and RD while tracing is disabled. -/
  | trBaseWrite (master die : Nat) (v : BitVec 64)
  /-- TR_CTL_WRITE (R459): Sets EN and MASK, and LOG2SIZE when tracing was disabled. -/
  | trCtlWrite (master die : Nat) (v : BitVec 32)
  /-- TR_RD_WRITE (R460): Consumes trace records, or is ignored when out of range. -/
  | trRdWrite (die : Nat) (v : BitVec 64)
  /-- TR_DROPPED_WRITE (R459): Resets the dropped-record count to 0. -/
  | trDroppedWrite (master die : Nat)
  /-- DEVICE_NUMBER_WRITE (R418): Sets the pod device number while no context is active. -/
  | deviceNumberWrite (master : Nat) (v : BitVec 10)
  /-- REGISTER_WRITE (R421): Writes a management register that has no row of its own; non-owner writes are ignored. -/
  | registerWrite (master : Nat) (reg : MgmtReg) (v : Nat)
  /-- DRAIN_LINE_LAND (R168): An output line of an MDRAIN with BAR is written, turns FULL and counts its bytes down on the barrier, which may complete a phase. -/
  | drainLineLand (core op : Nat)
  /-- YIELD_EXPIRE (R305): The 16 CCLK during which a YIELD passes its wave over in the quarter run out, and the wave is eligible to issue again. -/
  | yieldExpire (core agent : Nat)
  /-- LINK_RETRAIN (R411): A link that began retraining after 8 failed replays of one flit completes its training within 100 ms and carries traffic again. -/
  | linkRetrain
  /-- STRETCH_END (R324): Measured module power falls below the limit, the clock stretch ends, and the stretch is logged with its length. -/
  | stretchEnd
  /-- REFRESH (R449): A refresh of a pseudo-channel falls due and is either issued or postponed, which raises or lowers its count of postponed refreshes (at most 8). -/
  | refresh (die stack pch : Nat) (issue : Bool)
  /-- ZTRAP (R63): A MISC word with FN 0, including the all-zero word, takes ILLEGAL_OPCODE whatever its other bits hold. -/
  | ztrap (x : BitVec 21)
  /-- NOP (R300): Occupies one CCLK of issue and has no other effect. -/
  | nop
  /-- EXIT (R301): Ends the lanes of the split; the last part first waits for LD, ST, ENG and XC to drain, and a copy context first waits for CP to drain. -/
  | exit
  /-- WSYNC (R302): Parks the split; when every part of the wave is parked at a WSYNC, the parts merge by address. -/
  | wsync
  /-- SRD (R303): Reads the special register numbered in A into scalar D, zero-extended. -/
  | srd (a : BitVec 7) (d : BitVec 7)
  /-- SWR (R303): Writes scalar A into the writable special register numbered in D. -/
  | swr (a : BitVec 7) (d : BitVec 7)
  /-- RFT (R433): Ends the in-handler state and continues the split at sr.epc. -/
  | rft
  /-- CLKRD (R455): Reads the die's time base into sN and its sync status into sN+1. -/
  | clkrd (d : BitVec 7)
  /-- TMARK (R456): Writes a TMARK trace record carrying the value of A. -/
  | tmark (a : BitVec 7)
  /-- ERD (R457): Writes the energy or trace count named by the selector in A to D. -/
  | erd (a : BitVec 7) (d : BitVec 7)
  /-- WINB (R304): Sets the vector window base sr.wb, or takes WINDOW_RANGE. -/
  | winb (a : BitVec 7)
  /-- YIELD (R305): Passes the wave over in its quarter for up to 16 CCLK, or the copy context over for one round. -/
  | yield
  /-- BKPT (R432): Raises BREAKPOINT. -/
  | bkpt
  /-- TRAP (R432): Raises the software trap code 0x20 to 0x3F. -/
  | trap (c : BitVec 8)
  /-- SAFEPT (R306): Marks a safe point with a live-mask index; it parks the part while a pre-emption is pending. -/
  | safept (n : BitVec 12)
  /-- LIMM (R50): Supplies bits [37:12] of the following word's immediate; the pair issues as one unit. -/
  | limm (i : BitVec 26)
  /-- IADD (R106): Wrapping integer add at 32 or 64 bits. -/
  | iadd (w : BitVec 1) (b : BitVec 7) (a : BitVec 7) (d : BitVec 7)
  /-- ISUB (R106): Wrapping integer subtract. -/
  | isub (w : BitVec 1) (b : BitVec 7) (a : BitVec 7) (d : BitVec 7)
  /-- IMUL (R106): Low bits of the integer product. -/
  | imul (w : BitVec 1) (b : BitVec 7) (a : BitVec 7) (d : BitVec 7)
  /-- IMULHS (R106): Upper bits of the signed product. -/
  | imulhs (w : BitVec 1) (b : BitVec 7) (a : BitVec 7) (d : BitVec 7)
  /-- IMULHN (R106): Upper bits of the unsigned product. -/
  | imulhn (w : BitVec 1) (b : BitVec 7) (a : BitVec 7) (d : BitVec 7)
  /-- IMAD (R106): Multiply-add into D, wrapping. -/
  | imad (w : BitVec 1) (b : BitVec 7) (a : BitVec 7) (d : BitVec 7)
  /-- IMINS (R106): Signed minimum. -/
  | imins (w : BitVec 1) (b : BitVec 7) (a : BitVec 7) (d : BitVec 7)
  /-- IMINN (R106): Unsigned minimum. -/
  | iminn (w : BitVec 1) (b : BitVec 7) (a : BitVec 7) (d : BitVec 7)
  /-- IMAXS (R106): Signed maximum. -/
  | imaxs (w : BitVec 1) (b : BitVec 7) (a : BitVec 7) (d : BitVec 7)
  /-- IMAXN (R106): Unsigned maximum. -/
  | imaxn (w : BitVec 1) (b : BitVec 7) (a : BitVec 7) (d : BitVec 7)
  /-- IABS (R106): Absolute value, wrapping at the most negative value. -/
  | iabs (w : BitVec 1) (a : BitVec 7) (d : BitVec 7)
  /-- INEG (R106): Wrapping negation. -/
  | ineg (w : BitVec 1) (a : BitVec 7) (d : BitVec 7)
  /-- AND (R106): Bitwise AND. -/
  | and (w : BitVec 1) (b : BitVec 7) (a : BitVec 7) (d : BitVec 7)
  /-- OR (R106): Bitwise OR. -/
  | or (w : BitVec 1) (b : BitVec 7) (a : BitVec 7) (d : BitVec 7)
  /-- XOR (R106): Bitwise XOR. -/
  | xor (w : BitVec 1) (b : BitVec 7) (a : BitVec 7) (d : BitVec 7)
  /-- ANDN (R106): A AND NOT B. -/
  | andn (w : BitVec 1) (b : BitVec 7) (a : BitVec 7) (d : BitVec 7)
  /-- SHL (R106): Shift left by a register amount; the result is 0 when the amount is at least w. -/
  | shl (w : BitVec 1) (b : BitVec 7) (a : BitVec 7) (d : BitVec 7)
  /-- SHR (R106): Logical shift right by a register amount. -/
  | shr (w : BitVec 1) (b : BitVec 7) (a : BitVec 7) (d : BitVec 7)
  /-- SRA (R106): Arithmetic shift right by a register amount. -/
  | sra (w : BitVec 1) (b : BitVec 7) (a : BitVec 7) (d : BitVec 7)
  /-- ROTL (R106): Rotate left by the register amount modulo w. -/
  | rotl (w : BitVec 1) (b : BitVec 7) (a : BitVec 7) (d : BitVec 7)
  /-- POPC (R106): Population count. -/
  | popc (w : BitVec 1) (a : BitVec 7) (d : BitVec 7)
  /-- CLZ (R106): Count of leading zeros. -/
  | clz (w : BitVec 1) (a : BitVec 7) (d : BitVec 7)
  /-- BREV (R106): Bit reversal. -/
  | brev (w : BitVec 1) (a : BitVec 7) (d : BitVec 7)
  /-- IADDSS (R106): Signed saturating add. -/
  | iaddss (w : BitVec 1) (b : BitVec 7) (a : BitVec 7) (d : BitVec 7)
  /-- IADDSN (R106): Unsigned saturating add. -/
  | iaddsn (w : BitVec 1) (b : BitVec 7) (a : BitVec 7) (d : BitVec 7)
  /-- ISUBSS (R106): Signed saturating subtract. -/
  | isubss (w : BitVec 1) (b : BitVec 7) (a : BitVec 7) (d : BitVec 7)
  /-- ISUBSN (R106): Unsigned saturating subtract. -/
  | isubsn (w : BitVec 1) (b : BitVec 7) (a : BitVec 7) (d : BitVec 7)
  /-- MOV (R106): Register move. -/
  | mov (w : BitVec 1) (a : BitVec 7) (d : BitVec 7)
  /-- SEL (R107): Selects A or B per lane on mask m0 to m3, or on the active lanes in scalar execution. -/
  | sel (w : BitVec 1) (m : BitVec 2) (b : BitVec 7) (a : BitVec 7) (d : BitVec 7)
  /-- ICMP_EQ (R113): Integer compare for equality into a mask or a register. -/
  | icmpEq (k : BitVec 1) (w : BitVec 1) (b : BitVec 7) (a : BitVec 7) (d : BitVec 7)
  /-- ICMP_NE (R113): Integer compare for inequality. -/
  | icmpNe (k : BitVec 1) (w : BitVec 1) (b : BitVec 7) (a : BitVec 7) (d : BitVec 7)
  /-- ICMP_LT_S (R113): Signed less-than compare. -/
  | icmpLtS (k : BitVec 1) (w : BitVec 1) (b : BitVec 7) (a : BitVec 7) (d : BitVec 7)
  /-- ICMP_LE_S (R113): Signed less-or-equal compare. -/
  | icmpLeS (k : BitVec 1) (w : BitVec 1) (b : BitVec 7) (a : BitVec 7) (d : BitVec 7)
  /-- ICMP_LT_N (R113): Unsigned less-than compare. -/
  | icmpLtN (k : BitVec 1) (w : BitVec 1) (b : BitVec 7) (a : BitVec 7) (d : BitVec 7)
  /-- ICMP_LE_N (R113): Unsigned less-or-equal compare. -/
  | icmpLeN (k : BitVec 1) (w : BitVec 1) (b : BitVec 7) (a : BitVec 7) (d : BitVec 7)
  /-- ICMP_TST (R113): True where A AND B is non-zero. -/
  | icmpTst (k : BitVec 1) (w : BitVec 1) (b : BitVec 7) (a : BitVec 7) (d : BitVec 7)
  /-- BFXI (R112): Extracts a bit field given by an immediate position and length. -/
  | bfxi (l : BitVec 6) (p : BitVec 6) (a : BitVec 7) (d : BitVec 7)
  /-- BFII (R112): Inserts a bit field of A into D. -/
  | bfii (l : BitVec 6) (p : BitVec 6) (a : BitVec 7) (d : BitVec 7)
  /-- IADDI (R109): Adds a signed immediate. -/
  | iaddi (i : BitVec 12) (a : BitVec 7) (d : BitVec 7)
  /-- ANDI (R109): ANDs a signed immediate. -/
  | andi (i : BitVec 12) (a : BitVec 7) (d : BitVec 7)
  /-- ORI (R109): ORs a signed immediate. -/
  | ori (i : BitVec 12) (a : BitVec 7) (d : BitVec 7)
  /-- XORI (R109): XORs a signed immediate. -/
  | xori (i : BitVec 12) (a : BitVec 7) (d : BitVec 7)
  /-- SHFI_SHL (R110): Shift left by an immediate amount. -/
  | shfiShl (w : BitVec 1) (n : BitVec 6) (a : BitVec 7) (d : BitVec 7)
  /-- SHFI_SHR (R110): Logical shift right by an immediate amount. -/
  | shfiShr (w : BitVec 1) (n : BitVec 6) (a : BitVec 7) (d : BitVec 7)
  /-- SHFI_SRA (R110): Arithmetic shift right by an immediate amount. -/
  | shfiSra (w : BitVec 1) (n : BitVec 6) (a : BitVec 7) (d : BitVec 7)
  /-- SHFI_ROTL (R110): Rotate left by an immediate amount. -/
  | shfiRotl (w : BitVec 1) (n : BitVec 6) (a : BitVec 7) (d : BitVec 7)
  /-- MOVI (R111): Moves a sign-extended 19-bit immediate into D. -/
  | movi (i : BitVec 12) (j : BitVec 7) (d : BitVec 7)
  /-- ICMPI (R114): Compares A against an immediate under a condition code, into a mask. -/
  | icmpi (i : BitVec 12) (a : BitVec 7) (c : BitVec 4) (m : BitVec 3)
  /-- FADD (R122): FP32 add rounded under sr.frm. -/
  | fadd (b : BitVec 7) (a : BitVec 7) (d : BitVec 7)
  /-- FSUB (R122): FP32 subtract. -/
  | fsub (b : BitVec 7) (a : BitVec 7) (d : BitVec 7)
  /-- FMUL (R122): FP32 multiply. -/
  | fmul (b : BitVec 7) (a : BitVec 7) (d : BitVec 7)
  /-- FMIN (R123): FP32 minimum that treats a NaN as missing. -/
  | fmin (b : BitVec 7) (a : BitVec 7) (d : BitVec 7)
  /-- FMAX (R123): FP32 maximum that treats a NaN as missing. -/
  | fmax (b : BitVec 7) (a : BitVec 7) (d : BitVec 7)
  /-- FABS (R122): Clears the sign bit. -/
  | fabs (a : BitVec 7) (d : BitVec 7)
  /-- FNEG (R122): Inverts the sign bit. -/
  | fneg (a : BitVec 7) (d : BitVec 7)
  /-- FCPYS (R122): Copies the sign of B onto A. -/
  | fcpys (b : BitVec 7) (a : BitVec 7) (d : BitVec 7)
  /-- FMINM (R123): NaN-propagating FP32 minimum. -/
  | fminm (b : BitVec 7) (a : BitVec 7) (d : BitVec 7)
  /-- FMAXM (R123): NaN-propagating FP32 maximum. -/
  | fmaxm (b : BitVec 7) (a : BitVec 7) (d : BitVec 7)
  /-- FFLOOR (R122): Largest integral value not above A. -/
  | ffloor (a : BitVec 7) (d : BitVec 7)
  /-- FCEIL (R122): Smallest integral value not below A. -/
  | fceil (a : BitVec 7) (d : BitVec 7)
  /-- FTRUNC (R122): Integral value toward zero. -/
  | ftrunc (a : BitVec 7) (d : BitVec 7)
  /-- FRINT (R122): Rounds to an integral value under sr.frm. -/
  | frint (a : BitVec 7) (d : BitVec 7)
  /-- FCLASS (R124): Writes the one-hot class mask of A. -/
  | fclass (a : BitVec 7) (d : BitVec 7)
  /-- FMA (R126): Fused a × b + d with one rounding. -/
  | fma (t : BitVec 3) (b : BitVec 7) (a : BitVec 7) (d : BitVec 7)
  /-- FMS (R126): Fused a × b − d. -/
  | fms (t : BitVec 3) (b : BitVec 7) (a : BitVec 7) (d : BitVec 7)
  /-- NFMA (R126): Fused −a × b + d. -/
  | nfma (t : BitVec 3) (b : BitVec 7) (a : BitVec 7) (d : BitVec 7)
  /-- NFMS (R126): Fused −a × b − d. -/
  | nfms (t : BitVec 3) (b : BitVec 7) (a : BitVec 7) (d : BitVec 7)
  /-- FCMP_EQ (R127): Floating-point equality compare. -/
  | fcmpEq (k : BitVec 1) (w : BitVec 1) (b : BitVec 7) (a : BitVec 7) (d : BitVec 7)
  /-- FCMP_NE (R127): Floating-point inequality compare, true on NaN. -/
  | fcmpNe (k : BitVec 1) (w : BitVec 1) (b : BitVec 7) (a : BitVec 7) (d : BitVec 7)
  /-- FCMP_LT (R127): Floating-point less-than compare. -/
  | fcmpLt (k : BitVec 1) (w : BitVec 1) (b : BitVec 7) (a : BitVec 7) (d : BitVec 7)
  /-- FCMP_LE (R127): Floating-point less-or-equal compare. -/
  | fcmpLe (k : BitVec 1) (w : BitVec 1) (b : BitVec 7) (a : BitVec 7) (d : BitVec 7)
  /-- FCMP_UNORD (R127): True when either operand is NaN. -/
  | fcmpUnord (k : BitVec 1) (w : BitVec 1) (b : BitVec 7) (a : BitVec 7) (d : BitVec 7)
  /-- FCMP_ORD (R127): True when neither operand is NaN. -/
  | fcmpOrd (k : BitVec 1) (w : BitVec 1) (b : BitVec 7) (a : BitVec 7) (d : BitVec 7)
  /-- FRCP (R128): Correctly rounded reciprocal. -/
  | frcp (a : BitVec 7) (d : BitVec 7)
  /-- FRSQ (R128): Correctly rounded reciprocal square root. -/
  | frsq (a : BitVec 7) (d : BitVec 7)
  /-- FSQRT (R128): Correctly rounded square root. -/
  | fsqrt (a : BitVec 7) (d : BitVec 7)
  /-- FEX2 (R128): Correctly rounded 2 to the power x. -/
  | fex2 (a : BitVec 7) (d : BitVec 7)
  /-- FLG2 (R128): Correctly rounded base-2 logarithm. -/
  | flg2 (a : BitVec 7) (d : BitVec 7)
  /-- FSINP (R128): Correctly rounded sin(πx). -/
  | fsinp (a : BitVec 7) (d : BitVec 7)
  /-- FCOSP (R128): Correctly rounded cos(πx). -/
  | fcosp (a : BitVec 7) (d : BitVec 7)
  /-- FTANH (R128): Correctly rounded tanh. -/
  | ftanh (a : BitVec 7) (d : BitVec 7)
  /-- FDIV (R129): Correctly rounded FP32 division. -/
  | fdiv (b : BitVec 7) (a : BitVec 7) (d : BitVec 7)
  /-- CVT_F32_S32 (R135): Converts FP32 to signed 32-bit integer under RM. -/
  | cvtF32S32 (rm : BitVec 2) (a : BitVec 7) (d : BitVec 7)
  /-- CVT_F32_N32 (R135): Converts FP32 to unsigned 32-bit integer. -/
  | cvtF32N32 (rm : BitVec 2) (a : BitVec 7) (d : BitVec 7)
  /-- CVT_S32_F32 (R134): Converts signed 32-bit integer to FP32. -/
  | cvtS32F32 (rm : BitVec 2) (a : BitVec 7) (d : BitVec 7)
  /-- CVT_N32_F32 (R134): Converts unsigned 32-bit integer to FP32. -/
  | cvtN32F32 (rm : BitVec 2) (a : BitVec 7) (d : BitVec 7)
  /-- CVT_F32_F16 (R134): Converts a pair of FP32 to packed f16x2. -/
  | cvtF32F16 (sr : BitVec 1) (sat : BitVec 1) (rm : BitVec 2) (a : BitVec 7) (d : BitVec 7)
  /-- CVT_F16_F32 (R134): Widens packed f16x2 to a pair of FP32 exactly. -/
  | cvtF16F32 (a : BitVec 7) (d : BitVec 7)
  /-- CVT_F32_BF16 (R134): Converts a pair of FP32 to packed bf16x2. -/
  | cvtF32Bf16 (sr : BitVec 1) (sat : BitVec 1) (rm : BitVec 2) (a : BitVec 7) (d : BitVec 7)
  /-- CVT_BF16_F32 (R134): Widens packed bf16x2 to a pair of FP32. -/
  | cvtBf16F32 (a : BitVec 7) (d : BitVec 7)
  /-- CVT_F32_E4M3 (R134): Narrows FP32 to an E4M3 code. -/
  | cvtF32E4m3 (sr : BitVec 1) (sat : BitVec 1) (rm : BitVec 2) (a : BitVec 7) (d : BitVec 7)
  /-- CVT_F32_E5M2 (R134): Narrows FP32 to an E5M2 code. -/
  | cvtF32E5m2 (sr : BitVec 1) (sat : BitVec 1) (rm : BitVec 2) (a : BitVec 7) (d : BitVec 7)
  /-- CVT_E4M3_F32 (R134): Widens an E4M3 code to FP32. -/
  | cvtE4m3F32 (a : BitVec 7) (d : BitVec 7)
  /-- CVT_E5M2_F32 (R134): Widens an E5M2 code to FP32. -/
  | cvtE5m2F32 (a : BitVec 7) (d : BitVec 7)
  /-- CVT_F32_E2M3 (R134): Narrows FP32 to an E2M3 code. -/
  | cvtF32E2m3 (sr : BitVec 1) (sat : BitVec 1) (rm : BitVec 2) (a : BitVec 7) (d : BitVec 7)
  /-- CVT_F32_E3M2 (R134): Narrows FP32 to an E3M2 code. -/
  | cvtF32E3m2 (sr : BitVec 1) (sat : BitVec 1) (rm : BitVec 2) (a : BitVec 7) (d : BitVec 7)
  /-- CVT_E2M3_F32 (R134): Widens an E2M3 code to FP32. -/
  | cvtE2m3F32 (a : BitVec 7) (d : BitVec 7)
  /-- CVT_E3M2_F32 (R134): Widens an E3M2 code to FP32. -/
  | cvtE3m2F32 (a : BitVec 7) (d : BitVec 7)
  /-- CVT_F32_E2M1 (R134): Narrows FP32 to an E2M1 code. -/
  | cvtF32E2m1 (sr : BitVec 1) (sat : BitVec 1) (rm : BitVec 2) (a : BitVec 7) (d : BitVec 7)
  /-- CVT_E2M1_F32 (R134): Widens an E2M1 code to FP32. -/
  | cvtE2m1F32 (a : BitVec 7) (d : BitVec 7)
  /-- CVT_F32_F64 (R134): Widens FP32 to an FP64 pair exactly. -/
  | cvtF32F64 (a : BitVec 7) (d : BitVec 7)
  /-- CVT_F64_F32 (R134): Narrows FP64 to FP32. -/
  | cvtF64F32 (sat : BitVec 1) (rm : BitVec 2) (a : BitVec 7) (d : BitVec 7)
  /-- CVT_F64_S64 (R135): Converts FP64 to signed 64-bit integer. -/
  | cvtF64S64 (rm : BitVec 2) (a : BitVec 7) (d : BitVec 7)
  /-- CVT_S64_F64 (R134): Converts signed 64-bit integer to FP64. -/
  | cvtS64F64 (rm : BitVec 2) (a : BitVec 7) (d : BitVec 7)
  /-- CVT_F32_S64 (R135): Converts FP32 to signed 64-bit integer. -/
  | cvtF32S64 (rm : BitVec 2) (a : BitVec 7) (d : BitVec 7)
  /-- CVT_E8M0_F32 (R134): Widens an E8M0 code to FP32. -/
  | cvtE8m0F32 (a : BitVec 7) (d : BitVec 7)
  /-- CVT_F32_E8M0 (R93): Narrows FP32 to an E8M0 code. -/
  | cvtF32E8m0 (sr : BitVec 1) (sat : BitVec 1) (rm : BitVec 2) (a : BitVec 7) (d : BitVec 7)
  /-- CVT_S32_S8 (R135): Clamps a signed 32-bit value to the signed 8-bit range. -/
  | cvtS32S8 (a : BitVec 7) (d : BitVec 7)
  /-- HADD2 (R131): Packed FP16 or BF16 add. -/
  | hadd2 (f : BitVec 1) (b : BitVec 7) (a : BitVec 7) (d : BitVec 7)
  /-- HSUB2 (R131): Packed half subtract. -/
  | hsub2 (f : BitVec 1) (b : BitVec 7) (a : BitVec 7) (d : BitVec 7)
  /-- HMUL2 (R131): Packed half multiply. -/
  | hmul2 (f : BitVec 1) (b : BitVec 7) (a : BitVec 7) (d : BitVec 7)
  /-- HMIN2 (R131): Packed half minimum. -/
  | hmin2 (f : BitVec 1) (b : BitVec 7) (a : BitVec 7) (d : BitVec 7)
  /-- HMAX2 (R131): Packed half maximum. -/
  | hmax2 (f : BitVec 1) (b : BitVec 7) (a : BitVec 7) (d : BitVec 7)
  /-- DADD (R132): FP64 add. -/
  | dadd (b : BitVec 7) (a : BitVec 7) (d : BitVec 7)
  /-- DSUB (R132): FP64 subtract. -/
  | dsub (b : BitVec 7) (a : BitVec 7) (d : BitVec 7)
  /-- DMUL (R132): FP64 multiply. -/
  | dmul (b : BitVec 7) (a : BitVec 7) (d : BitVec 7)
  /-- DMIN (R132): FP64 minimum. -/
  | dmin (b : BitVec 7) (a : BitVec 7) (d : BitVec 7)
  /-- DMAX (R132): FP64 maximum. -/
  | dmax (b : BitVec 7) (a : BitVec 7) (d : BitVec 7)
  /-- DDIV (R132): Correctly rounded FP64 division. -/
  | ddiv (b : BitVec 7) (a : BitVec 7) (d : BitVec 7)
  /-- WRED_ADD_F32 (R138): FP32 sum over the active lanes by a fixed pairwise tree. -/
  | wredAddF32 (a : BitVec 7) (d : BitVec 7)
  /-- WRED_ADD_S32 (R138): Wrapping s32 sum over the active lanes. -/
  | wredAddS32 (a : BitVec 7) (d : BitVec 7)
  /-- WRED_MIN_F32 (R139): FP32 minimum over the active lanes. -/
  | wredMinF32 (a : BitVec 7) (d : BitVec 7)
  /-- WRED_MAX_F32 (R139): FP32 maximum over the active lanes. -/
  | wredMaxF32 (a : BitVec 7) (d : BitVec 7)
  /-- WRED_MIN_S32 (R139): Signed minimum over the active lanes. -/
  | wredMinS32 (a : BitVec 7) (d : BitVec 7)
  /-- WRED_MAX_S32 (R139): Signed maximum over the active lanes. -/
  | wredMaxS32 (a : BitVec 7) (d : BitVec 7)
  /-- WRED_AND (R139): AND over the active lanes. -/
  | wredAnd (a : BitVec 7) (d : BitVec 7)
  /-- WRED_OR (R139): OR over the active lanes. -/
  | wredOr (a : BitVec 7) (d : BitVec 7)
  /-- WSCAN_ADD_F32 (R140): Inclusive FP32 scan in Kogge-Stone rounds. -/
  | wscanAddF32 (a : BitVec 7) (d : BitVec 7)
  /-- WSCAN_ADD_S32 (R140): Inclusive wrapping s32 scan. -/
  | wscanAddS32 (a : BitVec 7) (d : BitVec 7)
  /-- SHFL_IDX (R141): Reads the source lane given by index. -/
  | shflIdx (b : BitVec 7) (a : BitVec 7) (d : BitVec 7)
  /-- SHFL_UP (R141): Reads lane L minus B. -/
  | shflUp (b : BitVec 7) (a : BitVec 7) (d : BitVec 7)
  /-- SHFL_DOWN (R141): Reads lane L plus B. -/
  | shflDown (b : BitVec 7) (a : BitVec 7) (d : BitVec 7)
  /-- SHFL_XOR (R141): Reads lane L xor B. -/
  | shflXor (b : BitVec 7) (a : BitVec 7) (d : BitVec 7)
  /-- WVOTE_ANY (R137): 1 when any active lane has its mask bit set. -/
  | wvoteAny (a : BitVec 7) (d : BitVec 7)
  /-- WVOTE_ALL (R137): 1 when every active lane has its mask bit set. -/
  | wvoteAll (a : BitVec 7) (d : BitVec 7)
  /-- WBALLOT (R137): Gathers the non-zero active lanes into a 64-bit scalar. -/
  | wballot (a : BitVec 7) (d : BitVec 7)
  /-- WBCAST (R137): Broadcasts one lane to all active lanes. -/
  | wbcast (b : BitVec 7) (a : BitVec 7) (d : BitVec 7)
  /-- WGETL (R137): Reads one lane into a scalar. -/
  | wgetl (b : BitVec 7) (a : BitVec 7) (d : BitVec 7)
  /-- WSETL (R137): Writes a scalar into one active lane. -/
  | wsetl (b : BitVec 7) (a : BitVec 7) (d : BitVec 7)
  /-- MAND (R115): Mask AND for the em lanes. -/
  | mand (b : BitVec 7) (a : BitVec 7) (d : BitVec 7)
  /-- MOR (R115): Mask OR for the em lanes. -/
  | mor (b : BitVec 7) (a : BitVec 7) (d : BitVec 7)
  /-- MXOR (R115): Mask XOR for the em lanes. -/
  | mxor (b : BitVec 7) (a : BitVec 7) (d : BitVec 7)
  /-- MANDN (R115): Mask AND NOT for the em lanes. -/
  | mandn (b : BitVec 7) (a : BitVec 7) (d : BitVec 7)
  /-- MNOT (R115): Mask NOT for the em lanes. -/
  | mnot (a : BitVec 7) (d : BitVec 7)
  /-- MMOV (R115): Mask move for the em lanes. -/
  | mmov (a : BitVec 7) (d : BitVec 7)
  /-- MPOPC (R115): Counts the mask bits of the active lanes. -/
  | mpopc (a : BitVec 7) (d : BitVec 7)
  /-- MFFS (R115): Index of the lowest active set mask bit, or 64 when there is none. -/
  | mffs (a : BitVec 7) (d : BitVec 7)
  /-- MSAVE (R115): Saves em of the split's lanes into a mask. -/
  | msave (d : BitVec 7)
  /-- MREST (R115): Restores em from a mask, limited to the split's lanes. -/
  | mrest (a : BitVec 7)
  /-- MSET (R115): Sets the mask bits of the em lanes. -/
  | mset (d : BitVec 7)
  /-- MCLR (R115): Clears the mask bits of the em lanes. -/
  | mclr (d : BitVec 7)
  /-- MTOS (R115): Copies a whole mask to a scalar. -/
  | mtos (a : BitVec 7) (d : BitVec 7)
  /-- MFRS (R115): Copies a scalar to a whole mask. -/
  | mfrs (a : BitVec 7) (d : BitVec 7)
  /-- SBIND (R242): Reads a stream descriptor and binds it to a q register. -/
  | sbind (a : BitVec 7) (q : BitVec 2)
  /-- SSKIP (R243): Advances a stream by n without reading. -/
  | sskip (a : BitVec 7) (q : BitVec 2)
  /-- SFLAG (R245): Reads the stream's end-of-dimension flags. -/
  | sflag (q : BitVec 2) (d : BitVec 7)
  /-- SUNB (R245): Unbinds a stream. -/
  | sunb (q : BitVec 2)
  /-- SPOS (R245): Reads the stream position P. -/
  | spos (q : BitVec 2) (d : BitVec 7)
  /-- WAITC (R223): Waits until each completion counter is at or below its threshold. -/
  | waitc (ld : BitVec 3) (st : BitVec 3) (eng : BitVec 3) (xc : BitVec 3)
  /-- BRA (R298): Unconditional branch of the whole split. -/
  | bra (o : BitVec 26)
  /-- CALL (R298): Branches and writes the return address to s23. -/
  | call (o : BitVec 26)
  /-- BRC (R298): Branches the split on a signed 64-bit test of a scalar register. -/
  | brc (c : BitVec 3) (r : BitVec 7) (o : BitVec 16)
  /-- BRD_T (R293): Divergent branch of the lanes whose mask bit is 1, creating a split or a deferred entry. -/
  | brdT (r : BitVec 7) (o : BitVec 16)
  /-- BRD_F (R293): Divergent branch of the lanes whose mask bit is 0. -/
  | brdF (r : BitVec 7) (o : BitVec 16)
  /-- BANY (R298): Uniform branch when any active lane has its mask bit set. -/
  | bany (r : BitVec 7) (o : BitVec 16)
  /-- BALL (R298): Uniform branch when every active lane has its mask bit set. -/
  | ball (r : BitVec 7) (o : BitVec 16)
  /-- BNONE (R298): Uniform branch when no active lane has its mask bit set. -/
  | bnone (r : BitVec 7) (o : BitVec 16)
  /-- BEOD_SET (R298): Branches when the stream's end-of-dimension flag is set. -/
  | beodSet (d : BitVec 2) (q : BitVec 2) (o : BitVec 16)
  /-- BEOD_CLR (R298): Branches when the stream's end-of-dimension flag is clear. -/
  | beodClr (d : BitVec 2) (q : BitVec 2) (o : BitVec 16)
  /-- JMP (R299): Jumps to the address held in a scalar register. -/
  | jmp (a : BitVec 7)
  /-- CALLR (R299): Calls the address in a register and writes s23. -/
  | callr (a : BitVec 7)
  /-- RET (R299): Jumps to lk. -/
  | ret
  /-- LDB (R229): Loads a byte, zero-extended. -/
  | ldb (i : BitVec 12) (a : BitVec 7) (d : BitVec 7)
  /-- LDBS (R229): Loads a byte, sign-extended. -/
  | ldbs (i : BitVec 12) (a : BitVec 7) (d : BitVec 7)
  /-- LDH (R229): Loads a halfword, zero-extended. -/
  | ldh (i : BitVec 12) (a : BitVec 7) (d : BitVec 7)
  /-- LDHS (R229): Loads a halfword, sign-extended. -/
  | ldhs (i : BitVec 12) (a : BitVec 7) (d : BitVec 7)
  /-- LDW (R229): Loads a 32-bit word. -/
  | ldw (i : BitVec 12) (a : BitVec 7) (d : BitVec 7)
  /-- LDD (R229): Loads a 64-bit doubleword. -/
  | ldd (i : BitVec 12) (a : BitVec 7) (d : BitVec 7)
  /-- LDQ (R229): Loads a 128-bit quad. -/
  | ldq (i : BitVec 12) (a : BitVec 7) (d : BitVec 7)
  /-- STB (R230): Stores a byte. -/
  | stb (i : BitVec 12) (a : BitVec 7) (d : BitVec 7)
  /-- STH (R230): Stores a halfword. -/
  | sth (i : BitVec 12) (a : BitVec 7) (d : BitVec 7)
  /-- STW (R230): Stores a word. -/
  | stw (i : BitVec 12) (a : BitVec 7) (d : BitVec 7)
  /-- STD (R230): Stores a doubleword. -/
  | std (i : BitVec 12) (a : BitVec 7) (d : BitVec 7)
  /-- STQ (R230): Stores a quad. -/
  | stq (i : BitVec 12) (a : BitVec 7) (d : BitVec 7)
  /-- LDO (R232): Single-copy atomic load with an order and a scope. -/
  | ldo (sc : BitVec 3) (ord : BitVec 2) (sz : BitVec 2) (a : BitVec 7) (d : BitVec 7)
  /-- STO (R233): Single-copy atomic store with an order and a scope. -/
  | sto (sc : BitVec 3) (ord : BitVec 2) (sz : BitVec 2) (a : BitVec 7) (d : BitVec 7)
  /-- ATOM_ADD (R234): Atomic add returning the old value. -/
  | atomAdd (w : BitVec 1) (sc : BitVec 3) (ord : BitVec 2) (a : BitVec 7) (d : BitVec 7)
  /-- ATOM_MINS (R234): Atomic signed minimum. -/
  | atomMins (w : BitVec 1) (sc : BitVec 3) (ord : BitVec 2) (a : BitVec 7) (d : BitVec 7)
  /-- ATOM_MINN (R234): Atomic unsigned minimum. -/
  | atomMinn (w : BitVec 1) (sc : BitVec 3) (ord : BitVec 2) (a : BitVec 7) (d : BitVec 7)
  /-- ATOM_MAXS (R234): Atomic signed maximum. -/
  | atomMaxs (w : BitVec 1) (sc : BitVec 3) (ord : BitVec 2) (a : BitVec 7) (d : BitVec 7)
  /-- ATOM_MAXN (R234): Atomic unsigned maximum. -/
  | atomMaxn (w : BitVec 1) (sc : BitVec 3) (ord : BitVec 2) (a : BitVec 7) (d : BitVec 7)
  /-- ATOM_AND (R234): Atomic AND. -/
  | atomAnd (w : BitVec 1) (sc : BitVec 3) (ord : BitVec 2) (a : BitVec 7) (d : BitVec 7)
  /-- ATOM_OR (R234): Atomic OR. -/
  | atomOr (w : BitVec 1) (sc : BitVec 3) (ord : BitVec 2) (a : BitVec 7) (d : BitVec 7)
  /-- ATOM_XOR (R234): Atomic XOR. -/
  | atomXor (w : BitVec 1) (sc : BitVec 3) (ord : BitVec 2) (a : BitVec 7) (d : BitVec 7)
  /-- ATOM_EXCH (R234): Atomic exchange. -/
  | atomExch (w : BitVec 1) (sc : BitVec 3) (ord : BitVec 2) (a : BitVec 7) (d : BitVec 7)
  /-- ATOM_CAS (R235): Atomic compare-and-swap. -/
  | atomCas (w : BitVec 1) (sc : BitVec 3) (ord : BitVec 2) (a : BitVec 7) (d : BitVec 7)
  /-- ATOM_FADD (R234): Atomic floating-point add with RNE. -/
  | atomFadd (w : BitVec 1) (sc : BitVec 3) (ord : BitVec 2) (a : BitVec 7) (d : BitVec 7)
  /-- ATOM_FMIN (R234): Atomic floating-point minimum. -/
  | atomFmin (w : BitVec 1) (sc : BitVec 3) (ord : BitVec 2) (a : BitVec 7) (d : BitVec 7)
  /-- ATOM_FMAX (R234): Atomic floating-point maximum. -/
  | atomFmax (w : BitVec 1) (sc : BitVec 3) (ord : BitVec 2) (a : BitVec 7) (d : BitVec 7)
  /-- RED_ADD (R236): Non-returning atomic add, which may be combined. -/
  | redAdd (w : BitVec 1) (sc : BitVec 3) (ord : BitVec 2) (a : BitVec 7) (d : BitVec 7)
  /-- RED_MINS (R236): Non-returning signed minimum. -/
  | redMins (w : BitVec 1) (sc : BitVec 3) (ord : BitVec 2) (a : BitVec 7) (d : BitVec 7)
  /-- RED_MINN (R236): Non-returning unsigned minimum. -/
  | redMinn (w : BitVec 1) (sc : BitVec 3) (ord : BitVec 2) (a : BitVec 7) (d : BitVec 7)
  /-- RED_MAXS (R236): Non-returning signed maximum. -/
  | redMaxs (w : BitVec 1) (sc : BitVec 3) (ord : BitVec 2) (a : BitVec 7) (d : BitVec 7)
  /-- RED_MAXN (R236): Non-returning unsigned maximum. -/
  | redMaxn (w : BitVec 1) (sc : BitVec 3) (ord : BitVec 2) (a : BitVec 7) (d : BitVec 7)
  /-- RED_AND (R236): Non-returning AND. -/
  | redAnd (w : BitVec 1) (sc : BitVec 3) (ord : BitVec 2) (a : BitVec 7) (d : BitVec 7)
  /-- RED_OR (R236): Non-returning OR. -/
  | redOr (w : BitVec 1) (sc : BitVec 3) (ord : BitVec 2) (a : BitVec 7) (d : BitVec 7)
  /-- RED_XOR (R236): Non-returning XOR. -/
  | redXor (w : BitVec 1) (sc : BitVec 3) (ord : BitVec 2) (a : BitVec 7) (d : BitVec 7)
  /-- RED_FADD (R236): Non-returning float add, never combined. -/
  | redFadd (w : BitVec 1) (sc : BitVec 3) (ord : BitVec 2) (a : BitVec 7) (d : BitVec 7)
  /-- RED_FMIN (R236): Non-returning float minimum. -/
  | redFmin (w : BitVec 1) (sc : BitVec 3) (ord : BitVec 2) (a : BitVec 7) (d : BitVec 7)
  /-- RED_FMAX (R236): Non-returning float maximum. -/
  | redFmax (w : BitVec 1) (sc : BitVec 3) (ord : BitVec 2) (a : BitVec 7) (d : BitVec 7)
  /-- FENCE (R237): SC, acquire, release or acquire-release fence at a scope. -/
  | fence (sc : BitVec 3) (ord : BitVec 2)
  /-- PREF (R240): Asks for a line in L1; it never faults. -/
  | pref (a : BitVec 7)
  /-- WBK (R240): Writes a line's dirty bytes back to its home. -/
  | wbk (a : BitVec 7)
  /-- INVL (R240): Writes a line back, then discards it from L1, the cluster buffer and any replica. -/
  | invl (a : BitVec 7)
  /-- SPEMPTY (R241): Sets B scratchpad lines EMPTY. -/
  | spempty (b : BitVec 7) (a : BitVec 7)
  /-- SPFULL (R241): Sets B scratchpad lines FULL. -/
  | spfull (b : BitVec 7) (a : BitVec 7)
  /-- SPQRY (R241): Reads the full/empty bits of 64 lines. -/
  | spqry (a : BitVec 7) (d : BitVec 7)
  /-- BINIT (R257): Initialises a barrier object from an init word. -/
  | binit (b : BitVec 7) (a : BitVec 7)
  /-- BARV (R252): Arrives at a barrier, possibly carried into the next phase, and may complete the phase. -/
  | barv (a : BitVec 7) (d : BitVec 7)
  /-- BEXP (R253): Adds expected bytes to PEND_BYTES. -/
  | bexp (b : BitVec 7) (a : BitVec 7)
  /-- BWAIT (R255): Blocks until the named phase is complete and writes the status word. -/
  | bwait (b : BitVec 7) (a : BitVec 7) (d : BitVec 7)
  /-- BTRY (R255): Tests a phase, suspending for up to sr.twh × 64 CCLK. -/
  | btry (b : BitVec 7) (a : BitVec 7) (d : BitVec 7)
  /-- BQRY (R257): Snapshots the 16-byte barrier object into a register pair. -/
  | bqry (a : BitVec 7) (d : BitVec 7)
  /-- BARX (R256): Arrives at a cluster exchange barrier; its completion swaps the exchange banks. -/
  | barx (a : BitVec 7) (d : BitVec 7)
  /-- BCLR (R257): Clears ERR, OVF and EPHASE. -/
  | bclr (a : BitVec 7)
  /-- XST_W (R246): Stores 4 bytes into a peer core's shadow exchange bank. -/
  | xstW (a : BitVec 7) (d : BitVec 7)
  /-- XST_D (R246): Stores 8 bytes into a peer core's shadow exchange bank. -/
  | xstD (a : BitVec 7) (d : BitVec 7)
  /-- CPYIN (R275): Copies a global box into the scratchpad. -/
  | cpyin (b : BitVec 7) (a : BitVec 7) (d : BitVec 7)
  /-- CPYOUT (R275): Copies a scratchpad box to global memory. -/
  | cpyout (b : BitVec 7) (a : BitVec 7) (d : BitVec 7)
  /-- CPYSS (R275): Copies one scratchpad box to another. -/
  | cpyss (b : BitVec 7) (a : BitVec 7) (d : BitVec 7)
  /-- PPUSH (R276): Copies a scratchpad box into the slot of a reserved pipe ticket. -/
  | ppush (b : BitVec 7) (a : BitVec 7) (d : BitVec 7)
  /-- PPULL (R276): Copies a delivered pipe slot into the scratchpad. -/
  | ppull (b : BitVec 7) (a : BitVec 7) (d : BitVec 7)
  /-- COLL (R279): Issues one ring collective step to the die's collective unit. -/
  | coll (b : BitVec 7) (a : BitVec 7) (d : BitVec 7)
  /-- CPYG (R275): Copies one global box to another. -/
  | cpyg (b : BitVec 7) (a : BitVec 7) (d : BitVec 7)
  /-- CPQRY (R277): Reads CP, the copy flags (optionally clearing them), or the last copy fault. -/
  | cpqry (a : BitVec 7) (d : BitVec 7)
  /-- GANG (R172): Writes sr.gng to join or leave a gang. -/
  | gang (a : BitVec 7)
  /-- VACQ (R159): Joint request for the baton. -/
  | vacq
  /-- VREL (R159): Joint release of the baton. -/
  | vrel
  /-- WLOAD (R175): Loads a weight tile into the shadow bank. -/
  | wload (a : BitVec 7)
  /-- WSWAP (R173): Joint exchange of the active and shadow banks. -/
  | wswap
  /-- MMA (R174): Joint matrix multiply that overwrites each member's slot. -/
  | mma (b : BitVec 7) (a : BitVec 7) (d : BitVec 7)
  /-- MMAC (R174): Joint matrix multiply that accumulates into each member's slot. -/
  | mmac (b : BitVec 7) (a : BitVec 7) (d : BitVec 7)
  /-- MZERO (R176): Zeroes an owned accumulator slot. -/
  | mzero (d : BitVec 7)
  /-- MDRAIN (R167): Drains a slot through bias, residual and dropout into the scratchpad. -/
  | mdrain (a : BitVec 7) (d : BitVec 7)
  /-- MQRY (R177): Reads baton, bank or slot state. -/
  | mqry (a : BitVec 7) (d : BitVec 7)
  /-- PRSV (R326): Reserves a pipe ticket and slot, blocking while none is free. -/
  | prsv (a : BitVec 7) (d : BitVec 7)
  /-- PCMT (R333): Commits a ticket as a release at the pipe's scope. -/
  | pcmt (b : BitVec 7) (a : BitVec 7)
  /-- CRSV (R332): Takes the next ticket in order, or returns CLOSED or YIELD. -/
  | crsv (a : BitVec 7) (d : BitVec 7)
  /-- CREL (R328): Releases a delivered ticket's slot. -/
  | crel (b : BitVec 7) (a : BitVec 7)
  /-- PSEAL (R329): Seals a pipe. -/
  | pseal (a : BitVec 7)
  /-- PQRY (R334): Reads a pipe counter or flags. -/
  | pqry (b : BitVec 7) (a : BitVec 7) (d : BitVec 7)
  /-- LSUB (R348): Subscribes a query to a sweep, opening the sweep when it is absent. -/
  | lsub (b : BitVec 7) (a : BitVec 7) (d : BitVec 7)
  /-- LSEAL (R346): Starts the main passes (mode 0) or seals the sweep (mode 1). -/
  | lseal (b : BitVec 7) (a : BitVec 7) (d : BitVec 7)
  /-- LPASS (R365): Parks until it receives a batch, END, YIELD or an error status. -/
  | lpass (b : BitVec 7) (a : BitVec 7) (d : BitVec 7)
  /-- HMRG (R359): Submits a partial record to the Hoop. -/
  | hmrg (b : BitVec 7) (a : BitVec 7)
  /-- HGET (R367): Try-waits for a slot and writes its merged record when it is COMPLETE. -/
  | hget (b : BitVec 7) (a : BitVec 7) (d : BitVec 7)
  /-- HREL (R368): Frees a query slot in any state. -/
  | hrel (b : BitVec 7) (a : BitVec 7)
  /-- LQRY (R369): Reads the sweep's state and counts. -/
  | lqry (b : BitVec 7) (a : BitVec 7) (d : BitVec 7)
  /-- RINV (R386): Creates a handle and sends an invocation record to a target device or ANY. -/
  | rinv (b : BitVec 7) (a : BitVec 7) (d : BitVec 7)
  /-- RINVH (R379): Creates a handle for an invocation addressed to an input handle. -/
  | rinvh (b : BitVec 7) (a : BitVec 7) (d : BitVec 7)
  /-- HRES (R388): Try-waits on a handle and returns its state. -/
  | hres (a : BitVec 7) (d : BitVec 7)
  /-- HDROP (R389): Marks a handle dropped. -/
  | hdrop (a : BitVec 7)
  /-- RRET (R389): Resolves the task's handle and parks until the home applies it. -/
  | rret (b : BitVec 7) (a : BitVec 7)
  /-- TSPAWN (R386): Creates a handle and enqueues a task locally. -/
  | tspawn (a : BitVec 7) (d : BitVec 7)
  /-- JCAN (R392): Sets or clears a job's cancel bit on every device of the context. -/
  | jcan (b : BitVec 7) (a : BitVec 7) (d : BitVec 7)
  /-- SIGDEC (R391): Decrements a signal and records a status under the first-error rule. -/
  | sigdec (b : BitVec 7) (a : BitVec 7)
  /-- SIGWAIT (R391): Try-waits until the signal's VALUE is at most the threshold. -/
  | sigwait (b : BitVec 7) (a : BitVec 7) (d : BitVec 7)
  /-- SIGADD (R391): Adds a signed value to a signal. -/
  | sigadd (b : BitVec 7) (a : BitVec 7)
  /-- PLNCH (R343): Submits a plan record to the launching device's controller. -/
  | plnch (b : BitVec 7) (a : BitVec 7) (d : BitVec 7)
  deriving DecidableEq, Repr

end Sys2Proof
end

