-- ==== Sys2Proof/Machine/State.lean ====
section
/-! DEFINITION. The state of the device, as plain data: every register, memory, queue and table the spec names, and
the model's own scheduling data (the agenda, the pending events, the counters of free values). Tables are sparse: an
entry that is not listed stands at its reset value. -/

namespace Sys2Proof.Machine

/-- Roles of a wave or context (R42): 0 matrix, 1 vector, 2 copy. -/
inductive Role where
  | matrix | vector | copy
  deriving DecidableEq, Repr

/-- A bound stream: descriptor fields, position and end-of-dimension flags (R242, R243). -/
structure Stream where
  base : W64
  c0 : Nat
  c1 : Nat
  c2 : Nat
  c3 : Nat
  s0 : W64
  s1 : W64
  s2 : W64
  s3 : W64
  esize : Nat
  pos : Nat
  eod : BitVec 4
  deriving DecidableEq, Repr

/-- Why a part is parked (R297). The waiting instruction is completed when the part next issues, with the operands it had,
except for `wsync` and `rdv`, which their completion resumes, and for one that has not issued at all. -/
inductive Wait where
  | wsync | rdv | baton | exit | mem
  | safept (n : Nat)
  | bar (name : W64) (phase : BitVec 16) (try_ : Bool)
  | waitc (ld st eng xc : BitVec 3)
  | lines (offs : List Nat) (word : W32)
  | fetch (page : Nat)
  | prsv (plan pipe : Nat) | crsv (plan pipe : Nat)
  | pcmt (plan pipe : Nat) (ticket : Nat)
  | lpass (sweep : W64)
  | hget (sweep : W64) (slot : Nat)
  | hres (handle : W64)
  | rret (handle : W64)
  | sig (addr threshold : W64)
  deriving DecidableEq, Repr

/-- Waits of instructions that have issued and whose result is still to be written (R297). -/
def Wait.issued : Wait → Bool
  | .bar .. | .waitc .. | .lines .. | .prsv .. | .crsv .. | .pcmt .. | .lpass .. | .hget .. | .hres .. | .sig .. => true
  | _ => false

/-- An instruction that waits after it has issued: its word, its length and its LIMM prefix, and the scalars it read (R297). -/
structure Latch where
  word : W32
  len : Nat
  pre : Option (BitVec 26)
  s : SMap 64
  deriving DecidableEq, Repr

/-- A part of a wave (R292): a split in a slot, or a deferred entry (`slot` none). A copy context has one part with
no lanes. `stamp` orders runnable entries; `expired` says the try-wait's time has run out; `op` is the operation that a
suspended HGET or SIGWAIT counts on XC, `nofetch` the page whose fetch the pager has refused it (R47), and
`latch` the instruction in whose wait the part is, or from whose wait it resumes (R297). -/
structure Part where
  slot : Option Nat := some 0
  lanes : BitVec 64 := 0
  em : BitVec 64 := 0
  pc : W64 := 0
  wait : Option Wait := none
  expired : Bool := false
  stamp : Nat := 0
  op : Option Nat := none
  nofetch : Option Nat := none
  latch : Option Latch := none
  deriving DecidableEq, Repr

/-- An operation counted on LD, ST, ENG or XC and not retired (R221, R222): `seq` is its place among the operations of
its class that the agent has issued (R223), `reqs` the memory requests it has outstanding until it is complete (R13), and
`tags` the sequence tags that its acknowledgement bears (R188). -/
structure OpRec where
  id : Nat
  seq : Nat
  done : Bool
  reqs : Nat := 0
  tags : List Nat := []
  deriving DecidableEq, Repr

/-- What a memory access does with a chunk (R229 to R236), or with a signal object (R391). -/
inductive MemKind where
  | load (signed : Bool)
  | store
  | atom (fn : Nat)
  | red (fn : Nat)
  | signal
  | stream
  deriving DecidableEq, Repr

/-- One lane's part of an access: its address, its data, and the NAK it met with the pager's answer (R435, R436). -/
structure LaneReq where
  lane : Nat
  va : W64
  data : Nat
  data2 : Nat
  code : BitVec 8 := 0
  answer : Option Bool := none
  deriving DecidableEq, Repr

/-- An access with lanes the memory side refused (R435): what its replay needs, its order included (R206). -/
structure Access where
  id : Nat
  cls : CounterClass
  kind : MemKind
  size : Nat
  ord : Nat := 0
  scope : Nat
  dst : Option (Nat × Bool)
  pc : W64
  word : W32
  reqs : List LaneReq
  deriving DecidableEq, Repr

/-- What trap entry writes (R426). -/
structure TrapInfo where
  code : BitVec 8
  einfo : W64
  eaddr : W64
  fmask : W64
  deriving DecidableEq, Repr

/-- Where a deferred trap is taken (R428): by the kind of operation it was recorded against. -/
inductive TrapPoint where
  | park (held : Option Nat) -- R438: the instruction of this part, the first that was held; where none was held, a memory
                             -- instruction, WAITC on LD or ST, EXIT
  | loads (regs : List Nat)  -- R441: a reader of these registers, WAITC on LD, EXIT
  | vat                      -- R170: WAITC on ENG, MTX, EXIT
  | copy                     -- R273: WAITC on CP, COPY, EXIT
  | hoop                     -- R366: WAITC on XC, ATTN, EXIT
  deriving DecidableEq, Repr

/-- A deferred trap, with the number of the operation it belongs to (R428) and its place in its class (R223). -/
structure Deferred where
  op : Nat
  seq : Nat := 0
  at_ : TrapPoint
  info : TrapInfo
  vatFn : Nat := 0
  deriving DecidableEq, Repr

/-- A wave (keys 0 to 127 of its core) or a copy context (keys 128 + slot): R26, R32, R221, R292. `v` holds element
(physical register × 64 + lane), `s` the scalars 0 to 23, `m` the masks 0 to 7. -/
structure Agent where
  role : Role
  index : Nat
  wg : Nat
  age : Nat
  promoted : Bool := false
  yielding : Bool := false
  vregs : Nat
  slots : Nat
  lvl : List (BitVec 32)
  v : SMap 32 := []
  s : SMap 64
  m : SMap 64 := []
  q : AList Stream := []
  parts : AList Part
  lastSlot : Nat := 0
  gng : BitVec 16 := 0
  wb : Nat := 0
  frm : BitVec 2 := 0
  fflags : BitVec 5 := 0
  tcode : BitVec 8 := 0
  epc : W64 := 0
  einfo : W64 := 0
  eaddr : W64 := 0
  fmask : W64 := 0
  ckey : W64 := 0
  slot : Nat
  twh : BitVec 16 := 16
  ld : List OpRec := []
  st : List OpRec := []
  eng : List OpRec := []
  xc : List OpRec := []
  issued : AList Nat := []
  handling : Option (Nat × BitVec 8) := none
  traps : List Deferred := []
  faults : List Access := []
  memParked : Bool := false
  held : Option Nat := none          -- the part of the first instruction held by the park (R438)
  replays : List Nat := []           -- replays that are not yet complete (R436)
  vbad : List Nat := []              -- uncorrectable pool words of its vector registers: register × 8 + lane / 8 (R440)
  regBase : Nat := 0                 -- first byte of its vector registers in the register region (R16)
  regWait : List (Nat × Nat) := []   -- scalar register, operation that will write it (LSUB, LSEAL, LQRY, JCAN, PLNCH)
  cflags : BitVec 5 := 0
  cfault : W64 := 0
  wdPending : Bool := false
  deriving DecidableEq, Repr

/-- A section of a launch record (R284). -/
structure Section where
  entry : Nat
  count : Nat
  role : Nat
  slots : Nat
  first : Nat
  deriving DecidableEq, Repr

/-- A level of a launch record (R284). -/
structure Level where
  extent : Nat
  domain : Nat
  scope : Nat
  deriving DecidableEq, Repr

/-- A launch record as the launch processor read it (R283). -/
structure LaunchRec where
  addr : W64 := 0
  magic : Nat := 0
  version : Nat := 0
  flags : Nat := 0
  code : W64 := 0
  handlerOff : Nat := 0
  copyOff : Nat := 0
  vregs : Nat := 96
  regTop : Nat := 0
  scrTop : Nat := 0
  xchTop : Nat := 0
  nsect : Nat := 0
  nwaves : Nat := 0
  slotTotal : Nat := 0
  lmtab : W64 := 0
  lmcount : Nat := 0
  nlevels : Nat := 0
  wgmax : Nat := 0
  param : W64 := 0
  wgEnergy : Nat := 0
  sects : List Section := []
  levels : List Level := []
  args : List W64 := []
  reserved : Bool := true    -- every reserved byte and bit is zero
  deriving DecidableEq, Repr

/-- A task record in a queue, with its handle and, for an RINVH, its input handle and that handle's result (R372, R379). -/
structure TaskRec where
  template : Nat
  node : Nat
  job : BitVec 32
  inst : W64
  arg0 : W64 := 0
  handle : W64
  via : W64 := 0
  input : Option (W64 × Nat) := none
  deriving DecidableEq, Repr

/-- The task a workgroup runs (R373, R389). -/
structure TaskRun where
  handle : W64
  job : BitVec 32
  returned : Bool := false
  deriving DecidableEq, Repr

/-- A resident workgroup (R10, R287, R322). -/
structure Wg where
  uid : Nat
  g : Nat
  slotBase : Nat
  copyEnded : Bool
  task : Option TaskRun := none
  energy : Nat := 0
  deriving DecidableEq, Repr

/-- What a bank of the Vat is, as left by the operations before in Vat order (R145, R146). -/
structure BankInfo where
  fmt : BitVec 4 := 0
  sc : Bool := false
  exact : Bool := false
  valid : Bool := false
  load : Option Nat := none
  deriving DecidableEq, Repr

/-- What a bank of the Vat holds: its format and scale flag, the code of (k, n) at 128k + n, the scale (b, n) at
128b + n, the codebook's 32 bytes as a number; `bad` is the trap code and the address of a WLOAD that failed (R170,
R175). -/
structure Bank where
  fmt : BitVec 4 := 0
  sc : Bool := false
  tile : SMap 16 := []
  scales : SMap 8 := []
  book : Nat := 0
  bad : Option (BitVec 8 × W64) := none
  deriving DecidableEq, Repr

/-- A member's arrival at a joint instruction (R153). -/
structure Arrival where
  agent : Nat
  part : Nat
  slot : Nat
  d : Nat
  a : Nat
  ctl : W64
  op : Nat := 0
  deriving DecidableEq, Repr

/-- An open rendezvous entry (R153). -/
structure Rdv where
  wg : Nat
  gng : BitVec 16
  fn : Nat
  arrived : List Arrival
  deriving DecidableEq, Repr

/-- The 64 bytes of a drain descriptor (R166). -/
structure DrainDesc where
  out : Nat
  bias : Nat
  res : Nat
  ostride : Nat
  rstride : Nat
  ofmt : Nat
  resfmt : Nat
  ctrl : Nat
  flags : Nat
  thresh : Nat
  dscale : Nat
  row0 : Nat
  col0 : Nat
  bar : Nat
  key : W64
  srkey : W64
  reserved : Bool
  deriving DecidableEq, Repr

/-- An operation waiting in Vat order (R146). -/
inductive VatKind where
  | wload (tile scales book stride : Nat) (fmt : BitVec 4) (sc : Bool)
  | wswap
  | mma (acc : Bool) (members : List Arrival)
  | mzero (slot : Nat)
  | mdrain (slot : Nat) (d : Nat) (desc : DrainDesc)
  deriving DecidableEq, Repr

/-- The same, with its number and the agent that issued it. -/
structure VatOp where
  id : Nat
  agent : Nat
  kind : VatKind
  deriving DecidableEq, Repr

/-- The lines of a drain with BAR that have not landed (R168). -/
structure Drain where
  id : Nat
  agent : Nat
  bar : W64
  lines : List (Nat × List Byte)
  deriving DecidableEq, Repr

/-- A box descriptor (R264). -/
structure Box where
  gaddr : W64
  key : W64
  soff : Nat
  spitch : Nat
  ndim : Nat
  esize : Nat
  pipe : Nat
  n : List Nat
  strides : List Int
  reserved : Bool
  deriving DecidableEq, Repr

/-- A collective step descriptor (R278). -/
structure CollDesc where
  src : W64
  dst : W64
  count : Nat
  kind : Nat
  dtype : Nat
  redop : Nat
  step : Nat
  group : Nat
  reserved : Bool
  deriving DecidableEq, Repr

/-- Where a pipe slot lies: a vault slot or a Whey slot (R313). -/
inductive SlotAt where
  | vault (k : Nat)
  | whey (k : Nat)
  deriving DecidableEq, Repr

/-- A started copy, collective step or landing (R260 to R274, R280, R356). `row` and `col` are the next element to
move, or of a collective step the bytes read of the chunk it sends and the bytes written of the one it receives; `due` the
counted bytes not yet landed or read; `land` the units of a landing, or the chunk that has arrived. -/
structure CopyOp where
  id : Nat
  agent : Nat
  fn : Nat
  cmd : W64
  box : Box
  box2 : Option Box := none
  coll : Option CollDesc := none
  land : List (Nat × List Byte) := []
  sent : List Byte := []         -- what a collective step has read of its local chunk (R279)
  slots : List Nat := []         -- query slots of a landing (R356)
  bar : Option W64
  sig : Option W64
  due : Nat
  row : Nat := 0
  col : Nat := 0
  moved : Bool := false
  started : Bool := false
  suspended : Option (W64 × BitVec 8) := none
  plan : Nat := 0
  ticket : Nat := 0
  slotAt : Option SlotAt := none
  word : W32
  pc : W64
  deriving DecidableEq, Repr

/-- An exchange store in flight to a peer (R183, R221). -/
structure XstOp where
  id : Nat
  from_ : Nat
  agent : Nat
  writes : List (Nat × Nat × Nat)   -- offset in the peer's shadow bank, bytes, value
  peers : List Nat                   -- the peer of each write
  deriving DecidableEq, Repr

/-- What a core runs (R12): nothing, a stage of a resident plan, or tasks of a context. -/
inductive RunFor where
  | idle
  | stage (plan stage : Nat)
  | tasks
  deriving DecidableEq, Repr

/-- A line of L1, of a cluster's buffer or of its atomic unit, or a replica: owner context, bytes and dirty mask (R184, R186);
`bad` marks the bytes that came from ECC words that decode as uncorrectable (R440, R442), `valid` the bytes it holds: a line
that a write-back from L1 has made holds the written bytes alone (R184). -/
structure CLine where
  own : Nat
  data : SMap 8
  dirty : BitVec 128
  bad : BitVec 128 := 0
  valid : BitVec 128 := BitVec.allOnes 128
  deriving DecidableEq, Repr

/-- A line held in the cache ways of its home slice (R186, R189): its owner context, the bytes that the base die does not have
yet, and its frame among the slice's 49 152 (R22). Its bytes are those of State.mem. -/
structure WLine where
  own : Nat
  dirty : BitVec 128
  frame : Nat
  deriving DecidableEq, Repr

/-- A write-back that waits in its slice for the pager (R434): its owner context, the home address of its line, its bytes by
home address, and its ECC words that carry the check pattern (R442). -/
structure HeldWb where
  own : Nat
  line : Nat
  bytes : List (Nat × Byte)
  marks : List Nat
  deriving DecidableEq, Repr

/-- Writes of a controller that wait for the pager (R315, R391, R436): parts of a status block, each within a page, and
signals to be decremented once they are written, each with the status it is given. -/
structure HeldSys where
  ctx : Nat
  pieces : List (W64 × List Byte)
  sigs : List (W64 × Nat)
  deriving DecidableEq, Repr

/-- The saved state of a core (R307). -/
structure CoreImage where
  agents : AList Agent
  wgs : AList Wg
  pool : SMap 8
  liveHigh : Bool
  emptyLines : List Nat
  emptier : AList Nat
  badPool : List Nat
  acc : SMap 32
  nomActive : BankInfo
  nomShadow : BankInfo
  active : Bank
  shadow : Bank
  heldBaton : Option (Nat × BitVec 16)
  run : RunFor
  ctx : Option Nat
  lr : LaunchRec
  forced : List Nat
  deriving DecidableEq, Repr

/-- Progress of a pre-emption (R307, R308). -/
inductive Pre where
  | none | requested | forced | saved
  deriving DecidableEq, Repr

/-- A core (R9 to R20, R145, R153, R158, R161, R178). `pool` holds bytes by physical offset; `emptyLines` the EMPTY
lines by offset / 128; `emptier` the operation that marked each. `acc` holds element (slot × 8192 + i × 128 + j). -/
structure Core where
  regTop : Nat := 24
  scrTop : Nat := 64
  xchTop : Nat := 64
  pool : SMap 8 := []
  liveHigh : Bool := false
  emptyLines : List Nat := []
  emptier : AList Nat := []
  badPool : List Nat := []
  agents : AList Agent := []
  wgs : AList Wg := []
  run : RunFor := .idle
  ctx : Option Nat := none
  lr : LaunchRec := {}
  nomActive : BankInfo := {}
  nomShadow : BankInfo := {}
  active : Bank := {}
  shadow : Bank := {}
  swaps : Nat := 0
  vatQ : List VatOp := []
  drains : List Drain := []
  acc : SMap 32 := []
  baton : Option (Nat × BitVec 16) := none
  batonQ : List (Nat × BitVec 16) := []
  rdv : List Rdv := []
  copies : List CopyOp := []
  xsts : List XstOp := []
  l1 : AList CLine := []
  lastUnit : Nat := 0
  engLast : Nat := 7               -- the context that the copy engine served last, and the copy of each context (R260)
  engTurn : AList Nat := []
  lastRun : RunFor := .idle        -- what it loaded its launch record for last (R183)
  energy : Nat := 0
  pre : Pre := .none
  image : Option CoreImage := none
  moving : Bool := false
  noNew : Bool := false
  deriving DecidableEq, Repr

/-- A cluster unit (R21, R249): the bytes of the 64 barriers, their owners, the cores whose arrivals belong to the
current and to the next phase of each, the buffer, and the lines of the atomic unit (R218). -/
structure Cluster where
  bars : SMap 8 := []
  own : AList Nat := []
  arrived : AList (List Nat) := []
  carried : AList (List Nat) := []
  buf : AList CLine := []
  au : AList CLine := []
  deriving DecidableEq, Repr

/-- A request of a home slice's port to a base die (R196, R197): waiting, outstanding, or served. `marks` are the ECC words
of a write that carry the check pattern (R442), and `op` the access that waits for its reply (R473). -/
structure Req where
  slice : Nat
  stack : Nat
  pch : Nat
  tag : Option Nat := none
  write : Bool
  ctx : Nat
  ia : Nat
  data : List Byte := []
  mask : List Bool := []
  marks : List Nat := []
  served : Bool := false
  err : Bool := false
  nak : Option (BitVec 8) := none
  op : Option Nat := none
  deriving DecidableEq, Repr

/-- A trace record (R458). -/
structure TraceRec where
  time : Nat
  type : Nat
  flags : Nat
  core : Nat
  ctx : Nat
  payload : BitVec 128
  device : Nat := 0
  deriving DecidableEq, Repr

/-- An error-log entry (R446). -/
structure LogEntry where
  event : Nat
  time : Nat
  channel : Nat
  kind : Nat
  ctx : Nat
  detail : Nat
  where_ : Nat
  deriving DecidableEq, Repr

/-- Counters of a channel (R445). -/
structure Chan where
  corrected : Nat := 0
  uncorrectable : Nat := 0
  alerts : Nat := 0
  deriving DecidableEq, Repr

/-- Events counted on a unit of a resource class, and whether it was retired (R443). -/
structure UnitRec where
  cls : Nat
  unit : Nat
  times : List Nat
  retired : Bool := false
  deriving DecidableEq, Repr

/-- A collective group of a die (R278). -/
structure Group where
  members : List (Nat × Nat) := []
  rank : Nat := 0
  last : Option Nat := none    -- the step that reached its visible point last (R280)
  inbox : AList (List Byte) := []   -- chunks that a die of this device has sent, by step, in the device's window (R280)
  deriving DecidableEq, Repr

/-- A die (R23, R188, R191, R401, R443 to R449, R459). -/
structure Die where
  vaultSteps : Nat := 0
  reps : AList CLine := []
  ways : AList WLine := []
  seq : AList Nat := []
  reqs : List Req := []
  vaultOwn : AList Nat := []
  vaultBad : List Nat := []
  trBase : Nat := 0
  trLog2 : Nat := 20
  trMask : BitVec 7 := 0x7F
  trEn : Bool := false
  trWr : Nat := 0
  trRd : Nat := 0
  trDropped : Nat := 0
  trace : AList TraceRec := []
  log : AList LogEntry := []
  elWr : Nat := 0
  elRd : Nat := 0
  lost : Nat := 0
  chan : AList Chan := []
  units : List UnitRec := []
  spares : AList Nat := []
  postponed : AList Nat := []
  groups : AList Group := []
  d2dHalf : List Nat := []
  deriving DecidableEq, Repr

/-- A map window (R396): base and IA base in units of 2 MiB. -/
structure Window where
  vbase : Nat := 0
  ibase : Nat := 0
  log2 : Nat := 21
  valid : Bool := false
  x : Bool := false
  w : Bool := false
  r : Bool := false
  deriving DecidableEq, Repr

/-- A launch-window request (R413); `found` is the place among the requests of the device in the order in which their waits were
found satisfied (R414). -/
structure LwReq where
  plan : W64
  waits : List W64
  prio : Nat
  errStop : Bool
  found : Option Nat := none
  gone : List Nat := []          -- pages it waited for that the pager has refused (R436)
  deriving DecidableEq, Repr

/-- A signal watch (R415). -/
structure Watch where
  addr : W64
  threshold : W64
  vector : Nat
  armed : Bool
  deriving DecidableEq, Repr

/-- States of a context (R393). -/
inductive CtxSt where
  | free | active | teardown
  deriving DecidableEq, Repr

/-- A context of the device (R323, R370, R374, R383, R393, R396, R412 to R415). -/
structure Ctx where
  st : CtxSt := .free
  part : Nat := 0
  hostMap : Bool := false
  mw : AList Window := []
  hostRanges : AList (Nat × Nat) := []
  cbCores : Nat := 0
  cbEnergy : Nat := 0
  cbBw : AList Nat := []
  winEnergy : Nat := 0
  ttBase : W64 := 0
  ttCount : Nat := 0
  cancel : List (BitVec 32) := []
  reserved : List (BitVec 32) := []
  taskQ : List TaskRec := []
  taskGone : List Nat := []       -- pages the head of the queue waited for that the pager has refused (R436)
  lwQ : List LwReq := []
  lwDropped : Nat := 0
  watches : AList Watch := []
  deriving DecidableEq, Repr

/-- A page of classes 0 to 4 (R399), keyed by IA / 64 KiB: its physical frame as the pager numbers frames, its owner, its
policy, and whether the frame is retired (R443). An entry of 2 MiB is 32 of these (log 65). -/
structure Page where
  owner : Nat
  policy : Nat := 0
  retired : Bool := false
  frame : Nat := 0
  deriving DecidableEq, Repr

/-- A ticket taken and not settled (R326, R330). -/
inductive TicketSt where
  | reserved | committed | void | delivered
  deriving DecidableEq, Repr

structure Ticket where
  t : Nat
  at_ : SlotAt
  wg : Nat          -- unique number of the workgroup that reserved it, or that it was delivered to
  st : TicketSt
  atHome : Bool := false
  deriving DecidableEq, Repr

/-- A FIFO of free slots: those never used, from `fresh` on, then those returned (R325). -/
structure FreeQ where
  fresh : Nat := 0
  limit : Nat := 0
  back : List Nat := []
  deriving DecidableEq, Repr

/-- A part waiting at a pipe end or for a batch (R326, R327, R352), with the field D of its instruction. -/
structure PipeWait where
  core : Nat
  agent : Nat
  part : Nat
  d : Nat := 125
  deriving DecidableEq, Repr

/-- A pipe entry and its state (R313, R325, R337). -/
structure PipeSt where
  producer : Nat
  consumer : Nat
  efmt : Nat
  flags : Nat
  rows : Nat
  cols : Nat
  slotSize : Nat
  depth : Nat
  scope : Nat
  homeDie : Nat
  vaultOff : Nat
  spill : Nat
  wheyBase : W64
  reserved : Bool
  tNext : Nat := 0
  vfree : FreeQ := {}
  wfree : FreeQ := {}
  spillOpen : Bool := false
  tickets : List Ticket := []
  h : Nat := 0
  sealedP : Bool := false
  sealedH : Bool := false
  waitP : List PipeWait := []
  waitC : List PipeWait := []
  flying : List (Nat × Nat) := []   -- releases in flight to the producer end: ticket, workgroup
  spills : Nat := 0
  voided : Nat := 0
  occSum : Nat := 0
  occN : Nat := 0
  occMean : Nat := 0
  deriving DecidableEq, Repr

/-- A stage entry and its state (R312, R317 to R320, R324). `nodes` are the ranges held by the distributor nodes:
0 the chip, 1 + die, 5 + cluster; each a list of [lo, hi) blocks. -/
structure StageSt where
  lrAddr : W64
  kind : Nat
  dieMask : Nat
  device : Nat
  coreMin : Nat
  coreMax : Nat
  coreInit : Nat
  npersist : Nat
  rangeBegin : Nat
  rangeEnd : Nat
  chunk : Nat
  reserved : Bool
  lr : LaunchRec := {}
  cores : List Nat := []
  nodes : AList (List (Nat × Nat)) := []
  nextG : Nat := 0
  started : Nat := 0
  admittedOn : List Nat := []
  proj : Nat := 0
  running : Bool := false
  ended : Bool := false
  deriving DecidableEq, Repr

/-- A core move in progress (R339). -/
structure Move where
  core : Nat
  donor : Nat
  receiver : Nat
  inB : Nat := 0           -- in of the receiver and of the donor when the move was chosen (R338)
  inD : Nat := 0
  loaded : Bool := false
  deriving DecidableEq, Repr

/-- A snapshot of the deadlock judgement (R341): the quiet flags of all devices, the counts, and the parts that were
parked, each with core, agent, part and stamp. -/
structure DlSnap where
  quiet : Bool
  count : Nat
  parked : List (Nat × Nat × Nat × Nat)
  commits : Nat
  deriving DecidableEq, Repr

/-- A resident plan (R311, R316, R341). -/
structure PlanSt where
  ctx : Nat
  addr : W64
  prio : Nat
  order : Nat
  balUs : Nat
  hyst : Nat
  highWater : Nat
  noBal : Bool
  dlUs : Nat
  statusAddr : W64
  doneSig : W64
  faultSig : W64
  stages : List StageSt
  pipes : List PipeSt
  digest : BitVec 512
  slot : Nat := 0              -- plan slot, 0 to 31 (R458)
  running : Bool := false
  ending : Option (Nat × Nat × Nat × Nat) := none   -- a drain has begun: state, reason, stage, pipe (R342)
  commits : Nat := 0
  lead : Bool := true          -- this device's controller accepted it (R341)
  snap : Option DlSnap := none
  move : Option Move := none
  deriving DecidableEq, Repr

/-- A partial of a query row (R357). -/
structure Partial where
  ord : Nat
  m : W32
  l : W32
  o : SMap 32
  deriving DecidableEq, Repr

/-- Where the Hoop holds a partial (R359). -/
structure Held where
  p : Partial
  whey : Option Nat
  bad : Bool := false
  deriving DecidableEq, Repr

/-- State of a query slot (R346, R367). -/
inductive SlotSt where
  | active | complete
  | broken (reason : Nat)
  deriving DecidableEq, Repr

/-- A subscribed query slot (R347, R348, R358). -/
structure QSlot where
  st : SlotSt
  qfmt : Nat
  last : Nat
  pages : List Nat
  tag : W64
  row : List Byte
  next : Nat := 0
  acc : Partial
  held : List Held := []
  deriving DecidableEq, Repr

/-- A row of a query as a pass delivers it: slot, ordinal, valid tokens, tag and query row (R347, R351, R355). -/
structure PRow where
  slot : Nat
  ord : Nat
  valid : Nat
  tag : W64
  qfmt : Nat
  row : List Byte
  deriving DecidableEq, Repr

/-- A pass of the Ladle (R349 to R353). -/
structure Pass where
  page : Nat
  die : Nat
  catchup : Bool
  rows : List PRow             -- rows not yet delivered, in slot order
  batch : Nat := 0
  holder : Option Nat := none  -- unique number of the holding workgroup
  fetched : Bool := true       -- its page has been fetched; a pass offered again waits for that (R353)
  deriving DecidableEq, Repr

/-- A landing descriptor (R355). -/
structure LandDesc where
  koff : Nat
  voff : Nat
  qoff : Nat
  ioff : Nat
  bar : Option W64
  mark : Bool
  deriving DecidableEq, Repr

/-- An LPASS that waits (R352). -/
structure LpassWait where
  at_ : PipeWait
  desc : LandDesc
  deriving DecidableEq, Repr

/-- States of a sweep (R346). -/
inductive SweepSt where
  | open_ | running | sealed | done
  deriving DecidableEq, Repr

/-- A sweep that is not FREE (R344 to R369). -/
structure Sweep where
  ctx : Nat
  addr : W64
  plan : Nat
  kbase : W64
  vbase : W64
  pstride : Nat
  npages : Nat
  kvfmt : Nat
  hdim : Nat
  stage : Nat
  leadDie : Nat
  nslots : Nat
  base : Nat := 0                      -- first merge state in the Hoop of LEAD_DIE (R345)
  wheyBase : W64
  wheySlots : Nat
  doneSig : W64
  st : SweepSt := .open_
  slots : AList QSlot := []
  begun : List Nat := []        -- pages whose main pass has begun
  walk : AList Nat := []        -- per die: the next page of the main walk
  catchups : List (Nat × PRow) := []   -- page and row queued for a catch-up pass
  passes : List Pass := []
  waiting : List LpassWait := []
  late : Nat := 0
  mainFetch : Nat := 0
  secondFetch : Nat := 0
  batches : Nat := 0
  spills : Nat := 0
  merged : Nat := 0
  discarded : Nat := 0
  deriving DecidableEq, Repr

/-- States of a handle (R377). -/
inductive HandleSt where
  | free | pending | resolved | broken
  deriving DecidableEq, Repr

/-- An entry of the handle resolution table (R376, R377). `via` is the home device of the input handle of an RINVH, whose LOC
its own is (R379). -/
structure HEntry where
  st : HandleSt := .free
  owner : Nat := 0
  gen : Nat := 1
  loc : Option Nat := none
  via : Option Nat := none
  addr : W64 := 0
  size : Nat := 0
  reason : BitVec 8 := 0
  detail : BitVec 8 := 0
  cause : W64 := 0
  sig : W64 := 0
  dropped : Bool := false
  waiting : List TaskRec := []
  deriving DecidableEq, Repr

/-- A message in flight inside the device (R343, R359, R374, R378, R379, R392). A partial names the Whey slot that it is to
hold, once one has been chosen. -/
inductive MsgKind where
  | task (t : TaskRec) (dev : Nat)
  | invoke (t : TaskRec) (input : W64)
  | drop (h : W64)
  | partial_ (sweep : W64) (slot : Nat) (p : Partial) (whey : Option Nat)
  | jcan (job : BitVec 32) (mode : Nat) (d : Nat) (devs : List Nat) (acks : List (Nat × Bool)) (second : Bool)
  | plan (a : W64) (prio : Nat)
  deriving DecidableEq, Repr

/-- A message with its issuer; `task` is the handle of the task that issued it, `gone` the pages it waited for that the pager
has refused (R436). -/
structure Msg where
  id : Nat
  core : Nat
  agent : Nat
  ctx : Nat
  kind : MsgKind
  task : Option W64 := none
  gone : List Nat := []
  deriving DecidableEq, Repr

/-- States of the time base (R453). -/
inductive PtpSt where
  | unsync | holdover | locked
  deriving DecidableEq, Repr

/-- The discipline of the time base (R452, R453, R455). -/
structure Ptp where
  st : PtpSt := .unsync
  offsets : List Int := []
  good : Nat := 0
  bound : Nat := 0
  lastGood : Nat := 0
  last : Nat := 0
  rate : Int := 0
  t1 : Option Nat := none
  deriving DecidableEq, Repr

/-- Ownership of the device by a management master (R420 to R422). -/
structure Ownership where
  owner : Option Nat := none
  heartbeat : Nat := 0
  handover : Option (Nat × Nat × Nat) := none  -- priority, nonce, when
  claims : List (Nat × Nat × Nat) := []        -- master, priority, nonce
  opened : Nat := 0
  nonOwnerWrites : Nat := 0
  deriving DecidableEq, Repr

/-- Firmware and identity (R423, R424). -/
structure Firmware where
  recovery : Bool := false
  svn : Nat := 0
  minSvn : Nat := 0
  body : Nat := 0
  flash : Option Image := none
  deriving DecidableEq, Repr

/-- The Miodeper link and the pod ports (R411, R416). -/
structure Link where
  lanes : Nat := 16
  failed : Nat := 0
  retraining : Bool := false
  down : Bool := false
  ua : AList Nat := []
  deriving DecidableEq, Repr

/-- The latched snapshot of SNAP_REQ (R448). -/
structure Snapshot where
  chans : List (AList Chan)
  lost : List Nat
  elWr : List Nat
  elRd : List Nat
  logs : List (AList LogEntry)
  nextEvent : Nat
  deriving DecidableEq, Repr

/-- An event found and not yet numbered (R447): die, its log entry, and the channel counter it moves (0 none,
1 corrected, 2 uncorrectable, 3 alert), whether it is logged, the FAULT trace record that carries its number, and whether it is
found in the next NCLK only (R448's example). -/
structure Found where
  die : Nat
  entry : LogEntry
  counter : Nat
  logged : Bool
  trace : Option TraceRec := none
  later : Bool := false
  deriving DecidableEq, Repr

/-- One turn of the schedule: an event, or one issue of a unit of a core (units 0 to 3 the quarters, 4 the copy
sequencer). The model's own; the order of turns is what the spec leaves to timing (log 3). -/
inductive Turn where
  | event (e : Instr)
  | issue (core unit : Nat)
  deriving DecidableEq, Repr

/-- Which agent is issuing, and the instruction register: the word in force, its length, and a LIMM prefix (R52).
The model's own (log 3). -/
structure Cur where
  core : Nat := 0
  agent : Nat := 0
  part : Nat := 0
  word : W32 := 0
  len : Nat := 4
  pre : Option (BitVec 26) := none
  deriving DecidableEq, Repr

/-- The whole device. -/
structure State where
  agenda : List Turn := []
  pending : List Instr := []
  turnEv : Bool := false
  cur : Cur := {}
  nextId : Nat := 0
  tick : Nat := 0
  now : Nat := 0
  cycle : Nat := 0
  cores : AList Core := []
  clusters : AList Cluster := []
  dies : AList Die := []
  ctxs : AList Ctx := []
  mem : SMap 8 := []
  dram : SMap 8 := []
  repMem : SMap 8 := []          -- replicas of other devices' pages, by class 5 address (R403)
  bad : List Nat := []           -- ECC words that decode as uncorrectable, as the home slices hold them (R442)
  dramBad : List Nat := []       -- the same, as the base dies hold them (R199)
  heldWb : List HeldWb := []     -- write-backs waiting for the pager (R434)
  heldSys : List HeldSys := []   -- status blocks and signals waiting for the pager (R315, R436)
  pages : AList Page := []
  nextFrame : Nat := 0           -- the frame that the pager takes next (log 65)
  freed : AList Nat := []        -- pages that passed back to free, with the context that owned them last (R402)
  collapse : AList (List Nat) := []
  replicas : AList (List Nat) := []
  migrating : List Nat := []
  plans : AList PlanSt := []
  planNo : Nat := 0
  sweeps : List Sweep := []
  hrt : AList HEntry := []
  msgs : List Msg := []
  hoopWait : List Nat := []
  lostDevs : List Nat := []      -- devices that a port has reported unreachable (R280, R388, R417)
  podCtx : AList (List Nat) := []
  podQ : AList (AList Nat) := []
  forwards : AList Nat := []
  devNum : Nat := 0
  numSet : Bool := false
  powerLimit : Nat := 3000
  mwErr : Bool := false
  regs : AList Nat := []
  mgmt : Ownership := {}
  swaps : List Nat := []         -- partitions whose tables are being swapped, oldest first (R408)
  swapDone : Bool := false
  routes : AList Nat := []
  shadowRoutes : AList Nat := []
  fw : Firmware := {}
  report : Option (List Byte) := none
  link : Link := {}
  msix : List Nat := []
  stretch : Option Nat := none
  ptp : Ptp := {}
  devEnergy : Nat := 0
  winEnergy : Nat := 0
  nextEvent : Nat := 0
  found : List Found := []
  snap : Option Snapshot := none
  deriving DecidableEq, Repr

/-- Why the machine stops. No meaning of this model stops the machine: the type is empty of causes the spec names. -/
inductive Fault where
  /-- Raised by nothing: kept so that a stop would have a name. Safe. -/
  | none_
  deriving DecidableEq, Repr

/-- Why an instruction has no meaning. -/
inductive Refusal where
  /-- Raised only by an arm of `exec` whose instruction is not modelled yet. Safe. -/
  | notModelled (mnemonic : String)
  deriving DecidableEq, Repr

/-- The device right after reset: the values the spec gives (R14, R23, R249, R396, R453, R459 and the defaults
above), and the values of log 15 where it gives none. No workgroup is resident and no memory is listed. -/
def State.reset : State := {}

end Sys2Proof.Machine
end

