-- ==== Sys2Proof/Machine/Ops.lean ====
section
/-! DEFINITION. The named operations over cores, agents, parts and registers; the trace buffer and the error log;
taking a trap, the end of a kernel without a handler, and the return from a handler. -/

namespace Sys2Proof.Machine

-- Tables -----------------------------------------------------------------------------------------------------

def State.core (s : State) (c : Nat) : Core := s.cores.getD c {}
def State.setCore (s : State) (c : Nat) (x : Core) : State := { s with cores := s.cores.put c x }
def State.modCore (s : State) (c : Nat) (f : Core → Core) : State := s.setCore c (f (s.core c))
def State.cluster (s : State) (u : Nat) : Cluster := s.clusters.getD u {}
def State.setCluster (s : State) (u : Nat) (x : Cluster) : State := { s with clusters := s.clusters.put u x }
def State.die (s : State) (d : Nat) : Die := s.dies.getD d {}
def State.setDie (s : State) (d : Nat) (x : Die) : State := { s with dies := s.dies.put d x }
def State.ctx (s : State) (x : Nat) : Ctx := s.ctxs.getD x {}
def State.setCtx (s : State) (x : Nat) (y : Ctx) : State := { s with ctxs := s.ctxs.put x y }

/-- The agent under a key of a core: waves 0 to 127, copy contexts 128 to 135. -/
def State.agent? (s : State) (c k : Nat) : Option Agent := (s.core c).agents.find? k

/-- What reads as an agent where none is resident. -/
def Agent.blank : Agent :=
  { role := .vector, index := 0, wg := 0, age := 0, vregs := 96, slots := 0, lvl := [], s := [], parts := [], slot := 0 }

def State.agentD (s : State) (c k : Nat) : Agent := (s.agent? c k).getD Agent.blank
def State.setAgent (s : State) (c k : Nat) (a : Agent) : State :=
  s.modCore c fun x => { x with agents := x.agents.put k a }

/-- Changes an agent, if it is resident. -/
def State.modAgent (s : State) (c k : Nat) (f : Agent → Agent) : State :=
  match s.agent? c k with
  | some a => s.setAgent c k (f a)
  | none => s

/-- The agent that issues. -/
def State.me (s : State) : Agent := s.agentD s.cur.core s.cur.agent
def State.setMe (s : State) (a : Agent) : State := s.setAgent s.cur.core s.cur.agent a
def State.modMe (s : State) (f : Agent → Agent) : State := s.setMe (f s.me)
def State.myCore (s : State) : Core := s.core s.cur.core
def State.modMyCore (s : State) (f : Core → Core) : State := s.modCore s.cur.core f

/-- The part that issues. -/
def State.myPart (s : State) : Part := (s.me.parts.find? s.cur.part).getD {}
def State.setPart (s : State) (p : Part) : State := s.modMe fun a => { a with parts := a.parts.put s.cur.part p }
def State.modPart (s : State) (f : Part → Part) : State := s.setPart (f s.myPart)

/-- The execution mask of the issuing part (R30). -/
def State.em (s : State) : BitVec 64 := s.myPart.em
def State.pc (s : State) : W64 := s.myPart.pc

/-- Continues after the instruction, or after a LIMM and its follower (R52). -/
def State.advance (s : State) : State :=
  s.modPart fun p => { p with pc := p.pc + BitVec.ofNat 64 s.cur.len, wait := none, expired := false, op := none, nofetch := none, latch := none }

/-- Continues at an address (R298, R299). -/
def State.jump (s : State) (target : W64) : State :=
  s.modPart fun p => { p with pc := target, wait := none, expired := false, op := none, nofetch := none, latch := none }

/-- Parks the issuing part in a wait; its pc stays at the waiting instruction, which keeps its operands if it has issued
(R297). -/
def State.park (s : State) (w : Wait) : State :=
  let l : Latch := { word := s.cur.word, len := s.cur.len, pre := s.cur.pre, s := s.me.s }
  s.modPart fun p => { p with wait := some w, latch := if w.issued then p.latch.or (some l) else p.latch }

/-- Numbers of the place: cluster and die of a core (R7). -/
def clusterOf (c : Nat) : Nat := c / 4
def dieOf (c : Nat) : Nat := c / 32

/-- The context the core runs (R12); 0 when it runs none. -/
def State.ctxOf (s : State) (c : Nat) : Nat := ((s.core c).ctx).getD 0
def State.myCtx (s : State) : Nat := s.ctxOf s.cur.core

/-- The slots an operation of an agent acts on. -/
def VatOp.slotsOf (o : VatOp) : List (Nat × Nat) :=
  match o.kind with
  | .mma _ ms => ms.map fun a => (a.agent, a.slot)
  | .mzero n => [(o.agent, n)]
  | .mdrain n _ _ => [(o.agent, n)]
  | _ => []

/-- The section of a wave and its place in it (R284). -/
def LaunchRec.sectionOf (lr : LaunchRec) (i : Nat) : Option (Section × Nat) :=
  (lr.sects.foldl (fun (acc : Nat × Option (Section × Nat)) x =>
    (acc.1 + x.count, if acc.1 ≤ i ∧ i < acc.1 + x.count then some (x, i - acc.1) else acc.2)) (0, none)).2

/-- The next operation number. -/
def State.fresh (s : State) : Nat × State := (s.nextId, { s with nextId := s.nextId + 1 })

/-- Makes an event due. -/
def State.due (s : State) (e : Instr) : State := { s with pending := s.pending ++ [e] }

/-- A parked part resumes after its instruction, behind the runnable parts. -/
def State.resumePart (s : State) (c k p : Nat) : State :=
  let (stamp, s) := s.fresh
  s.modAgent c k fun a =>
    match a.parts.find? p with
    | some x =>
      { a with parts := a.parts.put p { x with pc := x.pc + BitVec.ofNat 64 (x.latch.elim 4 Latch.len), wait := none, expired := false,
                                               stamp := stamp, op := none, latch := none } }
    | none => a

/-- An event that comes before all that is due. -/
def State.dueNow (s : State) (e : Instr) : State := { s with pending := e :: s.pending }

/-- The lanes of a mask, in ascending order (R4). -/
def lanesOf (em : BitVec 64) : List Nat := (List.range 64).filter fun l => em.getLsbD l

/-- The mask of a list of lanes. -/
def maskOf (ls : List Nat) : BitVec 64 := ls.foldl (fun m l => m ||| (1#64 <<< l)) 0

/-- Number of 1 bits. -/
def popCount {w : Nat} (x : BitVec w) : Nat := ((List.range w).filter fun i => x.getLsbD i).length

-- Registers --------------------------------------------------------------------------------------------------

def Agent.sget (a : Agent) (n : Nat) : W64 := a.s.get n
def Agent.sset (a : Agent) (n : Nat) (x : W64) : Agent := { a with s := a.s.set n x }
def Agent.mget (a : Agent) (n : Nat) : W64 := a.m.get n
def Agent.mset (a : Agent) (n : Nat) (x : W64) : Agent := { a with m := a.m.set n x }

/-- Element of vector register `n` of the window, lane `l` (R27). -/
def Agent.vget (a : Agent) (n l : Nat) : W32 := a.v.get ((a.wb + n) * 64 + l)
def Agent.vset (a : Agent) (n l : Nat) (x : W32) : Agent := { a with v := a.v.set ((a.wb + n) * 64 + l) x }

/-- Register fields of R53. -/
def isVec (r : Reg) : Bool := decide (r.toNat < 96)
def isScalar (r : Reg) : Bool := decide (96 ≤ r.toNat ∧ r.toNat < 120)
def isStream (r : Reg) : Bool := decide (120 ≤ r.toNat ∧ r.toNat < 124)
def isLid (r : Reg) : Bool := decide (r.toNat = 124)
def isZero (r : Reg) : Bool := decide (r.toNat = 125)

/-- A scalar register or zero (R239, R258, R275). -/
def isSz (r : Reg) : Bool := isScalar r || isZero r

/-- Scalar register `n` as the issuing instruction reads it: one that resumes from its wait has the operands with which it
issued (R297). -/
def State.sreg (s : State) (n : Nat) : W64 :=
  match s.myPart.latch with
  | some l => l.s.get n
  | none => s.me.sget n

/-- The value of a scalar field: s0 to s23, or 0 for zero (R53). -/
def State.sval (s : State) (r : Reg) : W64 := if isScalar r then s.sreg (r.toNat - 96) else 0

/-- Writes a scalar destination; a write to zero is discarded (R28, R53). -/
def State.setS (s : State) (r : Reg) (x : W64) : State :=
  if isScalar r then s.modMe fun a => a.sset (r.toNat - 96) x else s

/-- Writes the pair sN, sN+1 (R54). -/
def State.setPair (s : State) (r : Reg) (lo hi : W64) : State :=
  if isScalar r then s.modMe fun a => (a.sset (r.toNat - 96) lo).sset (r.toNat - 95) hi else s

/-- Adds exception flags to sr.fflags (R98 to R100). -/
def State.raise (s : State) (f : BitVec 5) : State := s.modMe fun a => { a with fflags := a.fflags ||| f }

/-- The immediate of an I-format word, joined with a LIMM prefix where one is in force (R48, R50). -/
def State.imm (s : State) (i : BitVec 12) : W64 :=
  match s.cur.pre with
  | none => i.signExtend 64
  | some p => (p ++ i).signExtend 64

-- Counters ---------------------------------------------------------------------------------------------------

/-- Completed operations at the head retire (R222). -/
def retire : List OpRec → List OpRec
  | [] => []
  | o :: os => if o.done then retire os else o :: os

/-- An operation completes; it retires when every older one of its class has (R222). -/
def completeOp (id : Nat) (l : List OpRec) : List OpRec :=
  retire (l.map fun o => if o.id = id then { o with done := true } else o)

def Agent.counter (a : Agent) : CounterClass → List OpRec
  | .ld => a.ld | .st => a.st | .eng => a.eng | .xc => a.xc

def Agent.setCounter (a : Agent) (c : CounterClass) (l : List OpRec) : Agent :=
  match c with
  | .ld => { a with ld := l } | .st => { a with st := l } | .eng => { a with eng := l } | .xc => { a with xc := l }

/-- The counter has room for one more operation (R221: at most 63). -/
def Agent.room (a : Agent) (c : CounterClass) : Bool := decide ((a.counter c).length < 63)

/-- Number of a class in the count of issued operations. -/
def classNo : CounterClass → Nat | .ld => 0 | .st => 1 | .eng => 2 | .xc => 3

/-- Operations of a class the agent has issued. -/
def Agent.issuedOf (a : Agent) (c : CounterClass) : Nat := a.issued.getD (classNo c) 0

/-- An operation of an agent is counted (R221). -/
def Agent.countOp (a : Agent) (c : CounterClass) (id : Nat) : Agent :=
  let n := a.issuedOf c
  { a.setCounter c (a.counter c ++ [{ id := id, seq := n, done := false }]) with issued := a.issued.put (classNo c) (n + 1) }

/-- Counts an operation of the issuing agent. -/
def State.count (s : State) (c : CounterClass) (id : Nat) : State := s.modMe fun a => a.countOp c id

/-- The place of an operation in its class. -/
def Agent.seqOf (a : Agent) (c : CounterClass) (id : Nat) : Nat :=
  ((a.counter c).find? fun o => o.id == id).elim (a.issuedOf c) OpRec.seq

/-- A WAITC threshold covers an operation when at least that many of its class were issued after it; 7 covers none
(R223). -/
def Agent.covers (a : Agent) (c : CounterClass) (t : BitVec 3) (seq : Nat) : Bool :=
  t != 7 && decide (seq + 1 + t.toNat ≤ a.issuedOf c)

/-- A trap is recorded against an operation of the agent, to be taken at its trap point (R428); an agent that has come after the
one that issued it takes none. -/
def Agent.defer (a : Agent) (c : CounterClass) (id : Nat) (at_ : TrapPoint) (info : TrapInfo) : Agent :=
  if (a.counter c).any fun o => o.id == id then
    { a with traps := a.traps ++ [{ op := id, seq := a.seqOf c id, at_ := at_, info := info }] }
  else a

/-- Completes an operation of an agent (R222). -/
def State.complete (s : State) (c k : Nat) (cls : CounterClass) (id : Nat) : State :=
  s.modAgent c k fun a => a.setCounter cls (completeOp id (a.counter cls))

/-- A scalar destination waits for what an operation of the issuing agent will write to it (R227, R343, R385). -/
def State.waitReg (s : State) (d : Reg) (id : Nat) : State :=
  if isScalar d then s.modMe fun m => { m with regWait := m.regWait ++ [(d.toNat - 96, id)] } else s

/-- Scalar registers that an operation of the agent is still to write stop waiting (R227, R343, R385). -/
def State.regReady (s : State) (c k id : Nat) : State :=
  s.modAgent c k fun a => { a with regWait := a.regWait.filter fun p => p.2 ≠ id }

/-- What an operation of the agent was still to write to a scalar register arrives there (R227, R343, R385). -/
def State.answerReg (s : State) (c k id : Nat) (v : W64) : State :=
  (s.modAgent c k fun a => (a.regWait.filter fun p => p.2 == id).foldl (fun (a : Agent) p => a.sset p.1 v) a).regReady c k id

-- Messages -----------------------------------------------------------------------------------------------------

def State.msg? (s : State) (op : Nat) : Option Msg := s.msgs.find? fun m => m.id == op
def State.dropMsg (s : State) (op : Nat) : State := { s with msgs := s.msgs.filter fun m => m.id != op }
def State.putMsg (s : State) (m : Msg) : State :=
  { s with msgs := updateFirst (fun (n : Msg) => n.id == m.id) (fun _ => m) s.msgs }

/-- A message has reached its end: the XC operation of its issuer completes (R386). -/
def State.endMsg (s : State) (m : Msg) : State := (s.complete m.core m.agent .xc m.id).dropMsg m.id

-- Trace (R458 to R461) ---------------------------------------------------------------------------------------

/-- State of the time base as a trace record shows it (R458). -/
def State.syncFlag (s : State) : Nat := match s.ptp.st with | .unsync => 0 | .locked => 1 | .holdover => 2

def gapCount (r : TraceRec) : Nat := (r.payload.extractLsb' 0 32).toNat

/-- A GAP record in place of one whose TIME it takes, with the state of the time base then: count, time of the first and of the
last record dropped (R458). -/
def gapRec (r : TraceRec) (count first last : Nat) : TraceRec :=
  { r with time := first, type := 8, payload := (BitVec.ofNat 64 last) ++ (BitVec.ofNat 64 (min count (2 ^ 32 - 1))) }

/-- Makes room in a full ring (R461). -/
def traceDrop (d : Die) : Die :=
  let blank : TraceRec := { time := 0, type := 8, flags := 0, core := 0xFF, ctx := 0xFF, payload := 0 }
  let r0 := d.trace.getD d.trRd blank
  let r1 := d.trace.getD (d.trRd + 1) blank
  let t := d.trace.del d.trRd
  if r0.type ≠ 8 then
    { d with trace := t.put (d.trRd + 1) (gapRec { r0 with core := 0xFF, ctx := 0xFF } 2 r0.time r1.time),
             trRd := d.trRd + 1, trDropped := d.trDropped + 2 }
  else
    { d with trace := t.put (d.trRd + 1) (gapRec r0 (gapCount r0 + 1) r0.time r1.time),
             trRd := d.trRd + 1, trDropped := d.trDropped + 1 }

/-- Writes a record, if tracing is enabled and its type is not masked (R459, R461). -/
def State.traceRaw (s : State) (dn : Nat) (r : TraceRec) : State :=
  let d := s.die dn
  if d.trEn && (r.type == 8 || d.trMask.getLsbD (r.type - 1)) then
    let d := if d.trWr - d.trRd = 2 ^ d.trLog2 / 32 then traceDrop d else d
    s.setDie dn { d with trace := d.trace.put d.trWr r, trWr := d.trWr + 1 }
  else s

/-- A trace record made now (R458). -/
def State.traceRec (s : State) (type core ctx : Nat) (payload : BitVec 128) : TraceRec :=
  { time := s.now, type := type, flags := s.syncFlag, core := core, ctx := ctx, payload := payload,
    device := s.devNum }

def State.trace (s : State) (dn type core ctx : Nat) (payload : BitVec 128) : State :=
  s.traceRaw dn (s.traceRec type core ctx payload)

-- Error log (R445 to R447) -----------------------------------------------------------------------------------

/-- An event is found; it is numbered at the end of the NCLK (R447). -/
def State.find (s : State) (dn ch kind ctx detail where_ counter : Nat) (logged : Bool) (tr : Option TraceRec := none) :
    State :=
  let e : LogEntry := LogEntry.mk 0 s.now (dn * 16 + ch) kind ctx detail where_
  { s with found := s.found ++ [{ die := dn, entry := e, counter, logged, trace := tr }] }

/-- DETAIL and WHERE of a log entry whose kind gives them no content, and CODE and DETAIL of a PLAN_DEADLOCK status: free values
(log 20). -/
def State.freeDetail (s : State) : Nat := (Config.freeWord s.tick (16 + 2 * s.found.length)).toNat % 2 ^ 32
def State.freeWhere (s : State) : Nat := (Config.freeWord s.tick (17 + 2 * s.found.length)).toNat
def State.freeCode (s : State) : Nat := (Config.freeWord s.tick 5).toNat % 2 ^ 24 * 2 ^ 8

/-- A 32-bit counter that saturates (R445). -/
def satInc (n : Nat) : Nat := if n < 2 ^ 32 - 1 then n + 1 else n

/-- Numbers one event: its counter, its log entry and its trace record, in one step (R447). -/
def State.number (s : State) (f : Found) : State :=
  let d := s.die f.die
  let ch := d.chan.getD f.entry.channel {}
  let ch := match f.counter with
    | 1 => { ch with corrected := satInc ch.corrected }
    | 2 => { ch with uncorrectable := satInc ch.uncorrectable }
    | 3 => { ch with alerts := satInc ch.alerts }
    | _ => ch
  let d := { d with chan := d.chan.put f.entry.channel ch }
  let e := { f.entry with event := s.nextEvent }
  let d :=
    if !f.logged then d
    else if d.elWr - d.elRd = 64 then { d with lost := d.lost + 1 }
    else { d with log := d.log.put (d.elWr % 64) e, elWr := d.elWr + 1 }
  let s := { (s.setDie f.die d) with nextEvent := s.nextEvent + 1 }
  match f.trace with
  | some r => s.traceRaw f.die { r with payload := (r.payload.extractLsb' 64 64) ++ (BitVec.ofNat 64 e.event) }
  | none => s

/-- An event is found in the next NCLK (R448's example). -/
def State.findNext (s : State) (dn ch kind ctx detail where_ : Nat) : State :=
  let e : LogEntry := LogEntry.mk 0 s.now (dn * 16 + ch) kind ctx detail where_
  { s with found := s.found ++ [{ die := dn, entry := e, counter := 0, logged := true, later := true }] }

/-- Numbers every event found in an NCLK that ends, in ascending channel number, in order of finding within one (R447). -/
def State.numberAll (s : State) : State :=
  let fs := s.found.filter fun f => !f.later
  let chans := (List.range 64).filter fun ch => fs.any fun f => f.entry.channel == ch
  let ordered := chans.flatMap fun ch => fs.filter fun f => f.entry.channel == ch
  { (ordered.foldl (fun s f => s.number f) s) with found := (s.found.filter Found.later).map fun f => { f with later := false } }

-- Pipes' tickets at the end of a workgroup (R330) -------------------------------------------------------------

def FreeQ.size (q : FreeQ) : Nat := (q.limit - q.fresh) + q.back.length
def FreeQ.pop (q : FreeQ) : Option (Nat × FreeQ) :=
  if q.fresh < q.limit then some (q.fresh, { q with fresh := q.fresh + 1 })
  else match q.back with
    | k :: ks => some (k, { q with back := ks })
    | [] => none
def FreeQ.push (q : FreeQ) (k : Nat) : FreeQ := { q with back := q.back ++ [k] }

/-- A slot returns to the tail of its free list; SPILL_OPEN clears when every Whey slot is free (R328, R342). -/
def PipeSt.freeSlot (p : PipeSt) (a : SlotAt) : PipeSt :=
  match a with
  | .vault k => { p with vfree := p.vfree.push k }
  | .whey k =>
    let q := p.wfree.push k
    { p with wfree := q, spillOpen := p.spillOpen && decide (q.size < p.spill) }

/-- H passes void tickets at its head (R327). -/
def PipeSt.skip (p : PipeSt) : Nat → PipeSt
  | 0 => p
  | n + 1 =>
    match p.tickets.find? fun t => t.t == p.h with
    | some t => if t.st = .void then PipeSt.skip { p with h := p.h + 1, tickets := p.tickets.filter fun u => u.t != t.t } n else p
    | none => p

/-- The settlement of one ticket of an ended workgroup (R330). -/
def PipeSt.settle (p : PipeSt) (t : Ticket) : PipeSt :=
  match t.st with
  | .reserved =>
    let p := p.freeSlot t.at_
    { p with voided := p.voided + 1,
             tickets := p.tickets.map fun u => if u.t = t.t then { u with st := .void, atHome := true } else u }
  | .delivered => { (p.freeSlot t.at_) with tickets := p.tickets.filter fun u => u.t != t.t }
  | _ => p

/-- Settles the tickets of a workgroup on one pipe (R330); its agents wait at the pipe's ends no longer. -/
def PipeSt.endWg (p : PipeSt) (c uid : Nat) (agents : List Nat) : PipeSt :=
  let q := (p.tickets.filter fun t => t.wg == uid && !(p.flying.any fun f => f.1 == t.t)).foldl PipeSt.settle p
  let stays := fun (w : PipeWait) => !(w.core == c && agents.contains w.agent)
  PipeSt.skip { q with waitP := q.waitP.filter stays, waitC := q.waitC.filter stays } (q.tickets.length + 1)

/-- C_FREE: tickets that are not void among the longest run of committed tickets from H (R325, R327). -/
def PipeSt.cfreeFrom (p : PipeSt) (t : Nat) : Nat → Nat
  | 0 => 0
  | n + 1 =>
    match p.tickets.find? fun u => u.t == t && u.atHome with
    | some u =>
      if u.st = .committed then 1 + PipeSt.cfreeFrom p (t + 1) n
      else if u.st = .void then PipeSt.cfreeFrom p (t + 1) n
      else 0
    | none => 0

def PipeSt.cfree (p : PipeSt) : Nat := p.cfreeFrom p.h p.tickets.length

/-- A pipe is closed (R329). -/
def PipeSt.closed (p : PipeSt) : Bool := p.sealedH && decide (p.h = p.tNext) && p.waitP.isEmpty

/-- Changes a resident plan. -/
def State.modPlan (s : State) (n : Nat) (f : PlanSt → PlanSt) : State :=
  match s.plans.find? n with
  | some p => { s with plans := s.plans.put n (f p) }
  | none => s

def PlanSt.modPipe (p : PlanSt) (n : Nat) (f : PipeSt → PipeSt) : PlanSt :=
  match p.pipes[n]? with
  | some x => { p with pipes := p.pipes.set n (f x) }
  | none => p

def PlanSt.modStage (p : PlanSt) (n : Nat) (f : StageSt → StageSt) : PlanSt :=
  match p.stages[n]? with
  | some x => { p with stages := p.stages.set n (f x) }
  | none => p

/-- P + floor((E − P) / 8) (R324). -/
def projStep (p e : Nat) : Nat := ((p : Int) + ((e : Int) - (p : Int)) / 8).toNat

-- The end of a workgroup and of a kernel ----------------------------------------------------------------------

/-- A gang loses the baton and its requests (R160). -/
def Core.dropGang (x : Core) (w : Nat) (gng : BitVec 16) : Core :=
  { x with baton := if x.baton = some (w, gng) then none else x.baton,
           batonQ := x.batonQ.filter fun p => p ≠ (w, gng) }

/-- The baton goes to the head of its queue when it is free (R159). -/
def Core.grantBaton (x : Core) : Core :=
  match x.baton, x.batonQ with
  | none, g :: rest => { x with baton := some g, batonQ := rest }
  | _, _ => x

/-- Lines turn FULL (R178). -/
def Core.setFull (x : Core) (ls : List Nat) : Core :=
  { x with emptyLines := x.emptyLines.filter fun l => !(ls.contains l) }

/-- The end of a copy, landing or drain makes every line it is the emptier of FULL (R178, R273). -/
def Core.fullAll (x : Core) (op : Nat) : Core :=
  let ls := (x.emptier.filter fun p => p.2 == op).map Prod.fst
  { (x.setFull ls) with emptier := x.emptier.filter fun p => p.2 != op }

/-- The unit leaves: its agents, its place in the baton queue and at rendezvous entries, and its residency slot (R160, R290,
R430). Its unfinished copies are discarded, and the lines they had marked turn FULL (R178, R430; log 61); its Vat operations
complete in the Vat order (R160). -/
def Core.dropWg (x : Core) (w : Nat) : Core :=
  let held : Bool := match x.baton with | some b => b.1 == w | none => false
  let y : Core := { x with
    baton := if held then none else x.baton,
    batonQ := x.batonQ.filter fun b => b.1 != w,
    rdv := x.rdv.filter fun r => r.wg != w,
    copies := x.copies.filter fun o => o.agent != 128 + w }
  let y := (x.copies.filter fun o => o.agent == 128 + w).foldl (fun (y : Core) o => y.fullAll o.id) y
  { y.grantBaton with wgs := x.wgs.del w, agents := x.agents.filter fun p => p.2.wg != w }

/-- Reservations that wait at a pipe of a plan are tried again (R326). -/
def State.serveWaiting (s : State) (pl : Nat) : State :=
  match s.plans.find? pl with
  | some p =>
    { s with pending := s.pending ++ ((List.range p.pipes.length).filter fun n =>
        (p.pipes[n]?).any fun (q : PipeSt) => !q.waitP.isEmpty).map fun n => Instr.reserveServed pl n }
  | none => s

/-- The rows of a pass that its holder has not been delivered are offered again, as a new pass that is still to be fetched
(R353). -/
def Pass.offered (p : Pass) : Pass := { p with holder := none, batch := 0, fetched := false }

/-- A workgroup's copy context ends: it releases the passes that it holds (R353), and its LPASSes wait no longer. -/
def State.leavePasses (s : State) (c w uid : Nat) : State :=
  let held := fun (p : Pass) => p.holder == some uid
  let asks := s.sweeps.flatMap fun (v : Sweep) =>
    ((v.passes.filter held).map Pass.die).eraseDups.map fun d => Instr.passBegin v.ctx v.addr d
  let leave := fun (v : Sweep) =>
    { v with passes := v.passes.map fun (p : Pass) => if held p then p.offered else p,
             waiting := v.waiting.filter fun x => !(x.at_.core == c && x.at_.agent == 128 + w) : Sweep }
  let goOn := s.sweeps.flatMap fun (v : Sweep) => (leave v).waiting.map fun x => Instr.batchAssign v.ctx v.addr x.at_.core x.at_.agent
  { s with sweeps := s.sweeps.map leave, pending := s.pending ++ asks ++ goOn }

/-- A workgroup ends: its tickets are settled (R330), its agents leave, its gangs lose the baton (R160), the passes it
holds are offered again (R353), and its residency and accumulator slots are free (R290). -/
def State.endWg (s : State) (c w : Nat) : State :=
  match (s.core c).wgs.find? w with
  | none => s
  | some g =>
    let mine := ((s.core c).agents.filter fun p => p.2.wg == w).map Prod.fst
    let s := match (s.core c).run with
      | .stage pl st =>
        let s := s.modPlan pl fun (p : PlanSt) =>
          PlanSt.modStage { p with pipes := p.pipes.map fun (q : PipeSt) => q.endWg c g.uid mine } st
            fun (t : StageSt) => { t with proj := projStep t.proj g.energy }
        s.serveWaiting pl
      | _ => s
    (s.leavePasses c w g.uid).modCore c fun (x : Core) => x.dropWg w

/-- Whether every agent of a workgroup has ended (R290). -/
def Core.wgOver (x : Core) (w : Nat) : Bool := !(x.agents.any fun p => p.2.wg == w)

/-- Sets every cluster barrier a context owns in a cluster to zero, with no owner (R249). -/
def Cluster.clearBars (u : Cluster) (x : Nat) : Cluster :=
  let mine := (u.own.filter fun p => p.2 == x).map Prod.fst
  let stays := fun {α : Type} (p : Nat × α) => !(mine.contains p.1)
  { u with bars := u.bars.filter fun p => !(mine.contains (p.1 / 16)), own := u.own.filter stays,
           arrived := u.arrived.filter stays, carried := u.carried.filter stays }

/-- A core returns to the free cores; when it was the last of its cluster bound to its context, the context's barriers
there are cleared (R249). -/
def State.unbind (s : State) (c : Nat) : State :=
  match (s.core c).ctx with
  | none => s.modCore c fun (y : Core) => { y with run := .idle }
  | some x =>
    let s := s.modCore c fun (y : Core) => { y with run := .idle, ctx := none }
    let u := clusterOf c
    if (List.range 4).any fun i => (s.core (4 * u + i)).ctx == some x then s
    else s.setCluster u ((s.cluster u).clearBars x)

/-- What to run after a workgroup has ended: a core on the move loads its next stage (R339), a core of tasks whose last
workgroup has ended is free again (R374), and the plan's stage may have ended (R319 to R321), which the end of the step
settles. -/
def State.afterWg (s : State) (c : Nat) : State :=
  let x := s.core c
  match x.run with
  | .stage _ _ =>
    if x.moving then (if x.wgs.isEmpty then s.due (.coreMoveLoad c) else s) else s.due (.wgAdmit c)
  | .tasks => if x.wgs.isEmpty then s.unbind c else s
  | .idle => s

/-- A drain of a plan begins (R342): admission stops, and the parts of its cores stop at safe points, until PLAN_DRAIN
ends it. -/
def State.drainPlan (s : State) (pl st reason stage pipe : Nat) : State :=
  match s.plans.find? pl with
  | none => s
  | some p =>
    if p.ending.isSome then s
    else
      let stop := fun (x : Core) => match x.run with
        | .stage a _ => if a = pl ∧ x.pre = .none then { x with pre := .requested } else x
        | _ => x
      let plans := s.plans.put pl { p with ending := some (st, reason, stage, pipe) }
      State.due { s with plans := plans, cores := s.cores.map fun c => (c.1, stop c.2) } (.planDrain pl st reason stage pipe)

/-- R430: a trap without a handler ends the workgroup and then its plan or its task. -/
def State.kernelEnd (s : State) (c k : Nat) (code second : BitVec 8) (offset : W32) : State :=
  let a := s.agentD c k
  let x := s.core c
  let ctx := x.ctx.getD 0xFF
  let die := dieOf c
  let det := code.toNat + 256 * second.toNat
  let pay : BitVec 128 := offset ++ (0#8 ++ (BitVec.ofNat 8 a.index ++ (second ++ (code ++ 0#64))))
  let s := s.find die 13 6 ctx det c 0 true (some (s.traceRec 7 c ctx pay))
  let s := match x.run, (x.wgs.find? a.wg).bind Wg.task with
    | .stage pl st, _ => s.drainPlan pl 3 code.toNat st 0
    | .tasks, some t => s.due (.handleSettle t.handle (.broken 1 code t.handle))
    | _, _ => s
  (s.endWg c a.wg).afterWg c

/-- Taking a trap (R427): the registers of R426 are written; with a handler the part continues there, its lanes and
em unchanged, and the agent is in its handler; otherwise, and for a trap inside the handler (R429), the kernel ends.
`epc` is what sr.epc receives. -/
def State.takeTrap (s : State) (c k part : Nat) (t : TrapInfo) (epc : W64) : State :=
  let lr := (s.core c).lr
  match s.agent? c k with
  | none => s
  | some a =>
    let a := { a with tcode := t.code, epc := epc, einfo := t.einfo, eaddr := t.eaddr, fmask := t.fmask }
    -- an operation that the trapping instruction had counted on XC while suspended is over
    let a := match (a.parts.find? part).bind Part.op with
      | some id => { a with xc := completeOp id a.xc }
      | none => a
    let s := s.setAgent c k a
    let off : W32 := if t.code = 0x06#8 ∨ t.code = 0x07#8 then t.einfo.extractLsb' 32 32 else 0
    if lr.flags % 2 = 1 ∧ a.handling = none then
      s.setAgent c k { a with
        handling := some (part, t.code),
        parts := match a.parts.find? part with
          | some p => a.parts.put part { p with pc := lr.code + BitVec.ofNat 64 lr.handlerOff, wait := none, expired := false,
                                                op := none, nofetch := none, latch := none }
          | none => a.parts }
    else
      match a.handling with
      | some (_, first) => s.kernelEnd c k first t.code off
      | none => s.kernelEnd c k t.code 0 off

/-- A trap of the issuing part at its instruction: sr.epc holds the instruction's address, or that of the LIMM (R52). -/
def State.trap (s : State) (code : BitVec 8) (einfo : W64) (eaddr fmask : W64 := 0) : State :=
  s.takeTrap s.cur.core s.cur.agent s.cur.part { code, einfo, eaddr, fmask } s.pc

/-- The instruction word, as sr.einfo shows it (R426). -/
def State.wordInfo (s : State) : W64 := s.cur.word.setWidth 64

def State.illegalOpcode (s : State) : State := s.trap 0x01 s.wordInfo
def State.illegalOperand (s : State) : State := s.trap 0x02 s.wordInfo
def roleCode : Role → Nat | .matrix => 0 | .vector => 1 | .copy => 2
def State.roleViolation (s : State) : State :=
  s.trap 0x03 (s.wordInfo ||| BitVec.ofNat 64 (roleCode s.me.role * 2 ^ 32))
def State.alignTrap (s : State) (ea : W64) : State := s.trap 0x05 s.wordInfo ea

/-- The fault layout of R426 for an instruction word at an address. -/
def faultLayout (code : W64) (pc : W64) (word : W32) (cause : BitVec 8) : W64 :=
  let op := word.toNat / 2 ^ 26
  let iform := op ∈ [0x01, 0x02, 0x07, 0x08, 0x09, 0x0A, 0x0B, 0x0C, 0x0D, 0x0E, 0x0F, 0x1B, 0x24, 0x25, 0x26, 0x27,
    0x28, 0x29, 0x2A, 0x2B, 0x2C, 0x2D, 0x2E, 0x2F]
  let fn := if iform then 0 else word.toNat / 2 ^ 21 % 32
  let off := ((pc - code).toNat / 4) % 2 ^ 32
  BitVec.ofNat 64 (off * 2 ^ 32 + fn * 2 ^ 16 + op * 2 ^ 8 + cause.toNat)

/-- The fault layout of the issuing instruction. -/
def State.faultInfo (s : State) (cause : BitVec 8) : W64 := faultLayout s.myCore.lr.code s.pc s.cur.word cause

/-- MEMORY_FAULT at issue (R226). -/
def State.memFault (s : State) (ea fmask : W64) : State := s.trap 0x06 (s.faultInfo 0) ea fmask

/-- The own-pool address of an offset (R36). -/
def ownPool (off : Nat) : W64 := 0xFE00000000000000 + BitVec.ofNat 64 off

/-- The return from a handler (R433): the in-handler state ends and the part continues at sr.epc. -/
def State.returnFromTrap (s : State) : State :=
  (s.modMe fun a => { a with handling := none }).jump s.me.epc

/-- Once a trap of the park has been taken, the others of the park are taken at the next trap point, whichever part it is of
(R428). -/
def Deferred.loosen (t : Deferred) : Deferred :=
  match t.at_ with
  | .park _ => { t with at_ := .park none }
  | _ => t

/-- Takes the first deferred trap whose trap point this is, the one whose operation issued first (R428). Answers none
when no such trap is pending. -/
def State.takeDeferred (s : State) (here : Deferred → Bool) : Option State :=
  let ts := s.me.traps.filter here
  match ts with
  | [] => none
  | t0 :: rest =>
    let t := rest.foldl (fun b t => if t.op < b.op then t else b) t0
    let s := s.modMe fun a => { a with traps := (a.traps.erase t).map Deferred.loosen }
    some (s.takeTrap s.cur.core s.cur.agent s.cur.part t.info s.pc)

/-- Every instruction leaves the machine in a next state. -/
abbrev Out := Host.Outcome State Fault Refusal

/-- The outcome of an instruction whose effect may have been cut short by a trap, a park or a hold: either way a next
state. -/
def finish (r : Except State State) : Out :=
  match r with
  | .ok s => .next s
  | .error s => .next s

/-- Continues only where a condition holds; otherwise the state is the one given. -/
def need (b : Bool) (s : State) : Except State Unit := if b then .ok () else .error s

end Sys2Proof.Machine
end

