-- ==== Sys2Proof/Machine/Fields.lean ====
section
/-! DEFINITION. Legality of operand fields (R49, R53 to R59 and each instruction's entry): one predicate per shape of
instruction, used by WellFormed.lean and by the meanings, which take ILLEGAL_OPERAND where it fails. -/

namespace Sys2Proof.Machine

/-- An operand: its field and its width in bits. -/
abbrev Opnd := Reg × Nat

/-- A vector register, aligned as its width requires (R54). -/
def vecOk (r : Reg) (w : Nat) : Bool := isVec r && decide (r.toNat % (max 1 (w / 32)) = 0)

/-- A scalar register; a 128-bit operand is a pair whose first number is even (R54). -/
def scalarOk (r : Reg) (w : Nat) : Bool := isScalar r && decide (w < 128 ∨ r.toNat % 2 = 0)

/-- A source of a per-lane or a scalar execution (R53, R56). -/
def srcOk (perLane : Bool) (p : Opnd) : Bool :=
  scalarOk p.1 p.2 || isZero p.1 || isStream p.1 || (perLane && (vecOk p.1 p.2 || isLid p.1))

/-- A destination (R53, R54). -/
def dstOk (r : Reg) (w : Nat) : Bool := vecOk r w || scalarOk r w || isZero r

/-- No q register is named twice (R57). -/
def streamsOnce (rs : List Reg) : Bool := decide (rs.filter isStream).Nodup

/-- A register destination with its sources (R56, R57). -/
def aluOk (d : Reg) (dw : Nat) (srcs : List Opnd) : Bool :=
  dstOk d dw && srcs.all (srcOk (isVec d)) && streamsOnce (srcs.map Prod.fst)

/-- A mask field (R55). -/
def maskOk (r : Reg) : Bool := decide (r.toNat < 8)

/-- A mask destination with its sources (R56, R113, R114). -/
def maskDstOk (d : Nat) (srcs : List Opnd) : Bool :=
  decide (d < 8) && srcs.all (srcOk true) && streamsOnce (srcs.map Prod.fst)

/-- A compare: a mask destination where `k` is 0, else a register of any alignment (R113, R127). -/
def cmpOk (k : BitVec 1) (d : Reg) (srcs : List Opnd) : Bool :=
  if k = 0#1 then maskDstOk d.toNat srcs else aluOk d 32 srcs

/-- Registers that a copy context does not have (R31). -/
def namesLanes (rs : List Reg) : Bool := rs.any fun r => isVec r || isStream r || isLid r

/-- A bit field inside its operand (R112). -/
def bitFieldOk (d : Reg) (l p : BitVec 6) : Bool := decide (p.toNat + l.toNat + 1 ≤ if isVec d then 32 else 64)

/-- The amount of SHFI (R110). -/
def shiftOk (w : BitVec 1) (n : BitVec 6) : Bool := decide (w = 1#1 ∨ n.toNat < 32)

/-- The rounding fields of CVT (R67): SR only with RM 0. -/
def cvtOk (sr : BitVec 1) (rm : BitVec 2) : Bool := decide (sr = 0#1 ∨ rm = 0#2)

-- Memory (R225, R231 to R236) ---------------------------------------------------------------------------------

/-- The base of a memory instruction: a scalar, zero, or, per lane, an even-aligned pair (R225). -/
def baseOk (perLane : Bool) (a : Reg) : Bool := isSz a || (perLane && vecOk a 64)

/-- A load of `w` bits (R225, R229, R231). -/
def loadOk (d : Reg) (w : Nat) (a : Reg) : Bool := dstOk d w && baseOk (isVec d) a

/-- A store of `w` bits: D is a source, which may be a q register or lid (R225, R230). -/
def storeOk (d : Reg) (w : Nat) (a : Reg) : Bool := srcOk true (d, w) && baseOk true a

/-- Whether a store, STO, RED or XST executes per lane (R225). -/
def storePerLane (d a : Reg) : Bool := isVec d || isLid d || isVec a

/-- The operands of ATOM (R234, R235): CAS takes its swap value from the register after D. -/
def atomOk (cas : Bool) (d : Reg) (w : Nat) (a : Reg) : Bool :=
  if cas then (vecOk d (2 * w) || (isScalar d && decide (d.toNat ≠ 119))) && baseOk (isVec d) a
  else loadOk d w a

/-- Orders: 0 RLX (SC in FENCE), 1 ACQ, 2 REL, 3 AR. Scopes: 0 to 4 WAVE to SYS, 5 RCORE (R58, R59). -/
def scopeOk (sc : BitVec 3) (rcore : Bool) : Bool := decide (sc.toNat < 5 ∨ (sc.toNat = 5 ∧ rcore))
def ldoOrderOk (sc : BitVec 3) (ord : BitVec 2) : Bool := decide (ord.toNat < 2) && scopeOk sc (ord == 1#2)
def stoOrderOk (sc : BitVec 3) (ord : BitVec 2) : Bool := decide (ord.toNat % 2 = 0) && scopeOk sc false
def atomOrderOk (sc : BitVec 3) (ord : BitVec 2) : Bool := scopeOk sc (decide (ord.toNat % 2 = 1))

/-- The size field (R58). -/
def sizeOf (sz : BitVec 2) : Nat := 2 ^ sz.toNat

-- Other groups -----------------------------------------------------------------------------------------------

/-- A vector source of the WAVE group: a vector register, lid or a q register (R137). -/
def waveSrcOk (r : Reg) : Bool := isVec r || isLid r || isStream r

/-- Even scalar destination of a pair (R54, R257, R455). -/
def evenScalar (r : Reg) : Bool := isScalar r && decide (r.toNat % 2 = 0)

end Sys2Proof.Machine
end

