-- ==== Sys2Proof/Machine/Mem.lean ====
section
/-! DEFINITION. Memory: translation of virtual addresses (R36 to R41, R396 to R398), what the memory side answers
(R196, R400, R401), home slices (R187, R188), the caches and their coherence actions (R184 to R191, R205, R213), the
pool with its full/empty bits (R178, R179), and reads and writes at every scope. Each access takes effect at its
issue, in order of issue (log 1). -/

namespace Sys2Proof.Machine

-- The pool ---------------------------------------------------------------------------------------------------

def Core.regB (x : Core) : Nat := x.regTop * 65536
def Core.scrB (x : Core) : Nat := x.scrTop * 65536
def Core.xchB (x : Core) : Nat := x.xchTop * 65536

/-- E, the size of an exchange bank (R17). -/
def Core.bankB (x : Core) : Nat := (x.xchTop - x.scrTop) * 32768

/-- The physical place of an own-pool offset: the live bank always appears at the lower half of the exchange
addresses (R36). -/
def Core.phys (x : Core) (off : Nat) : Nat :=
  if off < x.scrB then off
  else if off < x.scrB + x.bankB then (if x.liveHigh then off + x.bankB else off)
  else (if x.liveHigh then off - x.bankB else off)

/-- The range [off, off + n) lies in the scratchpad. -/
def Core.inScratch (x : Core) (off n : Nat) : Bool := decide (x.regB ≤ off ∧ off + n ≤ x.scrB)

/-- The lines of a range, by offset / 128. -/
def linesOf (off n : Nat) : List Nat :=
  if n = 0 then [] else (List.range ((off + n - 1) / 128 + 1 - off / 128)).map fun i => off / 128 + i

/-- The EMPTY lines among a list (R18, R179). -/
def Core.emptyOf (x : Core) (ls : List Nat) : List Nat := ls.filter fun l => x.emptyLines.contains l

/-- A number inserted in a rising list without repeats. -/
def insertNat (n : Nat) : List Nat → List Nat
  | [] => [n]
  | m :: ms => if n < m then n :: m :: ms else if n = m then m :: ms else m :: insertNat n ms

def Core.setEmpty (x : Core) (ls : List Nat) : Core := { x with emptyLines := ls.foldl (fun e l => insertNat l e) x.emptyLines }

/-- An operation marks lines EMPTY and becomes their emptier (R178, R267). -/
def Core.mark (x : Core) (op : Nat) (ls : List Nat) : Core :=
  { (x.setEmpty ls) with emptier := ls.foldl (fun e l => e.put l op) x.emptier }

/-- The last byte for a line lands: it turns FULL if the operation is its emptier (R178, R267). -/
def Core.lineLanded (x : Core) (op l : Nat) : Core :=
  if x.emptier.find? l = some op then { (x.setFull [l]) with emptier := x.emptier.del l } else x

/-- ECC words of a pool range by physical offset / 32 (R199, R442). -/
def eccWords (a n : Nat) : List Nat :=
  if n = 0 then [] else (List.range ((a + n - 1) / 32 + 1 - a / 32)).map fun i => a / 32 + i

/-- Words of a list wholly covered by a write stop being uncorrectable; the others stay (R199, R442). -/
def coverBad (bad : List Nat) (a n : Nat) : List Nat :=
  bad.filter fun w => !(decide (a ≤ w * 32 ∧ w * 32 + 32 ≤ a + n))

/-- Bytes of the pool by physical offset. -/
def Core.poolRead (x : Core) (a n : Nat) : Nat := x.pool.readLE a n
def Core.poolWrite (x : Core) (a n v : Nat) : Core :=
  { x with pool := x.pool.writeLE a n v, badPool := coverBad x.badPool a n }
def Core.poolPut (x : Core) (a : Nat) (bs : List Byte) : Core :=
  { x with pool := x.pool.putBytes a bs, badPool := coverBad x.badPool a bs.length }
def Core.poolBad (x : Core) (a n : Nat) : Bool := (eccWords a n).any fun w => x.badPool.contains w

/-- An uncorrectable line of a pool is met, at an own-pool offset: the event is counted and logged on the die's pool channel (R440, R443, R445;
log 22). -/
def State.metPool (s : State) (c off : Nat) : State :=
  s.dueNow (.errorEvent (16 * dieOf c + 8) 2 (c * 65536 + (s.core c).phys off / 128) true (s.core c).ctx c)

/-- DATA_ERROR at issue (R486). -/
def State.dataError (s : State) (ea : W64) : State :=
  (s.metPool s.cur.core (ea.toNat % 2 ^ 23)).trap 0x07 (s.faultInfo 0x10) ea

-- Addresses --------------------------------------------------------------------------------------------------

/-- Where an address leads (R36 to R39). -/
inductive Place where
  | pool (off : Nat)
  | mem (ia : Nat)
  deriving DecidableEq, Repr

/-- The rights an access needs (R226, R396). -/
inductive Need where
  | r | w | rw | x
  deriving DecidableEq, Repr

def Window.allows (m : Window) : Need → Bool
  | .r => m.r | .w => m.w | .rw => m.r && m.w | .x => m.x

/-- The window that holds an address (R397). -/
def Ctx.window? (x : Ctx) (va : Nat) : Option Window :=
  ((List.range 8).map fun n => x.mw.getD n {}).find? fun m =>
    m.valid && decide (m.vbase * 2 ^ 21 ≤ va ∧ va < m.vbase * 2 ^ 21 + 2 ^ m.log2)

/-- The intermediate address of a mapped virtual address, with the rights checked (R397, R398). -/
def Ctx.translate (x : Ctx) (need : Need) (va : W64) : Option Nat :=
  match x.window? va.toNat with
  | some m => if m.allows need then some (m.ibase * 2 ^ 21 + (va.toNat - m.vbase * 2 ^ 21)) else none
  | none => none

/-- An access of `size` bytes of a core's agent (R36, R38, R226); none takes MEMORY_FAULT. -/
def State.place (s : State) (c : Nat) (need : Need) (va : W64) (size : Nat) : Option Place :=
  let top := va.toNat / 2 ^ 56
  let x := s.core c
  if top = 0xFE then
    let off := va.toNat % 2 ^ 56
    if off ≥ 2 ^ 23 then none
    else if off < x.regB then none
    else if off + size ≤ x.scrB then (if need = .x then none else some (.pool off))
    else if off < x.scrB then none
    else if off + size ≤ x.scrB + x.bankB then (if need = .x then none else some (.pool off))
    else if off < x.scrB + x.bankB then none
    else if off + size ≤ x.xchB ∧ need = .r then some (.pool off)
    else none
  else if top = 0xFD then none
  else
    match (s.ctx (s.ctxOf c)).translate need va with
    | some ia => some (.mem ia)
    | none => none

/-- The class of an intermediate address (R39). -/
def iaClass (ia : Nat) : Nat := ia / 2 ^ 53 % 8
def iaOff (ia : Nat) : Nat := ia % 2 ^ 53
def GiB : Nat := 2 ^ 30

/-- The address on its device that a class 5 offset names (R41); none is out of range. -/
def remoteAddr (o : Nat) : Option Nat :=
  if o < 1536 * GiB then some (4 * 2 ^ 53 + o)
  else if 2 ^ 41 ≤ o ∧ o < 2 ^ 42 then
    let d := (o - 2 ^ 41) / 2 ^ 39
    let r := (o - 2 ^ 41) % 2 ^ 39
    if r < 384 * GiB then some (d * 2 ^ 53 + r) else none
  else none

/-- The device of a class 5 address (R39). -/
def podDev (ia : Nat) : Nat := ia / 2 ^ 43 % 1024

/-- The address at which memory holds a byte: what reaches this device's own port for a class 5 address is performed at the
address it names (R40, R41); a class 5 address of another device stands for that device's byte. Caches hold lines by the
intermediate address itself (R40, R186). -/
def State.home (s : State) (ia : Nat) : Nat :=
  if iaClass ia = 5 ∧ podDev ia = s.devNum then (remoteAddr (ia % 2 ^ 43)).getD ia else ia

/-- A page of another device of which this device holds a replica (R403). -/
def State.replicaHeld (s : State) (ia : Nat) : Bool :=
  iaClass ia == 5 && podDev ia != s.devNum && (s.replicas.getD (ia / 65536) []).contains s.devNum

/-- The byte that a read which reaches memory finds at an address: the replica's where this device holds one (R403), else
the home's. -/
def State.homeByte (s : State) (ia : Nat) : Byte := if s.replicaHeld ia then s.repMem.get ia else s.mem.get (s.home ia)

-- Home slices (R187, R188) ------------------------------------------------------------------------------------

/-- XOR of the successive k-bit groups of x (R187). -/
def foldBits (k : Nat) (x : Nat) : Nat → Nat
  | 0 => 0
  | n + 1 => Nat.xor (x % 2 ^ k) (foldBits k (x / 2 ^ k) n)

def fold6 (x : Nat) : Nat := foldBits 6 x 9
def fold2 (x : Nat) : Nat := foldBits 2 x 26

/-- Home die and slice of a line, for classes 0 to 4 and 7 (R187). -/
def homeOf (ia : Nat) : Option (Nat × Nat) :=
  let n := ia % 2 ^ 53 / 128
  match iaClass ia with
  | 4 => some (fold2 n, fold6 (n / 4))
  | 5 | 6 => none
  | 7 => some (ia / 2 ^ 51 % 4, ia % 2 ^ 51 / 128 % 64)
  | c => some (c, fold6 n)

/-- The line of a home address in the cache ways of its home slice (R186, R189). -/
def State.wayOf (s : State) (ia : Nat) : Option WLine :=
  if iaClass ia ≤ 4 then (homeOf ia).bind fun h => (s.die h.1).ways.find? (ia / 128) else none

/-- A request of a context hits its line in the cache ways; a line of another owner is a miss (R186). -/
def State.wayHit (s : State) (ctx ia : Nat) : Bool := (s.wayOf ia).any fun w => w.own == ctx

/-- The base die's answer to a packet, before it consults its cache (R400). A context whose page has passed back to free is no
longer its owner (R402). -/
def State.baseNak (s : State) (ctx ia : Nat) : Option (BitVec 8) :=
  match s.pages.find? (ia / 65536) with
  | none => some (if s.freed.find? (ia / 65536) = some ctx then 0x02 else 0x01)
  | some p => if p.owner ≠ ctx then some 0x02 else if p.retired then some 0x04 else none

/-- The answer for a byte of classes 0 to 4: the page table's (R400), which a hit in the cache ways does not ask (R186); a
write to a page that is read-duplicated or moving faults in any case (R404, R406). -/
def State.pageNak (s : State) (ctx ia : Nat) (write : Bool) : Option (BitVec 8) :=
  let held := (s.pages.find? (ia / 65536)).any fun p => p.policy == 1 || s.migrating.contains (ia / 65536)
  match (if s.wayHit ctx ia then none else s.baseNak ctx ia) with
  | some code => some code
  | none => if write && held then some 0x01 else none

/-- What another device answers for a page of its own, in this step: served, NOT_MAPPED, OWNER or RETIRED (R41, R196, R417;
log 19). -/
def State.podAnswer (s : State) (page : Nat) : Option (BitVec 8) :=
  match Config.podNak s.tick page with
  | 1 => some 0x01
  | 2 => some 0x02
  | 3 => some 0x04
  | _ => none

/-- The NAK code the memory side answers an access of a context with, or none where it is served (R39, R41, R192, R196, R400,
R401, R403, R404, R411, R412, R417 to R419). Before its device number is set this device accepts no pod request, its own
included, and answers it NAK OWNER (R40, R418; log 58). -/
def State.nak (s : State) (ctx ia : Nat) (write : Bool) : Option (BitVec 8) :=
  match iaClass ia with
  | 0 | 1 | 2 | 3 => if iaOff ia < 384 * GiB then s.pageNak ctx ia write else some 0x03
  | 4 => if iaOff ia < 1536 * GiB then s.pageNak ctx ia write else some 0x03
  | 5 =>
    if 2 ^ 42 ≤ ia % 2 ^ 43 then some 0x02
    else match remoteAddr (ia % 2 ^ 43) with
      | none => some 0x03
      | some a =>
        if podDev ia = s.devNum then (if s.numSet then s.pageNak ctx a write else some 0x02)
        else if s.replicaHeld ia then (if write then some 0x01 else none)
        else s.podAnswer (ia / 65536)
  | 6 =>
    if s.link.down then some 0x03
    else
      let x := s.ctx ctx
      let o := iaOff ia
      if x.hostMap && (x.hostRanges.any fun r => decide (r.2.1 ≤ o ∧ o < r.2.1 + r.2.2)) then none else some 0x02
  | _ =>
    let d := ia / 2 ^ 51 % 4
    let o := ia % 2 ^ 51
    if 64 * (s.die d).vaultSteps * 786432 ≤ o then some 0x03
    else if (s.die d).vaultOwn.find? (o / 65536) = some ctx then none
    else some 0x02

/-- The next sequence tag of a line's home slice (R188). -/
def State.bumpSeq (s : State) (ia : Nat) : State :=
  match homeOf ia with
  | some (d, sl) =>
    let k := sl * 4096 + ia % 2 ^ 53 / 128 % 4096
    let x := s.die d
    s.setDie d { x with seq := x.seq.put k ((x.seq.getD k 0 + 1) % 65536) }
  | none => s

/-- The stack and pseudo-channel that serve a block (R193). -/
def stackOf (ia : Nat) : Nat := ia % 2 ^ 53 / 2048 % 3
def pchOf (ia : Nat) : Nat := fold6 (ia % 2 ^ 53 / 2048)

/-- Bytes of a masked list: pairs of address and value. -/
abbrev Bytes := List (Nat × Byte)

/-- The die's channel of the stack that holds an address: near stacks 0 to 2, far ones 3 to 5 (R192, R445). -/
def stackChan (ia : Nat) : Nat := stackOf ia + if (if iaClass ia = 4 then 768 else 192) * GiB ≤ iaOff ia then 3 else 0

/-- A home slice without cache ways (R189). -/
def State.noWays (s : State) (ia : Nat) : Bool :=
  decide (iaClass ia ≤ 4) && (homeOf ia).any fun h => (s.die h.1).vaultSteps == 8

/-- The unit of a slice's frame, as events name it (R22, R443; log 22). -/
def frameUnit (slice frame : Nat) : Nat := slice * 65536 + frame

/-- An uncorrectable word of memory is met: the event is counted and logged before anything else takes place (R440, R443,
R445; log 22), on the channel of the home slice where the slice holds the line, in its vault or in its cache ways, else on
that of the stack, whose row it is; `ia` is the word's first byte. Words of other devices and of the host are theirs to
report. -/
def State.metBad (s : State) (ctx ia : Nat) : State :=
  match homeOf ia with
  | none => s
  | some (d, sl) =>
    if iaClass ia = 7 then s.dueNow (.errorEvent (16 * d + 7) 1 (frameUnit sl (ia % 2 ^ 51 / 8192)) true (some ctx) ia)
    else match s.wayOf ia with
      | some w => s.dueNow (.errorEvent (16 * d + 7) 1 (frameUnit sl w.frame) true (some ctx) ia)
      | none => s.dueNow (.errorEvent (16 * d + stackChan ia) 0 (ia / 2048) true (some ctx) ia)

/-- Requests leave a home slice for the base die (R189, R196). -/
def State.toBase (s : State) (ia : Nat) (reqs : List Req) : State :=
  match homeOf ia with
  | none => s
  | some (d, sl) =>
    let x := s.die d
    let at_ := fun (r : Req) => { r with slice := sl, stack := stackOf r.ia, pch := pchOf r.ia }
    let reqs := reqs.map at_
    let s := s.setDie d { x with reqs := x.reqs ++ reqs }
    { s with pending := s.pending ++ reqs.map fun r => Instr.portSend d sl r.stack r.pch }

/-- One RD for each of some blocks of 64 bytes (R189, R473). -/
def State.sendRds (s : State) (ctx ia : Nat) (blocks : List Nat) : State :=
  s.toBase ia (blocks.map fun b => { slice := 0, stack := 0, pch := 0, write := false, ctx := ctx, ia := b : Req })

/-- The frames of a die's slice that hold lines or are out of service (R443). -/
def Die.usedFrames (x : Die) (sl : Nat) : List Nat :=
  ((x.ways.filter fun w => (homeOf (w.1 * 128)).map Prod.snd == some sl).map fun w => w.2.frame) ++
  (x.units.filter fun u => u.cls == 1 && u.retired && u.unit / 65536 == sl).map fun u => u.unit % 65536

/-- The lowest free frame among a slice's cache ways, above its vault (R22, R23). -/
def Die.freeFrame (x : Die) (sl : Nat) : Option Nat :=
  let used := x.usedFrames sl
  let f := firstFree used (x.vaultSteps * 6144) used.length
  if f < 49152 then some f else none
where
  /-- The least number from `n` on that a list does not hold, among as many as the list is long. -/
  firstFree (used : List Nat) (n : Nat) : Nat → Nat
    | 0 => n
    | k + 1 => if used.contains n then firstFree used (n + 1) k else n

/-- ECC words of a range, by address / 32 (R199). -/
def State.memBad (s : State) (a n : Nat) : Bool := (eccWords a n).any fun w => s.bad.contains w

/-- A line is read at its home slice (R189): a miss in the cache ways fetches it as two RDs and, where its data are good and
a frame is free, holds it there under the owner the memory side has confirmed (R186); class 7 lies in the vault. -/
def State.fetchHome (s : State) (ctx line : Nat) : State :=
  let ia := line * 128
  if 4 < iaClass ia ∨ s.wayHit ctx ia then s
  else
    let s := s.sendRds ctx ia [ia, ia + 64]
    match homeOf ia with
    | none => s
    | some (d, sl) =>
      match (if s.noWays ia ∨ s.memBad ia 128 ∨ (s.wayOf ia).isSome then none else (s.die d).freeFrame sl) with
      | some f => s.setDie d { s.die d with ways := (s.die d).ways.put line { own := ctx, dirty := 0, frame := f } }
      | none => s

/-- The 64-byte blocks of ranges of home addresses, each once. -/
def blocksOf (rs : List (Nat × Nat)) : List Nat :=
  (rs.flatMap fun r => if r.2 = 0 then [] else (List.range ((r.1 + r.2 - 1) / 64 + 1 - r.1 / 64)).map fun i => (r.1 / 64 + i) * 64).eraseDups

/-- Reads that bypass L1 and the cluster's unit reach their home slices (R189): a slice without cache ways sends one RD for
each block they touch, another fills its ways. -/
def State.askRd (s : State) (ctx : Nat) (rs : List (Nat × Nat)) : State :=
  (blocksOf rs).foldl (fun (s : State) b =>
    if 4 < iaClass b then s else if s.noWays b then s.sendRds ctx b [b] else s.fetchHome ctx (b / 128)) s

/-- The bits of a line's bytes. -/
def byteBits (bs : Bytes) : BitVec 128 := bs.foldl (fun (d : BitVec 128) (b : Nat × Byte) => d ||| (1#128 <<< (b.1 % 128))) 0

/-- Bytes that do not cover one of their ECC words whole, where that word is uncorrectable: they are lost (R199). -/
def State.lostByte (s : State) (bs : Bytes) (b : Nat × Byte) : Bool :=
  s.bad.contains (b.1 / 32) && !((List.range 32).all fun i => bs.any fun y => y.1 == b.1 / 32 * 32 + i)

/-- A write takes effect at the home (R188): its bytes are there, and a word that it covers whole is good again; an
uncorrectable word that it covers in part keeps its pattern and loses the bytes (R199, R442); the words of `marks` receive
the check pattern (R442). -/
def State.homePut (s : State) (bs : Bytes) (marks : List Nat) : State :=
  let whole := fun (w : Nat) => (List.range 32).all fun i => bs.any fun b => b.1 == w * 32 + i
  let keep := bs.filter fun b => !(s.lostByte bs b) && !(marks.contains (b.1 / 32))
  { s with mem := keep.foldl (fun (m : SMap 8) (b : Nat × Byte) => m.set b.1 b.2) s.mem,
           bad := marks ++ s.bad.filter fun w => !(whole w) && !(marks.contains w) }

/-- The packets of a write of a line (R189, R473): the line in the cache ways is dirty in its bytes, else one WR for each
block written goes to the base die. -/
def State.homeOut (s : State) (ctx line : Nat) (bs : Bytes) (marks : List Nat) : State :=
  let ia := line * 128
  if 4 < iaClass ia then s
  else match homeOf ia, s.wayOf ia with
    | some (d, _), some w =>
      if w.own = ctx then
        s.setDie d { s.die d with ways := (s.die d).ways.put line { w with dirty := w.dirty ||| byteBits bs } }
      else s
    | _, _ =>
      s.toBase ia ([ia, ia + 64].filterMap fun b =>
        let mask := (List.range 64).map fun i => bs.any fun y => y.1 == b + i
        if mask.any id then
          some { slice := 0, stack := 0, pch := 0, write := true, ctx := ctx, ia := b,
                 data := (List.range 64).map fun i => ((bs.reverse.find? fun y => y.1 == b + i).map Prod.snd).getD 0,
                 mask := mask, marks := marks.filter fun m => m / 2 == b / 64 : Req }
        else none)

/-- A write of bytes of one line takes effect at its home: its bytes, the line's sequence tag, and the packets to the base die
(R188, R189). A slice that merges it into an uncorrectable word of its ways reports that (R440). -/
def State.homeWrite (s : State) (ctx line : Nat) (bs : Bytes) (marks : List Nat := []) : State :=
  if bs.isEmpty then s
  else
    let met := if (s.wayOf (line * 128)).isSome then (bs.find? (s.lostByte bs)) else none
    let s := ((s.homePut bs marks).bumpSeq (line * 128)).homeOut ctx line bs marks
    match met with
    | some b => s.metBad ctx (b.1 / 32 * 32)
    | none => s

/-- A write covers an ECC word whole. -/
def Req.covers (r : Req) (w : Nat) : Bool := w / 2 == r.ia / 64 && (List.range 32).all fun i => r.mask.getD (32 * (w % 2) + i) false

/-- The ECC words of a line that decode as uncorrectable at its base die, once the writes on their way there are done (R198,
R199). -/
def State.baseBad (s : State) (line : Nat) : List Nat :=
  let going := (homeOf (line * 128)).elim [] fun h => (s.die h.1).reqs.filter fun r => r.write && !r.served && r.ia / 128 == line
  ((List.range 4).map fun i => 4 * line + i).filter fun w =>
    going.foldl (fun b r => r.marks.contains w || (b && !(r.covers w))) (s.dramBad.contains w)

/-- A line leaves the cache ways of its slice: its dirty bytes go to the base die as masked writes (R189), and an uncorrectable
word among them keeps the check pattern (R442). From then on the line is as the base die has it. -/
def State.dropWay (s : State) (line : Nat) : State :=
  match homeOf (line * 128), s.wayOf (line * 128) with
  | some (d, _), some w =>
    let bs : Bytes := ((List.range 128).filter fun i => w.dirty.getLsbD i).map fun i => (line * 128 + i, s.mem.get (line * 128 + i))
    let marks := ((bs.map fun b => b.1 / 32).eraseDups).filter fun m => s.bad.contains m
    let s := (s.setDie d { s.die d with ways := (s.die d).ways.del line }).homeOut w.own line bs marks
    { s with bad := s.baseBad line ++ s.bad.filter fun k => k / 4 != line }
  | _, _ => s

/-- Little-endian number of a list of bytes, and back. -/
def leNat : List Byte → Nat
  | [] => 0
  | b :: bs => b.toNat + 256 * leNat bs
def leBytes (v : Nat) : Nat → List Byte
  | 0 => []
  | n + 1 => BitVec.ofNat 8 v :: leBytes (v / 256) n

-- Caches (R184 to R191) ---------------------------------------------------------------------------------------

/-- The bytes of ECC words that decode as uncorrectable, in a line at its home (R440). -/
def State.lineBad (s : State) (line : Nat) : BitVec 128 :=
  (List.range 4).foldl (fun m w => if s.bad.contains (4 * line + w) then m ||| (0xFFFFFFFF#128 <<< (32 * w)) else m) 0

/-- A clean line with the 128 bytes of `f`, those of `bad` uncorrectable. -/
def CLine.fill (own : Nat) (f : Nat → Byte) (bad : BitVec 128) : CLine :=
  { own, data := (List.range 128).foldl (fun m i => m.set i (f i)) [], dirty := 0, bad }

/-- A write of bytes into a copy that is only kept up to date; they are good from then on. -/
def CLine.update (l : CLine) (bs : Bytes) : CLine :=
  { l with data := bs.foldl (fun (m : SMap 8) (b : Nat × Byte) => m.set (b.1 % 128) b.2) l.data,
           bad := l.bad &&& ~~~(byteBits bs), valid := l.valid ||| byteBits bs }

/-- The same, marked dirty (R184). -/
def CLine.write (l : CLine) (bs : Bytes) : CLine := { l.update bs with dirty := l.dirty ||| byteBits bs }

/-- A line with the dirty bytes of another written over it, with the marks of those found uncorrectable (R184, R442). -/
def CLine.take (l m : CLine) : CLine :=
  { l with data := (List.range 128).foldl (fun (d : SMap 8) i => if m.dirty.getLsbD i then d.set i (m.data.get i) else d) l.data,
           dirty := l.dirty ||| m.dirty, valid := l.valid ||| m.dirty,
           bad := (l.bad &&& ~~~m.dirty) ||| (m.bad &&& m.dirty) }

/-- A line whose bytes are fetched: those it holds stay (R184). -/
def CLine.over (l home : CLine) : CLine :=
  { l with data := (List.range 128).foldl (fun (d : SMap 8) i => if l.valid.getLsbD i then d else d.set i (home.data.get i)) l.data,
           bad := (l.bad &&& l.valid) ||| (home.bad &&& ~~~l.valid), valid := BitVec.allOnes 128 }

/-- Whether a line holds all its bytes. -/
def CLine.whole (l : CLine) : Bool := l.valid == BitVec.allOnes 128

/-- Whether some of `n` bytes from an offset of a line are uncorrectable. -/
def CLine.badAt (l : CLine) (o n : Nat) : Bool := l.bad.extractLsb' o n != 0#n

/-- `n` bytes from an offset of a line, as a number. -/
def CLine.read (l : CLine) (o n : Nat) : Nat := leNat ((List.range n).map fun i => l.data.get (o + i))

/-- The dirty bytes of a line, by their offsets (R184). -/
def CLine.dirtyBytes (l : CLine) : Bytes := ((List.range 128).filter fun i => l.dirty.getLsbD i).map fun i => (i, l.data.get i)

/-- The words of a line, 0 to 3, whose dirty bytes are uncorrectable: a write-back gives them the check pattern (R442). -/
def CLine.marks (l : CLine) : List Nat := (List.range 4).filter fun w => (l.bad &&& l.dirty).extractLsb' (32 * w) 32 != 0#32

/-- The line that a table holds for a context; a line of another owner is a miss (R186). -/
def ownLine (t : AList CLine) (ctx line : Nat) : Option CLine := (t.find? line).filter fun l => l.own == ctx

/-- The line that a cluster holds for a context, in its atomic unit or its buffer (R186, R218). -/
def Cluster.line? (k : Cluster) (ctx line : Nat) : Option CLine := (ownLine k.au ctx line).or (ownLine k.buf ctx line)

/-- Another context's line stands in the cluster: a request passes it by (R186). -/
def Cluster.foreign (k : Cluster) (ctx line : Nat) : Bool :=
  (k.line? ctx line).isNone && ((k.au.find? line).isSome || (k.buf.find? line).isSome)

/-- Writes a cluster's line where it stands: in the atomic unit if that holds it, else in the buffer. -/
def State.putLine (s : State) (u line : Nat) (l : CLine) : State :=
  let k := s.cluster u
  s.setCluster u (if (k.au.find? line).isSome then { k with au := k.au.put line l } else { k with buf := k.buf.put line l })

/-- Discards the replica of a line on a die (R191). -/
def State.dropReplica (s : State) (d line : Nat) : State :=
  let x := s.die d
  if (x.reps.find? line).isSome then s.setDie d { x with reps := x.reps.del line } else s

/-- A write-back that meets NAK RETIRED waits in its slice for the pager (R434): the cache ways do not hold the line, and the
frame of its page is retired. -/
def State.retiredLine (s : State) (line : Nat) : Bool :=
  decide (iaClass (line * 128) ≤ 4) && (s.wayOf (line * 128)).isNone && (s.pages.find? (line * 128 / 65536)).any Page.retired

/-- Bytes of a line, by their offsets, leave a cluster for the line's home: the replica on the writing die goes first (R191);
at a frame that is retired they wait (R434). -/
def State.sendHome (s : State) (u own line : Nat) (bs : Bytes) (marks : List Nat := []) : State :=
  let s := s.dropReplica (u / 8) line
  let h := s.home (line * 128) / 128
  let at_ : Bytes := bs.map fun b => (h * 128 + b.1 % 128, b.2)
  let marks := marks.map fun w => h * 4 + w
  if s.retiredLine h then { s with heldWb := s.heldWb ++ [{ own, line := h, bytes := at_, marks }] }
  else s.homeWrite own h at_ marks

/-- Writes a line's dirty bytes from an L1 to its cluster; the line stays, clean (R185). The cluster's line receives the dirty
bytes and no other; where it has none, it holds those bytes alone (R184). Past a line of another owner they go home (R186). -/
def State.flushL1Line (s : State) (c line : Nat) : State :=
  match (s.core c).l1.find? line with
  | some l =>
    if l.dirty = 0 then s
    else
      let s := s.modCore c fun x => { x with l1 := x.l1.put line { l with dirty := 0, bad := l.bad &&& ~~~l.dirty } }
      let u := clusterOf c
      let k := s.cluster u
      if k.foreign l.own line then s.sendHome u l.own line l.dirtyBytes l.marks
      else s.putLine u line (((k.line? l.own line).getD { own := l.own, data := [], dirty := 0, valid := 0 }).take l)
  | none => s

/-- Writes the dirty bytes of one line of a cluster home; the line stays, clean (R185). -/
def State.flushOne (s : State) (u line : Nat) (l : Option CLine) (put : Cluster → CLine → Cluster) : State :=
  match l with
  | some l =>
    if l.dirty = 0 then s
    else (s.setCluster u (put (s.cluster u) { l with dirty := 0, bad := l.bad &&& ~~~l.dirty })).sendHome u l.own line l.dirtyBytes l.marks
  | none => s

/-- Writes a line's dirty bytes from a cluster's atomic unit and buffer home (R185, R218). -/
def State.flushBufLine (s : State) (u line : Nat) : State :=
  let s := s.flushOne u line ((s.cluster u).buf.find? line) fun k l => { k with buf := k.buf.put line l }
  s.flushOne u line ((s.cluster u).au.find? line) fun k l => { k with au := k.au.put line l }

def State.flushL1 (s : State) (c : Nat) : State := (s.core c).l1.keys.foldl (fun s l => s.flushL1Line c l) s
def State.flushBuf (s : State) (u : Nat) : State :=
  ((s.cluster u).buf.keys ++ (s.cluster u).au.keys).foldl (fun s l => s.flushBufLine u l) s

/-- Writes back a line from L1 and the cluster, for accesses that bypass them (R185, R218). -/
def State.flushLine (s : State) (c line : Nat) : State := (s.flushL1Line c line).flushBufLine (clusterOf c) line

/-- Discards a line from L1 and from the cluster, after its write-back. -/
def State.dropL1Line (s : State) (c line : Nat) : State := s.modCore c fun x => { x with l1 := x.l1.del line }
def State.dropBufLine (s : State) (u line : Nat) : State :=
  let k := s.cluster u
  s.setCluster u { k with buf := k.buf.del line, au := k.au.del line }

/-- What the caches do on an acquire at a scope (R213): nothing below CLU; at CLU the L1 is emptied; at DEV and SYS
also the cluster's lines and the replicas of the die. Dirty bytes are written back first (R185). -/
def State.acquire (s : State) (c scope : Nat) : State :=
  if scope < 2 then s
  else
    let s := (s.flushL1 c).modCore c fun x => { x with l1 := [] }
    if scope = 2 then s
    else
      let u := clusterOf c
      let s := s.flushBuf u
      let s := s.setCluster u { s.cluster u with buf := [], au := [] }
      s.setDie (dieOf c) { s.die (dieOf c) with reps := [] }

/-- What the caches do on a release at a scope (R204, R205): from CLU on the L1 is written back, from DEV on the
cluster's lines too. -/
def State.release (s : State) (c scope : Nat) : State :=
  if scope < 2 then s
  else
    let s := s.flushL1 c
    if scope = 2 then s else s.flushBuf (clusterOf c)

/-- The promotion of an RCORE acquire (R217): every core that runs the context writes back to the homes. -/
def State.promote (s : State) (ctx : Nat) : State :=
  (List.range 128).foldl (fun s c =>
    if (s.core c).ctx = some ctx ∧ !(s.core c).wgs.isEmpty then (s.flushL1 c).flushBuf (clusterOf c) else s) s

/-- Order codes of R58: 0 RLX, 1 ACQ, 2 REL, 3 AR. Scope 5 is RCORE. -/
def acquires (ord : Nat) : Bool := ord = 1 ∨ ord = 3
def releases (ord : Nat) : Bool := ord = 2 ∨ ord = 3

/-- The place that an ordering scope reaches: RCORE acts at DEV (R217). -/
def reach (scope : Nat) : Nat := if scope = 5 then 3 else scope

/-- The actions before an ordered access, and after it (R204, R206, R217). -/
def State.before (s : State) (c ord scope : Nat) : State :=
  let s := if releases ord then s.release c (reach scope) else s
  if scope = 5 then s.promote (s.ctxOf c) else s
def State.after (s : State) (c ord scope : Nat) : State :=
  if acquires ord then s.acquire c (reach scope) else s

/-- Whether L1 or the cluster holds the whole line for the context, so that the memory side is not asked (R186). -/
def State.hit (s : State) (c ctx line : Nat) : Bool :=
  (ownLine (s.core c).l1 ctx line).isSome || ((s.cluster (clusterOf c)).line? ctx line).any CLine.whole

/-- Whether a die may read a line through a replica (R191): it is homed on another die, and not in a vault. -/
def replicated (d line : Nat) : Bool :=
  decide (iaClass (line * 128) ≠ 7) && (homeOf (line * 128)).any fun h => h.1 != d

/-- A line as the memory side gives it to a context: at its home, with the replica of another device's page (R403). -/
def State.homeLine (s : State) (ctx line : Nat) : CLine :=
  CLine.fill ctx (fun i => s.homeByte (line * 128 + i)) (s.lineBad (s.home (line * 128) / 128))

/-- The line as a die's readers get it: a replica may serve a plain load or an LDO, where its owner is the context (R186,
R191). -/
def State.dieLine (s : State) (d ctx line : Nat) (rep : Bool) : CLine :=
  if rep && replicated d line then ((ownLine (s.die d).reps ctx line).getD (s.homeLine ctx line)) else s.homeLine ctx line

/-- A read leaves the cluster for a line: a die's replica serves it, or is filled from the home with the home line's owner
(R186, R191) where the line's slice on the die has cache ways (R189); else the home is asked. -/
def State.fetchLine (s : State) (d ctx line : Nat) (rep : Bool) : State :=
  if rep && replicated d line && (ownLine (s.die d).reps ctx line).isSome then s
  else
    let s := s.fetchHome ctx (s.home (line * 128) / 128)
    if rep && replicated d line && ((s.die d).reps.find? line).isNone && (s.die d).vaultSteps != 8 then
      let own := ((s.wayOf (line * 128)).map WLine.own).getD ctx
      s.setDie d { s.die d with reps := (s.die d).reps.put line { s.homeLine ctx line with own } }
    else s

/-- Brings a line into a cluster: its missing bytes are fetched (R184, R189). Past another owner's line nothing is held. -/
def State.fillBuf (s : State) (u ctx line : Nat) (rep : Bool) : State :=
  let k := s.cluster u
  if k.foreign ctx line || (k.line? ctx line).any CLine.whole then s
  else
    let s := s.fetchLine (u / 8) ctx line rep
    let l := s.dieLine (u / 8) ctx line rep
    s.putLine u line (match k.line? ctx line with | some m => m.over l | none => l)

/-- The line as a cluster gives it to a context (R184, R186). -/
def State.cluLine (s : State) (u ctx line : Nat) (rep : Bool) : CLine :=
  let l := s.dieLine (u / 8) ctx line rep
  match (s.cluster u).line? ctx line with
  | some m => m.over l
  | none => l

/-- Brings a line into L1 (R189, R434), whose owner is the context; another owner's line there leaves, written back (R186). -/
def State.fillL1 (s : State) (c ctx line : Nat) (rep : Bool) : State :=
  if (ownLine (s.core c).l1 ctx line).isSome then s
  else
    let s := s.flushL1Line c line
    let u := clusterOf c
    let s := if (s.cluster u).foreign ctx line then s.fetchLine (u / 8) ctx line rep else s.fillBuf u ctx line rep
    let l := s.cluLine u ctx line rep
    s.modCore c fun x => { x with l1 := x.l1.put line { l with own := ctx, dirty := 0 } }

/-- The line as a core reads it at WAVE or CORE scope: in its L1, else as its cluster gives it. -/
def State.coreLine (s : State) (c ctx line : Nat) (rep : Bool) : CLine :=
  (ownLine (s.core c).l1 ctx line).getD (s.cluLine (clusterOf c) ctx line rep)

/-- The addressed bytes of a value. -/
def bytesAt (a n v : Nat) : Bytes := (List.range n).zip (leBytes v n) |>.map fun p => (a + p.1, p.2)

/-- `n` bytes at an address as a read that reaches memory finds them. -/
def State.homeRead (s : State) (ia n : Nat) : Nat := leNat ((List.range n).map fun i => s.homeByte (ia + i))

/-- A read at a scope (R189, R205, R213, R229, R232): WAVE and CORE in L1, CLU in the cluster, wider at the home. Stream reads
and loads may be served from a replica (R191). -/
def State.memRead (s : State) (c ctx scope ia n : Nat) : State × Nat :=
  let line := ia / 128
  if scope < 2 then
    let s := s.fillL1 c ctx line true
    (s, (s.coreLine c ctx line true).read (ia % 128) n)
  else if scope = 2 then
    let s := (s.flushL1Line c line).fillBuf (clusterOf c) ctx line true
    (s, (s.cluLine (clusterOf c) ctx line true).read (ia % 128) n)
  else
    let s := s.flushLine c line
    (s, s.homeRead ia n)

/-- Whether a read at a scope, of `n` bytes of a line, finds uncorrectable bytes: at the place that `memRead` reads (R440), or
a read-modify-write, which no replica serves. -/
def State.readBad (s : State) (c ctx scope ia n : Nat) (rep : Bool) : Bool :=
  let line := ia / 128
  if scope < 2 then (s.coreLine c ctx line rep).badAt (ia % 128) n
  else if scope = 2 then ((s.flushL1Line c line).cluLine (clusterOf c) ctx line rep).badAt (ia % 128) n
  else (s.flushLine c line).memBad (s.home ia) n

/-- A copy of a line in L1, and one in the cluster, kept up to date by a write that goes through (R205). -/
def State.updateL1 (s : State) (c ctx line : Nat) (bs : Bytes) : State :=
  match ownLine (s.core c).l1 ctx line with
  | some l => s.modCore c fun x => { x with l1 := x.l1.put line (l.update bs) }
  | none => s
def State.updateBuf (s : State) (u ctx line : Nat) (bs : Bytes) : State :=
  match (s.cluster u).line? ctx line with
  | some l => s.putLine u line (l.update bs)
  | none => s

/-- A write at a scope (R205, R230, R233), without the packets of a write that goes through to the home (`homeOut`): WAVE and
CORE into L1; CLU through to the cluster; DEV through to the home, updating the copies on the way; SYS through to the home,
discarding them. -/
def State.memPut (s : State) (c ctx scope ia n v : Nat) : State :=
  let line := ia / 128
  let bs := bytesAt (ia % 128) n v
  let u := clusterOf c
  if scope < 2 then
    let s := s.fillL1 c ctx line false
    match ownLine (s.core c).l1 ctx line with
    | some l => s.modCore c fun x => { x with l1 := x.l1.put line (l.write bs) }
    | none => s
  else if scope = 2 then
    let s := (s.flushL1Line c line).fillBuf u ctx line false
    let s := s.updateL1 c ctx line bs
    match (s.cluster u).line? ctx line with
    | some l => s.putLine u line (l.write bs)
    | none => s.homePut (bytesAt (s.home ia) n v) []
  else
    let s := ((s.flushLine c line).dropReplica (dieOf c) line).homePut (bytesAt (s.home ia) n v) []
    if scope = 3 then (s.updateL1 c ctx line bs).updateBuf u ctx line bs
    else (s.dropL1Line c line).dropBufLine u line

/-- What leaves for the home after writes that go through (R188, R189, R473): for each line written, its sequence tag, once
for each write of it, and its packets. `ws` holds the home address, the extent and the value of each write. -/
def State.sendWrites (s : State) (ctx : Nat) (ws : List (Nat × Nat × Nat)) (each : Bool) : State :=
  ((ws.map fun w => w.1 / 128).eraseDups).foldl (fun (s : State) line =>
    let mine := ws.filter fun w => w.1 / 128 == line
    let s := Nat.repeat (fun s => State.bumpSeq s (line * 128)) (if each then mine.length else 1) s
    s.homeOut ctx line (mine.flatMap fun w => bytesAt w.1 w.2.1 w.2.2) []) s

/-- The scope whose place does a read-modify-write (R218): the cluster unit for WAVE to CLU of classes 0 to 4 and 7, else the
home. -/
def rmwScope (scope ia : Nat) : Nat := if scope < 3 && (iaClass ia != 5 && iaClass ia != 6) then 2 else max scope 3

/-- The atomic unit of a cluster takes a line (R218): the buffer's copy moves there, and missing bytes come from the home; another
owner's line in the cluster leaves, written back (R186). -/
def State.fillAu (s : State) (u ctx line : Nat) : State :=
  if (ownLine (s.cluster u).au ctx line).any CLine.whole then s
  else
    let s := (if (s.cluster u).foreign ctx line then s.flushBufLine u line else s).fetchHome ctx line
    let l := s.cluLine u ctx line false
    let k := s.cluster u
    s.setCluster u { k with au := k.au.put line l, buf := k.buf.del line }

/-- A read-modify-write at the place of R218, `f` giving the new value; the old value is answered. It bypasses L1 and the
cluster buffer (R185): the core's dirty bytes of the line go down first, and its copies are gone. -/
def State.memRmw (s : State) (c ctx scope ia n : Nat) (f : Nat → Nat) : State × Nat :=
  let line := ia / 128
  let u := clusterOf c
  if rmwScope scope ia = 2 then
    let s := ((s.flushL1Line c line).dropL1Line c line).fillAu u ctx line
    match ownLine (s.cluster u).au ctx line with
    | some l =>
      let old := l.read (ia % 128) n
      (s.putLine u line (l.write (bytesAt (ia % 128) n (f old))), old)
    | none => (s, 0)
  else
    let s := (((s.flushLine c line).dropL1Line c line).dropBufLine u line).dropReplica (dieOf c) line
    let old := s.homeRead ia n
    (s.homePut (bytesAt (s.home ia) n (f old)) [], old)

/-- One write of an engine of a core at a scope, with its packets. -/
def State.memWrite (s : State) (c ctx scope ia n v : Nat) : State :=
  let t := s.memPut c ctx scope ia n v
  if scope < 3 then t else t.sendWrites ctx [(s.home ia, n, v)] false

/-- A read by an engine or the launch processor, in the context, of `n` bytes at a virtual address: none where it is
not mapped with R rights or the memory side refuses it; the flag says the data are uncorrectable. Engines read at
the home, behind the write-back of the buffers a SYS acquire implies (log 1). -/
def State.sysRead (s : State) (ctx : Nat) (va : W64) (n : Nat) : Option (List Byte × Bool) :=
  let bs := (List.range n).map fun i =>
    match (s.ctx ctx).translate .r (va + BitVec.ofNat 64 i) with
    | some ia => if (s.nak ctx ia false).isNone then some (s.homeByte ia, s.memBad (s.home ia) 1) else none
    | none => none
  if bs.all Option.isSome then some (bs.filterMap (Option.map Prod.fst), bs.any fun b => (b.map Prod.snd).getD false)
  else none

/-- Every cluster of the device writes a line back and gives it up, and every die its replica. -/
def State.giveUp (s : State) (line : Nat) : State :=
  let s := (List.range 32).foldl (fun (s : State) u => (s.flushBufLine u line).dropBufLine u line) s
  (List.range 4).foldl (fun (s : State) d => s.dropReplica d line) s

/-- A write by an engine at the home, in the context; none where it may not (R270). The clusters and the dies give their
copies up before (log 1). -/
def State.sysWrite (s : State) (ctx : Nat) (va : W64) (bs : List Byte) : Option State :=
  let as := (List.range bs.length).map fun i => (s.ctx ctx).translate .w (va + BitVec.ofNat 64 i)
  if as.all fun a => match a with | some ia => (s.nak ctx ia true).isNone | none => false then
    let prs : Bytes := (as.filterMap id).zip bs
    let lines := (prs.map fun p => p.1 / 128).eraseDups
    some (lines.foldl (fun (s : State) l => (s.giveUp l).homeWrite ctx (s.home (l * 128) / 128)
      ((prs.filter fun p => p.1 / 128 == l).map fun p => (s.home p.1, p.2))) s)
  else none

/-- Every cache of the device writes back, then invalidates, the lines of a range of home addresses (R402, step 1). -/
def State.purge (s : State) (lo n : Nat) : State :=
  let mine := fun (l : Nat) => let h := s.home (l * 128); decide (lo / 128 ≤ h / 128 ∧ h / 128 * 128 < lo + n)
  let s := s.cores.foldl (fun (s : State) x =>
    (x.2.l1.keys.filter mine).foldl (fun (s : State) l => (s.flushL1Line x.1 l).dropL1Line x.1 l) s) s
  let s := s.clusters.foldl (fun (s : State) x =>
    ((x.2.buf.keys ++ x.2.au.keys).filter mine).foldl (fun (s : State) l => (s.flushBufLine x.1 l).dropBufLine x.1 l) s) s
  (List.range 4).foldl (fun (s : State) d =>
    let s := ((s.die d).reps.keys.filter mine).foldl (fun (s : State) l => s.dropReplica d l) s
    ((s.die d).ways.keys.filter mine).foldl (fun (s : State) l => s.dropWay l) s) s

/-- A range at its home is overwritten with zeros, in every ECC word (R199, R402). -/
def State.blank (s : State) (lo n : Nat) : State :=
  let out := fun (w : Nat) => decide (w * 32 < lo ∨ lo + n ≤ w * 32)
  { s with mem := s.mem.clear lo n, dram := s.dram.clear lo n, bad := s.bad.filter out, dramBad := s.dramBad.filter out }

/-- A range is overwritten with zeros, after the caches have given up its lines (R402, steps 1 and 2). -/
def State.wipe (s : State) (lo n : Nat) : State :=
  let s := (s.purge lo n).blank lo n
  let out := fun (a : Nat) => decide (a < lo ∨ lo + n ≤ a)
  let s := (List.range 4).foldl (fun (s : State) d =>
    let x := s.die d
    if x.reqs.isEmpty then s else s.setDie d { x with reqs := x.reqs.filter fun r => out r.ia }) s
  { s with heldWb := s.heldWb.filter fun w => out (w.line * 128) }

/-- The first byte of a granule of a die's vault (R401). -/
def granuleAt (d g : Nat) : Nat := 7 * 2 ^ 53 + d * 2 ^ 51 + g * 65536

/-- A granule passes to a context or back to free (R402). -/
def State.passGranule (s : State) (d g : Nat) (own : Option Nat) : State :=
  let s := s.wipe (granuleAt d g) 65536
  let x := s.die d
  s.setDie d { x with vaultOwn := match own with | some c => x.vaultOwn.put g c | none => x.vaultOwn.del g }

/-- Uncorrectable words are met, one event for each, the first of the list first. -/
def State.metAll (s : State) (ctx : Nat) (ws : List Nat) : State := ws.foldr (fun w (s : State) => s.metBad ctx (w * 32)) s

/-- The uncorrectable words of a range of the context. -/
def State.badIn (s : State) (ctx : Nat) (va : W64) (n : Nat) : List Nat :=
  (List.range n).filterMap fun i =>
    match (s.ctx ctx).translate .r (va + BitVec.ofNat 64 i) with
    | some ia => if s.memBad (s.home ia) 1 then some (s.home ia / 32) else none
    | none => none

/-- The uncorrectable words of a range of the context are met. -/
def State.metRange (s : State) (ctx : Nat) (va : W64) (n : Nat) : State := s.metAll ctx (s.badIn ctx va n).eraseDups

/-- The uncorrectable words of a range of home addresses are met. -/
def State.metWords (s : State) (ctx a n : Nat) : State := s.metAll ctx ((eccWords a n).filter fun w => s.bad.contains w)

/-- What an access of a core's agent meets, in its pool or in memory, in all its lanes: each line or ECC word once. -/
def State.metMany (s : State) (c : Nat) (vas : List W64) (n : Nat) : State :=
  let inPool := fun (va : W64) => va.toNat / 2 ^ 56 == 0xFE
  let lines := ((vas.filter inPool).map fun va => va.toNat % 2 ^ 23 / 128).eraseDups
  let words := ((vas.filter fun va => !(inPool va)).flatMap fun va => s.badIn (s.ctxOf c) va n).eraseDups
  lines.foldr (fun l (s : State) => s.metPool c (l * 128)) (s.metAll (s.ctxOf c) words)

/-- The same for one lane. -/
def State.metAt (s : State) (c : Nat) (va : W64) (n : Nat) : State := s.metMany c [va] n

-- Controllers' writes that may wait for the pager (R315, R391, R436) -----------------------------------------------------------

/-- The codes of a NAK that the pager may resolve (R436). -/
def resolvable (code : BitVec 8) : Bool := code == 0x01 || code == 0x04

/-- A write waits for the pager: the memory side answers it with a NAK that the pager may resolve (R436). -/
def State.late (s : State) (ctx : Nat) (nd : Need) (va : W64) : Bool :=
  ((s.ctx ctx).translate nd va).any fun ia => (s.nak ctx ia true).any resolvable

/-- A write that meets a read-duplicated page starts its collapse (R404). -/
def State.collapseAt (s : State) (ia : Nat) : State :=
  let p := s.home ia / 65536
  if (s.pages.find? p).any fun g => g.policy == 1 then s.due (.collapse p) else s

/-- A signal's decrement by 1 with a status under the first-error rule (R390), in one step at its SYS place (R391); where
the page refuses it, nothing. -/
def State.signalNow (s : State) (ctx : Nat) (va : W64) (status : Nat) : State :=
  match (s.ctx ctx).translate .rw va with
  | some ia =>
    if (s.nak ctx ia true).isSome then s
    else
      let a := s.home ia
      let v := s.mem.readLE a 8
      let st := s.mem.readLE (a + 8) 8
      let st' := if st = 0 ∧ status ≠ 0 then status else st
      s.homeWrite ctx (a / 128) (bytesAt a 8 ((v + (2 ^ 64 - 1)) % 2 ^ 64) ++ bytesAt (a + 8) 8 st')
  | none => s

/-- A controller's writes wait (R436). -/
def State.holdSys (s : State) (h : HeldSys) : State :=
  let asks := fun (s : State) (nd : Need) (va : W64) =>
    match (s.ctx h.ctx).translate nd va with
    | some ia => s.collapseAt ia
    | none => s
  let s := { s with heldSys := s.heldSys ++ [h] }
  let s := h.pieces.foldl (fun (s : State) p => asks s .w p.1) s
  if h.pieces.isEmpty then h.sigs.foldl (fun (s : State) g => asks s .rw g.1) s else s

/-- A controller's writes: the parts of the status block whose pages do not wait are written, but for those refused; when none waits
any more, the signals follow, each waiting for its own page (R315, R391, R436). -/
def State.sysSend (s : State) (h : HeldSys) : State :=
  let rest := h.pieces.filter fun p => s.late h.ctx .w p.1
  let s := (h.pieces.filter fun p => !(s.late h.ctx .w p.1)).foldl (fun (s : State) p => (s.sysWrite h.ctx p.1 p.2).getD s) s
  if !rest.isEmpty then s.holdSys { h with pieces := rest }
  else h.sigs.foldl (fun (s : State) g =>
    if s.late h.ctx .rw g.1 then s.holdSys { ctx := h.ctx, pieces := [], sigs := [g] } else s.signalNow h.ctx g.1 g.2) s

/-- The pager has answered: what waited is tried again, but for what waited for a page that it has refused (R436). -/
def State.sysResend (s : State) (gone : Option Nat) : State :=
  let stays := fun (ctx : Nat) (nd : Need) (va : W64) =>
    !(gone.any fun p => ((s.ctx ctx).translate nd va).any fun ia => s.home ia / 65536 == p)
  s.heldSys.foldl (fun (s : State) h =>
    if h.pieces.isEmpty then s.sysSend { h with sigs := h.sigs.filter fun g => stays h.ctx .rw g.1 }
    else s.sysSend { h with pieces := h.pieces.filter fun p => stays h.ctx .w p.1 }) { s with heldSys := [] }

/-- Bytes cut at the pages. -/
def pageCut (va : W64) (bs : List Byte) : List (W64 × List Byte) :=
  let o := va.toNat % 65536
  (List.range ((o + bs.length + 65535) / 65536)).map fun i =>
    let lo := i * 65536 - o
    (va + BitVec.ofNat 64 lo, (bs.drop lo).take ((i + 1) * 65536 - o - lo))

/-- A signal's decrement by a controller (R390, R391). -/
def State.signalDec (s : State) (ctx : Nat) (va : W64) (status : Nat) : State :=
  s.sysSend { ctx, pieces := [], sigs := [(va, status)] }

/-- The same for a field in which address 0 names no signal (R312, R344, R374). -/
def State.signalNamed (s : State) (ctx : Nat) (va : W64) (status : Nat) : State :=
  if va = 0 then s else s.signalDec ctx va status

end Sys2Proof.Machine
end

