-- ==== Sys2Proof/Machine/Num.lean ====
section
/-! DEFINITION. Number formats, Round and the exact arithmetic under it (03_formats, R75 to R101; R120, R123, R129).
A number is an exact dyadic value. Where an exact result is not dyadic (a quotient, a root, a function), it is
replaced by a dyadic value that lies strictly between the same two neighbours on a grid many bits finer than any
format's, so that every rounding mode gives the result of the exact value. -/

namespace Sys2Proof.Machine

/-- A decoded operand or an exact result: a NaN, an infinity, or the value (−1)^neg × m × 2^e. -/
inductive Val where
  | nan
  | inf (neg : Bool)
  | fin (neg : Bool) (m : Nat) (e : Int)
  deriving DecidableEq, Repr

/-- The stored floating-point formats (R75). -/
inductive Fmt where
  | f64 | f32 | f16 | bf16 | e4m3 | e5m2 | e3m2 | e2m3 | e2m1 | e8m0
  deriving DecidableEq, Repr

/-- Fraction bits (R75). -/
def Fmt.frac : Fmt → Nat
  | .f64 => 52 | .f32 => 23 | .f16 => 10 | .bf16 => 7 | .e4m3 => 3 | .e5m2 => 2
  | .e3m2 => 2 | .e2m3 => 3 | .e2m1 => 1 | .e8m0 => 0

/-- Exponent bits (R75). -/
def Fmt.exp : Fmt → Nat
  | .f64 => 11 | .f32 => 8 | .f16 => 5 | .bf16 => 8 | .e4m3 => 4 | .e5m2 => 5
  | .e3m2 => 3 | .e2m3 => 2 | .e2m1 => 2 | .e8m0 => 8

/-- Exponent bias (R75). -/
def Fmt.bias : Fmt → Nat
  | .f64 => 1023 | .f32 => 127 | .f16 => 15 | .bf16 => 127 | .e4m3 => 7 | .e5m2 => 15
  | .e3m2 => 3 | .e2m3 => 1 | .e2m1 => 1 | .e8m0 => 127

/-- Bits of a code (R75). -/
def Fmt.width : Fmt → Nat
  | .f64 => 64 | .f32 => 32 | .f16 => 16 | .bf16 => 16 | .e4m3 => 8 | .e5m2 => 8
  | .e3m2 => 6 | .e2m3 => 6 | .e2m1 => 4 | .e8m0 => 8

/-- Exponent field of all ones marks infinities and NaNs (R75). -/
def Fmt.ieee : Fmt → Bool
  | .f64 | .f32 | .f16 | .bf16 | .e5m2 => true
  | _ => false

/-- The magnitude code of the largest finite value (R75). -/
def Fmt.maxMag (f : Fmt) : Nat :=
  match f with
  | .e4m3 => 0x7E
  | .e3m2 | .e2m3 | .e2m1 => 2 ^ (f.exp + f.frac) - 1
  | .e8m0 => 0xFE
  | _ => (2 ^ f.exp - 1) * 2 ^ f.frac - 1

/-- The canonical NaN (R78); for a format without NaN, the +0 that R92 gives for a NaN. -/
def Fmt.nanCode : Fmt → Nat
  | .f64 => 0x7FF8000000000000 | .f32 => 0x7FC00000 | .f16 => 0x7E00 | .bf16 => 0x7FC0
  | .e4m3 => 0x7F | .e5m2 => 0x7F | .e8m0 => 0xFF
  | .e3m2 | .e2m3 | .e2m1 => 0

/-- The magnitude code of infinity, for the formats that have one (R75). -/
def Fmt.infMag (f : Fmt) : Nat := (2 ^ f.exp - 1) * 2 ^ f.frac

/-- The value of a code (R75, R76). -/
def Fmt.decode (f : Fmt) (c : Nat) : Val :=
  match f with
  | .e8m0 => if c % 256 = 255 then .nan else .fin false 1 ((c % 256 : Nat) - 127)
  | _ =>
    let mag := c % 2 ^ (f.exp + f.frac)
    let neg := decide (c / 2 ^ (f.exp + f.frac) % 2 = 1)
    let e := mag / 2 ^ f.frac
    let m := mag % 2 ^ f.frac
    if f.ieee && e == 2 ^ f.exp - 1 then (if m = 0 then .inf neg else .nan)
    else if f = .e4m3 ∧ mag = 0x7F then .nan
    else if e = 0 then .fin neg m (1 - (f.bias : Int) - f.frac)
    else .fin neg (2 ^ f.frac + m) ((e : Int) - f.bias - f.frac)

/-- The exception flags, in the layout of R98: [4] invalid, [3] divide by zero, [2] overflow, [1] underflow,
[0] inexact. -/
abbrev FFlags := BitVec 5

def FFlags.invalid : FFlags := 0b10000#5
def FFlags.divZero : FFlags := 0b01000#5
def FFlags.overflow : FFlags := 0b00100#5
def FFlags.underflow : FFlags := 0b00010#5
def FFlags.inexact : FFlags := 0b00001#5

/-- A rounding mode (R89); SR carries the 32-bit draw of R94. -/
inductive RMode where
  | rne | rz | rd | ru
  | sr (r : BitVec 32)
  deriving DecidableEq, Repr

/-- The rounding mode of a two-bit field: 0 RNE, 1 RZ, 2 RD, 3 RU (R32, R67). -/
def RMode.ofBits (b : BitVec 2) : RMode :=
  if b = 0#2 then .rne else if b = 1#2 then .rz else if b = 2#2 then .rd else .ru

/-- Bits of a natural number: 0 for 0. -/
def bitLen (n : Nat) : Nat := if n = 0 then 0 else Nat.log2 n + 1

/-- The code of a sign and a magnitude code. -/
def Fmt.pack (f : Fmt) (neg : Bool) (mag : Nat) : Nat := if neg then 2 ^ (f.exp + f.frac) + mag else mag

/-- Whether the magnitude `q + rem / 2 ^ k` (in units of the grid) rounds up in absolute value (R89, R94). -/
def roundsUp (mode : RMode) (neg odd : Bool) (rem k : Nat) : Bool :=
  match mode with
  | .rne => decide (2 ^ k < 2 * rem) || (decide (2 * rem = 2 ^ k) && odd)
  | .rz => false
  | .rd => neg && decide (rem ≠ 0)
  | .ru => !neg && decide (rem ≠ 0)
  | .sr r => decide (2 ^ 32 ≤ rem * 2 ^ 32 / 2 ^ k + r.toNat)

/-- The overflow result (R91). -/
def Fmt.overflowCode (f : Fmt) (mode : RMode) (sat neg : Bool) : Nat :=
  match f with
  | .e4m3 => if sat then f.pack neg 0x7E else 0x7F
  | .e5m2 => if sat then f.pack neg 0x7B else f.pack neg 0x7C
  | .e3m2 | .e2m3 | .e2m1 => f.pack neg f.maxMag
  | .e8m0 => if sat then 0xFE else 0xFF
  | _ =>
    if sat then f.pack neg f.maxMag
    else match mode with
      | .rne | .sr _ => f.pack neg f.infMag
      | .rz => f.pack neg f.maxMag
      | .rd => if neg then f.pack true f.infMag else f.pack false f.maxMag
      | .ru => if neg then f.pack true f.maxMag else f.pack false f.infMag

/-- The exponent of the lowest grid spacing: that of the subnormals. -/
def Fmt.gridMin (f : Fmt) : Int := 1 - (f.bias : Int) - f.frac

/-- Step 4 of R89 on a finite non-zero value, for every format but E8M0. -/
def Fmt.roundFin (f : Fmt) (mode : RMode) (sat neg : Bool) (m : Nat) (e : Int) : Nat × FFlags :=
  let top : Int := (Nat.log2 m : Int) + e
  let g : Int := max (top - f.frac) f.gridMin
  let k := (g - e).toNat
  let q := if e ≤ g then m / 2 ^ k else m * 2 ^ (e - g).toNat
  let rem := if e ≤ g then m % 2 ^ k else 0
  let q' := if roundsUp mode neg (q % 2 == 1) rem k then q + 1 else q
  let mag := (g - f.gridMin).toNat * 2 ^ f.frac + q'
  let inex : FFlags := if rem = 0 then 0 else FFlags.inexact
  if f.maxMag < mag then (f.overflowCode mode sat neg, FFlags.overflow ||| FFlags.inexact)
  else (f.pack neg mag, inex ||| (if rem ≠ 0 ∧ mag < 2 ^ f.frac then FFlags.underflow else 0))

/-- Round to E8M0 of a finite value (R93). -/
def roundE8m0 (mode : RMode) (sat neg : Bool) (m : Nat) (e : Int) : Nat × FFlags :=
  if m = 0 ∨ neg then (0xFF, FFlags.invalid ||| FFlags.inexact)
  else
    let top : Int := (Nat.log2 m : Int) + e
    if top < -127 then (0, FFlags.underflow ||| FFlags.inexact)
    else
      let k := Nat.log2 m
      let rem := m % 2 ^ k
      let code := (top + 127).toNat
      let code' := if roundsUp mode false (code % 2 == 1) rem k then code + 1 else code
      if 0xFE < code' then (Fmt.overflowCode .e8m0 mode sat false, FFlags.overflow ||| FFlags.inexact)
      else (code', if rem = 0 then 0 else FFlags.inexact)

/-- An infinity passed to a format (R89 step 2, R92). -/
def Fmt.roundInf (f : Fmt) (sat neg : Bool) : Nat × FFlags :=
  match f with
  | .e4m3 => (if sat then f.pack neg 0x7E else 0x7F, FFlags.invalid)
  | .e3m2 | .e2m3 | .e2m1 => (f.pack neg f.maxMag, FFlags.invalid)
  | .e8m0 => (if sat && !neg then 0xFE else 0xFF, FFlags.invalid)
  | _ => (f.pack neg f.infMag, 0)

/-- A NaN passed to a format (R78, R92). -/
def Fmt.roundNan (f : Fmt) : Nat × FFlags :=
  match f with
  | .e3m2 | .e2m3 | .e2m1 => (f.nanCode, FFlags.invalid)
  | _ => (f.nanCode, 0)

/-- Round(x, mode, fmt) of R89, with the flags of R90 and the saturation request of R91. -/
def Fmt.round (f : Fmt) (mode : RMode) (sat : Bool) (x : Val) : Nat × FFlags :=
  match x with
  | .nan => f.roundNan
  | .inf neg => f.roundInf sat neg
  | .fin neg m e =>
    if f = .e8m0 then roundE8m0 mode sat neg m e
    else if m = 0 then (f.pack neg 0, 0)
    else f.roundFin mode sat neg m e

/-- Widening to FP32 and FP64, which is exact and raises no flag (R95). -/
def Fmt.widen (src dst : Fmt) (c : Nat) : Nat := (dst.round .rne false (src.decode c)).1

-- The generator ----------------------------------------------------------------------------------------------

/-- One round of the generator (R96). -/
def ckgRound (k0 k1 : W32) (i rot : Nat) (x : W32 × W32) : W32 × W32 :=
  let k := if i % 2 = 0 then k0 else k1
  let x0 := x.1 + x.2 + (k + BitVec.ofNat 32 (i * 0x9E3779B9))
  (x0, (x.2.rotateLeft rot) ^^^ x0)

/-- CKG(k, x0, x1), the coordinate-keyed generator (R96). -/
def ckg (key : W64) (x0 x1 : W32) : W32 :=
  let k0 := key.extractLsb' 0 32
  let k1 := key.extractLsb' 32 32
  let x := ckgRound k0 k1 0 13 (x0, x1)
  let x := ckgRound k0 k1 1 17 x
  let x := ckgRound k0 k1 2 5 x
  let x := ckgRound k0 k1 3 24 x
  let x := ckgRound k0 k1 4 11 x
  let x := ckgRound k0 k1 5 19 x
  x.1 ^^^ x.2

-- Exact arithmetic -------------------------------------------------------------------------------------------

/-- The magnitude of a finite value as an integer in units of 2^e, with its sign. -/
def signedMant (neg : Bool) (m : Nat) : Int := if neg then -(m : Int) else m

/-- An exact value from a signed integer; a zero takes the sign given. -/
def Val.ofInt (n : Int) (e : Int) (zeroNeg : Bool) : Val :=
  if n = 0 then .fin zeroNeg 0 0 else .fin (decide (n < 0)) n.natAbs e

/-- The sign of an exact zero sum (R120): that of both when they agree, else + but for RD. -/
def zeroSumNeg (mode : RMode) (n1 n2 : Bool) : Bool :=
  if n1 = n2 then n1 else decide (mode = .rd)

/-- The sign of the zero that non-zero operands cancel to (R120). -/
def cancelNeg (mode : RMode) : Bool := decide (mode = .rd)

/-- Exact sum of two finite values. -/
def addFin (mode : RMode) (n1 : Bool) (m1 : Nat) (e1 : Int) (n2 : Bool) (m2 : Nat) (e2 : Int) : Val :=
  if m1 = 0 ∧ m2 = 0 then .fin (zeroSumNeg mode n1 n2) 0 0
  else if m1 = 0 then .fin n2 m2 e2
  else if m2 = 0 then .fin n1 m1 e1
  else
    let e := min e1 e2
    let a := signedMant n1 (m1 * 2 ^ (e1 - e).toNat)
    let b := signedMant n2 (m2 * 2 ^ (e2 - e).toNat)
    Val.ofInt (a + b) e (cancelNeg mode)

/-- Exact sum, with the invalid flag of +inf added to −inf (R120). -/
def Val.add (mode : RMode) (x y : Val) : Val × FFlags :=
  match x, y with
  | .nan, _ => (.nan, 0)
  | _, .nan => (.nan, 0)
  | .inf a, .inf b => if a = b then (.inf a, 0) else (.nan, FFlags.invalid)
  | .inf a, .fin .. => (.inf a, 0)
  | .fin .., .inf b => (.inf b, 0)
  | .fin n1 m1 e1, .fin n2 m2 e2 => (addFin mode n1 m1 e1 n2 m2 e2, 0)

/-- The value with its sign inverted; a NaN stays one. -/
def Val.neg : Val → Val
  | .nan => .nan
  | .inf n => .inf (!n)
  | .fin n m e => .fin (!n) m e

/-- Exact product, with the invalid flag of an infinity times a zero (R120). -/
def Val.mul (x y : Val) : Val × FFlags :=
  match x, y with
  | .nan, _ => (.nan, 0)
  | _, .nan => (.nan, 0)
  | .inf a, .inf b => (.inf (a != b), 0)
  | .inf a, .fin b m _ => if m = 0 then (.nan, FFlags.invalid) else (.inf (a != b), 0)
  | .fin a m _, .inf b => if m = 0 then (.nan, FFlags.invalid) else (.inf (a != b), 0)
  | .fin a m e, .fin b n k => (.fin (a != b) (m * n) (e + k), 0)

/-- p + d of R126: the product's invalid flag is raised even when the addend is a NaN. -/
def Val.fma (mode : RMode) (a b : Val) (negP : Bool) (d : Val) : Val × FFlags :=
  let (p, f1) := Val.mul a b
  let p := if negP then p.neg else p
  let (x, f2) := Val.add mode p d
  (x, f1 ||| f2)

/-- A dyadic stand-in for the positive quotient a / b: exact when it is dyadic at this precision, else strictly
between the same neighbours at more than 60 bits. -/
def quotient (a b : Nat) : Nat × Int :=
  let k := 64 + bitLen b
  let q := a * 2 ^ k / b
  if a * 2 ^ k % b = 0 then (q, -(k : Int)) else (2 * q + 1, -(k : Int) - 1)

/-- a / b with the special values of R129. -/
def Val.div (x y : Val) : Val × FFlags :=
  match x, y with
  | .nan, _ => (.nan, 0)
  | _, .nan => (.nan, 0)
  | .inf _, .inf _ => (.nan, FFlags.invalid)
  | .inf a, .fin b _ _ => (.inf (a != b), 0)
  | .fin a _ _, .inf b => (.fin (a != b) 0 0, 0)
  | .fin a m e, .fin b n k =>
    if n = 0 then (if m = 0 then (.nan, FFlags.invalid) else (.inf (a != b), FFlags.divZero))
    else if m = 0 then (.fin (a != b) 0 0, 0)
    else
      let (q, s) := quotient m n
      (.fin (a != b) q (e - k + s), 0)

/-- The integer square root, bit by bit from bit `n − 1` down. -/
def isqrtBits (x : Nat) : Nat → Nat → Nat
  | 0, r => r
  | n + 1, r => isqrtBits x n (if (r + 2 ^ n) * (r + 2 ^ n) ≤ x then r + 2 ^ n else r)

/-- floor(√x). -/
def isqrt (x : Nat) : Nat := isqrtBits x (bitLen x / 2 + 1) 0

/-- A dyadic stand-in for √(m × 2^e), m non-zero. -/
def sqrtFin (m : Nat) (e : Int) : Nat × Int :=
  let m1 := if e % 2 = 0 then m else 2 * m
  let e1 := if e % 2 = 0 then e else e - 1
  let x := m1 * 2 ^ 128
  let r := isqrt x
  if r * r = x then (r, e1 / 2 - 64) else (2 * r + 1, e1 / 2 - 65)

/-- A dyadic stand-in for 1 / √(m × 2^e), m non-zero. -/
def rsqrtFin (m : Nat) (e : Int) : Nat × Int :=
  let m1 := if e % 2 = 0 then m else 2 * m
  let e1 := if e % 2 = 0 then e else e - 1
  let k := bitLen m1 + 64
  let x := 2 ^ (2 * k) / m1
  let r := isqrt x
  if r * r * m1 = 2 ^ (2 * k) then (r, -(e1 / 2) - k) else (2 * r + 1, -(e1 / 2) - k - 1)

-- Comparisons ------------------------------------------------------------------------------------------------

/-- Exact order of two values that are not NaNs, with −0 equal to +0. -/
def Val.lt : Val → Val → Bool
  | .nan, _ => false
  | _, .nan => false
  | .inf a, .inf b => a && !b
  | .inf a, .fin .. => a
  | .fin .., .inf b => !b
  | .fin n1 m1 e1, .fin n2 m2 e2 =>
    let e := min e1 e2
    decide (signedMant n1 (m1 * 2 ^ (e1 - e).toNat) < signedMant n2 (m2 * 2 ^ (e2 - e).toNat))

/-- Numerical equality of two values that are not NaNs (R127). -/
def Val.eq (x y : Val) : Bool :=
  decide (x ≠ .nan) && decide (y ≠ .nan) && !Val.lt x y && !Val.lt y x

/-- Whether a value is a NaN. -/
def Val.isNan : Val → Bool
  | .nan => true
  | _ => false

/-- The sign of a value; a NaN counts as positive. -/
def Val.sign : Val → Bool
  | .nan => false
  | .inf n => n
  | .fin n _ _ => n

/-- `a` comes before `b` in the order of R123, in which −0 lies below +0. -/
def Val.below (x y : Val) : Bool := Val.lt x y || (Val.eq x y && x.sign && !y.sign)

/-- fmin of R123 on codes: a NaN operand is missing. -/
def Fmt.fmin (f : Fmt) (a b : Nat) : Nat :=
  let x := f.decode a
  let y := f.decode b
  if x.isNan then (if y.isNan then f.nanCode else b)
  else if y.isNan then a
  else if y.below x then b else a

/-- fmax of R123 on codes. -/
def Fmt.fmax (f : Fmt) (a b : Nat) : Nat :=
  let x := f.decode a
  let y := f.decode b
  if x.isNan then (if y.isNan then f.nanCode else b)
  else if y.isNan then a
  else if x.below y then b else a

/-- fminm of R123: a NaN propagates. -/
def Fmt.fminm (f : Fmt) (a b : Nat) : Nat :=
  if (f.decode a).isNan || (f.decode b).isNan then f.nanCode else f.fmin a b

/-- fmaxm of R123. -/
def Fmt.fmaxm (f : Fmt) (a b : Nat) : Nat :=
  if (f.decode a).isNan || (f.decode b).isNan then f.nanCode else f.fmax a b

-- Operations on codes ----------------------------------------------------------------------------------------

/-- a + b, rounded (R120, R122). -/
def Fmt.addOp (f : Fmt) (mode : RMode) (a b : Nat) : Nat × FFlags :=
  let (x, fl) := Val.add mode (f.decode a) (f.decode b)
  let (c, fr) := f.round mode false x
  (c, fl ||| fr)

/-- a − b, rounded (R120, R122). -/
def Fmt.subOp (f : Fmt) (mode : RMode) (a b : Nat) : Nat × FFlags :=
  let (x, fl) := Val.add mode (f.decode a) (f.decode b).neg
  let (c, fr) := f.round mode false x
  (c, fl ||| fr)

/-- a × b, rounded (R120, R122). -/
def Fmt.mulOp (f : Fmt) (mode : RMode) (a b : Nat) : Nat × FFlags :=
  let (x, fl) := Val.mul (f.decode a) (f.decode b)
  let (c, fr) := f.round mode false x
  (c, fl ||| fr)

/-- ±(a × b) ± d with one rounding (R126). -/
def Fmt.fmaOp (f : Fmt) (mode : RMode) (negP negD : Bool) (a b d : Nat) : Nat × FFlags :=
  let dv := f.decode d
  let (x, fl) := Val.fma mode (f.decode a) (f.decode b) negP (if negD then dv.neg else dv)
  let (c, fr) := f.round mode false x
  (c, fl ||| fr)

/-- a / b, rounded (R129). -/
def Fmt.divOp (f : Fmt) (mode : RMode) (a b : Nat) : Nat × FFlags :=
  let (x, fl) := Val.div (f.decode a) (f.decode b)
  let (c, fr) := f.round mode false x
  (c, fl ||| fr)

/-- RNE_f32 of the sum of two FP32 codes, with its flags (R5, R138). -/
def addF32rne (a b : Nat) : Nat × FFlags := Fmt.addOp .f32 .rne a b

/-- A value rounded to an integral value under a mode, keeping the sign of zero, with whether it differs (R122, R135). -/
def roundIntegral (mode : RMode) (neg : Bool) (m : Nat) (e : Int) : Nat × Bool :=
  if 0 ≤ e then (m * 2 ^ e.toNat, false)
  else
    let k := (-e).toNat
    let q := m / 2 ^ k
    let rem := m % 2 ^ k
    (if roundsUp mode neg (q % 2 == 1) rem k then q + 1 else q, decide (rem ≠ 0))

/-- ffloor, fceil, ftrunc and frint of an FP32 code (R122): the mode is RD, RU, RZ or sr.frm. -/
def integralF32 (mode : RMode) (c : Nat) : Nat × Bool :=
  match Fmt.decode .f32 c with
  | .nan => (Fmt.nanCode .f32, false)
  | .inf _ => (c, false)
  | .fin neg m e =>
    let (q, ne) := roundIntegral mode neg m e
    (((Fmt.round .f32 .rne false (.fin neg q 0)).1), ne)

/-- Conversion to an integer of `w` bits (R135). -/
def toInteger (signed : Bool) (w : Nat) (mode : RMode) (x : Val) : Nat × FFlags :=
  let top : Int := if signed then 2 ^ (w - 1) - 1 else 2 ^ w - 1
  let bot : Int := if signed then -(2 ^ (w - 1) : Int) else 0
  let enc := fun (n : Int) => (n % (2 ^ w : Int)).toNat
  match x with
  | .nan => (0, FFlags.invalid)
  | .inf neg => (enc (if neg then bot else top), FFlags.invalid)
  | .fin neg m e =>
    let (q, ne) := roundIntegral mode neg m e
    let n := signedMant neg q
    if top < n then (enc top, FFlags.invalid)
    else if n < bot then (enc bot, FFlags.invalid)
    else (enc n, if ne then FFlags.inexact else 0)

/-- The exact value of a two's-complement integer of `w` bits, or of an unsigned one. -/
def intVal (signed : Bool) (w c : Nat) : Val :=
  let c := c % 2 ^ w
  if signed && decide (2 ^ (w - 1) ≤ c) then .fin true (2 ^ w - c) 0 else .fin false c 0

/-- The class mask of an FP32 code (R124). -/
def fclassF32 (c : Nat) : Nat :=
  match Fmt.decode .f32 c with
  | .nan => 256
  | .inf true => 1
  | .inf false => 128
  | .fin neg m _ =>
    let mag := c % 2 ^ 31
    if m = 0 then (if neg then 8 else 16)
    else if mag < 2 ^ 23 then (if neg then 4 else 32)
    else (if neg then 2 else 64)

end Sys2Proof.Machine
end

