-- ==== Sys2Proof/Machine/Access.lean ====
section
/-! DEFINITION. Accesses of waves and contexts: effective addresses (R225), the checks at issue (R226), the park of
memory issue and its trap point (R435, R438), the wait on EMPTY lines (R179), and what an access does lane by lane
(R227 to R236), with the lanes the memory side refuses and the data it reports as uncorrectable (R435, R441). -/

namespace Sys2Proof.Machine

/-- One lane's effective address. A scalar access has lane 0 (log 13). -/
abbrev Ea := Nat × W64

def eaMask (es : List Ea) : BitVec 64 := maskOf (es.map Prod.fst)

-- Interlocks (R105, R227, R441) --------------------------------------------------------------------------------

/-- The registers an operand covers: physical vector registers, and 1024 + n for sN. -/
def Agent.keysOf (a : Agent) (p : Opnd) : List Nat :=
  let n := p.1.toNat
  if isVec p.1 then (List.range (max 1 (p.2 / 32))).map fun i => a.wb + n + i
  else if isScalar p.1 then (if p.2 = 128 then [928 + n, 929 + n] else [928 + n])
  else []

/-- The registers a faulted access is still to write. -/
def Access.keys (f : Access) : List Nat :=
  match f.dst with
  | some (n, true) => if f.size = 16 then [1024 + n, 1025 + n] else [1024 + n]
  | some (n, false) => (List.range (max 1 (f.size / 4))).map fun i => n + i
  | none => []

/-- The registers that incomplete operations are still to write (R227, R435). -/
def Agent.pendingKeys (a : Agent) : List Nat :=
  a.regWait.map (fun p => 1024 + p.1) ++ a.faults.flatMap Access.keys

/-- A deferred trap whose trap point is the park point, at an instruction of a part (R428, R438): the first instruction held
by the park, or, where none was held, or its part is gone, the first that is a trap point. -/
def Agent.parkPoint (a : Agent) (part : Nat) (t : Deferred) : Bool :=
  match t.at_ with
  | .park held => !a.memParked && held.all fun p => p == part || (a.parts.find? p).isNone
  | _ => false

/-- What a memory instruction, and an instruction that reads a stream, take beside the traps of their registers (R438). -/
def State.parkPoint (s : State) (t : Deferred) : Bool := s.me.parkPoint s.cur.part t

/-- The deferred traps whose trap point an instruction is: those of `here`, and the DATA_ERROR of a load whose register it
reads (R441). The one whose operation issued first is taken, before anything else of the instruction (R428). -/
def State.trapGate (s : State) (here : Deferred → Bool) (reads : List Opnd) : Except State Unit :=
  let ks := reads.flatMap s.me.keysOf
  match s.takeDeferred fun t => here t || match t.at_ with | .loads rs => rs.any fun r => ks.contains r | _ => false with
  | some t => .error t
  | none => .ok ()

/-- The active lanes in which operands read uncorrectable words of vector registers (R440). -/
def State.badLanes (s : State) (reads : List Opnd) : BitVec 64 :=
  let ks := (reads.flatMap s.me.keysOf).filter fun k => decide (k < 1024)
  maskOf ((lanesOf s.em).filter fun l => ks.any fun k => s.me.vbad.contains (k * 8 + l / 8))

/-- A read of a register line that is uncorrectable takes DATA_ERROR there (R440; log 22). -/
def State.regGate (s : State) (reads : List Opnd) : Except State Unit :=
  if s.me.vbad.isEmpty then .ok ()
  else
    let c := s.cur.core
    let m := s.badLanes reads
    let ws := (reads.flatMap s.me.keysOf).flatMap fun k =>
      ((List.range 8).filter fun w => s.em.extractLsb' (8 * w) 8 != 0#8 && s.me.vbad.contains (k * 8 + w)).map fun w => k * 8 + w
    need (m == 0) ((s.dueNow (.errorEvent (16 * dieOf c + 8) 2 (c * 65536 + (s.me.regBase + ws.headD 0 * 32) / 128) true
      s.myCore.ctx c)).trap 0x07 (s.faultInfo 0x10) 0 m)

/-- What comes before a register instruction: the deferred traps it is the trap point of, the wait for registers that an
incomplete operation is to write (R227), and uncorrectable register lines (R440). -/
def State.interlock (s : State) (reads writes : List Opnd) : Except State Unit := do
  s.trapGate (fun t => (reads.any fun p => isStream p.1) && s.parkPoint t) reads
  need (!(((reads ++ writes).flatMap s.me.keysOf).any fun k => s.me.pendingKeys.contains k)) s
  s.regGate reads

/-- The legality of the fields, and of naming them in a copy context (R31, R44). -/
def State.legal (s : State) (ok : Bool) (rs : List Reg) : Except State Unit :=
  need (ok && !(decide (s.me.role = .copy) && namesLanes rs)) s.illegalOperand

/-- Groups that copy contexts may not issue (R43). -/
def State.notCopy (s : State) : Except State Unit := need (s.me.role != .copy) s.roleViolation
/-- Groups that only copy contexts, or only matrix waves, may issue (R43). -/
def State.onlyCopy (s : State) : Except State Unit := need (s.me.role == .copy) s.roleViolation
def State.onlyMatrix (s : State) : Except State Unit := need (s.me.role == .matrix) s.roleViolation

-- Issue of memory instructions ---------------------------------------------------------------------------------

/-- Memory issue of the agent is parked (R435); it is too while an acquiring access waits for its replay, since nothing
after it in program order may be performed before it (R206). -/
def Agent.memHeld (a : Agent) : Bool := a.memParked || a.faults.any fun f => acquires f.ord

/-- The park of memory issue (R435): a memory instruction waits while it holds. The first that does is the park point
(R438). -/
def State.memGate (s : State) : Except State Unit :=
  if s.me.memHeld then
    .error ((s.modMe fun a => { a with held := a.held.or (some s.cur.part) }).park .mem)
  else .ok ()

/-- A release, or a fence, after a faulted access waits for its replay (R437). -/
def State.faultGate (s : State) : Except State Unit := need s.me.faults.isEmpty (s.park .mem)

/-- Room in a completion counter (R221). -/
def State.roomGate (s : State) (c : CounterClass) : Except State Unit := need (s.me.room c) s

/-- Alignment of a list of addresses, then windows, regions and rights (R226). -/
def State.checkEa (s : State) (nd : Need) (size : Nat) (es : List Ea) : Except State Unit :=
  match es.find? fun e => e.2.toNat % size != 0 with
  | some e => .error (s.alignTrap e.2)
  | none =>
    match es.filter fun e => (s.place s.cur.core nd e.2 size).isNone with
    | [] => .ok ()
    | e :: es => .error (s.memFault e.2 (eaMask (e :: es)))

/-- The lines of the scratchpad that addresses touch. -/
def State.linesAt (s : State) (size : Nat) (es : List Ea) : List Nat :=
  es.flatMap fun e =>
    match s.place s.cur.core .r e.2 size with
    | some (.pool off) => if s.myCore.inScratch off size then linesOf off size else []
    | _ => []

/-- An access that touches an EMPTY line parks, until all lines that it touches are FULL (R179). -/
def State.linesGate (s : State) (ls : List Nat) : Except State Unit :=
  need (s.myCore.emptyOf ls).isEmpty (s.park (.lines ls s.cur.word))
def State.emptyGate (s : State) (size : Nat) (es : List Ea) : Except State Unit := s.linesGate (s.linesAt size es)

/-- The lanes whose addresses lead to memory: each takes one request (R13; log 54). -/
def State.requests (s : State) (c : Nat) (nd : Need) (size : Nat) (vas : List W64) : Nat :=
  (vas.filter fun va => match s.place c nd va size with | some (.mem _) => true | _ => false).length

/-- The memory requests that a core has outstanding (R9, R13). -/
def Core.outstanding (x : Core) : Nat :=
  x.agents.foldl (fun n p => ((p.2.ld ++ p.2.st ++ p.2.xc).filter fun o => !o.done).foldl (fun n o => n + o.reqs) n) 0

/-- An instruction that needs requests does not issue while the core's 2 048 are taken (R13). -/
def State.requestGate (s : State) (n : Nat) : Except State Unit := need (decide (n = 0 ∨ s.myCore.outstanding + n ≤ 2048)) s

/-- The same for the lanes of an access. -/
def State.reqGate (s : State) (nd : Need) (size : Nat) (es : List Ea) : Except State Unit :=
  s.requestGate (s.requests s.cur.core nd size (es.map Prod.snd))

/-- The addresses of the lanes that act: one in scalar execution, else the active lanes (R225). -/
def State.eas (s : State) (perLane : Bool) (a : Reg) (off : W64) (size : Nat) : List Ea :=
  if !perLane then [(0, s.sval a + off)]
  else (lanesOf s.em).map fun l =>
    if isVec a then (l, (s.me.vget (a.toNat + 1) l ++ s.me.vget a.toNat l) + off)
    else (l, s.sval a + off + BitVec.ofNat 64 (l * size))

-- One lane -----------------------------------------------------------------------------------------------------

/-- The new value of a chunk under an atomic operation of FN 0 to 12 of R234; `x` is the old value, `v` the operand,
`v2` the swap value of CAS. -/
def atomNew (fn w x v v2 : Nat) : Nat :=
  let f : Fmt := if w = 32 then .f32 else .f64
  match fn with
  | 0 => (x + v) % 2 ^ w
  | 1 => if sInt' w v < sInt' w x then v else x
  | 2 => min x v
  | 3 => if sInt' w x < sInt' w v then v else x
  | 4 => max x v
  | 5 => Nat.land x v
  | 6 => Nat.lor x v
  | 7 => Nat.xor x v
  | 8 => v
  | 9 => if x = v then v2 else x
  | 10 => (f.addOp .rne x v).1
  | 11 => f.fmin x v
  | _ => f.fmax x v
where
  /-- The signed value of `w` bits. -/
  sInt' (w x : Nat) : Int := if 2 ^ (w - 1) ≤ x then (x : Int) - 2 ^ w else x

/-- A signal object after a decrement or an addition (R390, R391): `add` modulo 2^64 to VALUE, `status` to STATUS under
the first-error rule. -/
def signalNew (old add status : Nat) : Nat :=
  let st := old / 2 ^ 64
  (old % 2 ^ 64 + add) % 2 ^ 64 + (if st = 0 ∧ status ≠ 0 then status else st) * 2 ^ 64

/-- The FN of R234 that a RED's FN applies (R236). -/
def redFn (fn : Nat) : Nat := if fn < 8 then fn else fn + 2

def MemKind.write : MemKind → Bool
  | .store | .atom _ | .red _ | .signal => true
  | _ => false

def MemKind.need : MemKind → Need
  | .load _ | .stream => .r
  | .store => .w
  | .atom _ | .red _ | .signal => .rw

/-- The NAK a lane meets (R196), unless a cache of the core holds its line for the context (R186). A write to a page
that is read-duplicated or moving meets it in any case (R404, R406). -/
def State.laneNak (s : State) (c : Nat) (k : MemKind) (scope : Nat) (va : W64) (size : Nat) : Option (BitVec 8) :=
  match s.place c k.need va size with
  | some (.mem ia) =>
    let code := s.nak (s.ctxOf c) ia k.write
    let pinned := k.write && code == some 0x01 && ((s.pages.find? (s.home ia / 65536)).isSome || s.replicaHeld ia)
    if decide (scope < 3) && s.hit c (s.ctxOf c) (ia / 128) && !pinned then none else code
  | _ => none

/-- The page at the memory side in which an address of a core's context lies. -/
def State.pageAt (s : State) (c : Nat) (va : W64) : Option Nat :=
  ([Need.r, .w, .x].findSome? fun nd => (s.ctx (s.ctxOf c)).translate nd va).map fun ia => s.home ia / 65536

/-- The pages on which accesses that an agent issued before one wait for their replay, with their NAKs. -/
def State.openPages (s : State) (c k id : Nat) : List (Nat × BitVec 8) :=
  match s.agent? c k with
  | none => []
  | some a => (a.faults.filter fun g => decide (g.id < id)).flatMap fun g =>
      g.reqs.filterMap fun r => (s.pageAt c r.va).map fun p => (p, r.code)

/-- The NAK of a lane, behind faulted accesses of its agent: one to their page reaches the memory side behind them and meets
the same NAK (R437). -/
def State.laneCode (s : State) (c : Nat) (open_ : List (Nat × BitVec 8)) (k : MemKind) (scope : Nat) (va : W64) (size : Nat) :
    Option (BitVec 8) :=
  match s.place c k.need va size with
  | some (.mem ia) =>
    match (open_.find? fun p => p.1 == s.home ia / 65536) with
    | some p => if decide (scope < 3) && s.hit c (s.ctxOf c) (ia / 128) then s.laneNak c k scope va size else some p.2
    | none => s.laneNak c k scope va size
  | _ => none

/-- Whether the data a lane reads are uncorrectable, at the place that its scope gives it (R218, R440). -/
def State.laneBad (s : State) (c : Nat) (k : MemKind) (scope : Nat) (va : W64) (size : Nat) : Bool :=
  match k, s.place c k.need va size with
  | .store, _ => false
  | _, some (.pool off) => (s.core c).poolBad ((s.core c).phys off) size
  | .load _, some (.mem ia) | .stream, some (.mem ia) => s.readBad c (s.ctxOf c) scope ia size true
  | _, some (.mem ia) => s.readBad c (s.ctxOf c) (rmwScope scope ia) ia size false
  | _, none => false

/-- What one lane of an access does where it is served; answers the value read. What an access sends to the home slices,
`runAccess` sends. -/
def State.lane (s : State) (c : Nat) (k : MemKind) (scope size : Nat) (r : LaneReq) : State × Nat :=
  match s.place c k.need r.va size with
  | none => (s, 0)
  | some (.pool off) =>
    let x := s.core c
    let a := x.phys off
    let old := x.poolRead a size
    match k with
    | .load _ | .stream => (s, old)
    | .store => (s.setCore c (x.poolWrite a size r.data), old)
    | .atom fn => (s.setCore c (x.poolWrite a size (atomNew fn (8 * size) old r.data r.data2)), old)
    | .red fn => (s.setCore c (x.poolWrite a size (atomNew (redFn fn) (8 * size) old r.data r.data2)), old)
    | .signal => (s.setCore c (x.poolWrite a size (signalNew old r.data r.data2)), old)
  | some (.mem ia) =>
    let ctx := s.ctxOf c
    match k with
    | .load _ | .stream => s.memRead c ctx scope ia size
    | .store => (s.memPut c ctx scope ia size r.data, 0)
    | .atom fn => s.memRmw c ctx scope ia size fun old => atomNew fn (8 * size) old r.data r.data2
    | .red fn => s.memRmw c ctx scope ia size fun old => atomNew (redFn fn) (8 * size) old r.data r.data2
    | .signal => s.memRmw c ctx scope ia size fun old => signalNew old r.data r.data2

/-- The value of a load as its destination receives it (R229): `w` is 32 for a vector, 64 for a scalar. -/
def extendTo (signed : Bool) (size w v : Nat) : Nat :=
  if signed && decide (2 ^ (8 * size - 1) ≤ v) then v + 2 ^ w - 2 ^ (8 * size) else v

/-- Writes a value to the destination of an access in one lane: a physical vector register, or a scalar. -/
def Agent.putLane (a : Agent) (dst : Nat × Bool) (signed : Bool) (size lane v : Nat) : Agent :=
  if dst.2 then
    let a := a.sset dst.1 (BitVec.ofNat 64 (extendTo signed size 64 v))
    if size = 16 then a.sset (dst.1 + 1) (BitVec.ofNat 64 (v / 2 ^ 64)) else a
  else
    let v := if size < 4 then extendTo signed size 32 v else v
    (List.range (max 1 (size / 4))).foldl (fun (a : Agent) i =>
      { a with v := a.v.set ((dst.1 + i) * 64 + lane) (BitVec.ofNat 32 (v / 2 ^ (32 * i))) }) a

def MemKind.signed : MemKind → Bool
  | .load b => b
  | _ => false

/-- One lane, with its result written to the destination. -/
def State.laneDo (s : State) (c k : Nat) (f : Access) (r : LaneReq) : State :=
  let p := s.lane c f.kind (reach f.scope) f.size r
  match f.dst with
  | some d => p.1.modAgent c k fun a => a.putLane d f.kind.signed f.size r.lane p.2
  | none => p.1

/-- The addresses of lanes that bypass L1 and the cluster's units (R185, R189, R218). -/
def State.bypassing (s : State) (c : Nat) (f : Access) (rs : List LaneReq) : List Nat :=
  rs.filterMap fun r =>
    match s.place c f.kind.need r.va f.size with
    | some (.mem ia) =>
      let sc := match f.kind with | .load _ | .stream | .store => reach f.scope | _ => rmwScope (reach f.scope) ia
      if 3 ≤ sc then some ia else none
    | _ => none

/-- What the bypassing lanes of an access ask of the memory side before they act (R189): a read asks for the blocks it
touches, behind the write-back of the core's own bytes; a store that falls in part into an uncorrectable word of the cache
ways meets it (R440). -/
def State.askLanes (s : State) (c : Nat) (f : Access) (ias : List Nat) : State :=
  let ctx := s.ctxOf c
  match f.kind with
  | .store =>
    let bs := ias.flatMap fun ia => bytesAt (s.home ia) f.size 0
    match bs.find? fun b => (s.wayOf b.1).isSome && s.lostByte bs b with
    | some b => s.metBad ctx (b.1 / 32 * 32)
    | none => s
  | _ =>
    let s := (ias.map fun ia => ia / 128).eraseDups.foldl (fun (s : State) l => s.flushLine c l) s
    s.askRd ctx (ias.map fun ia => (s.home ia, f.size))

/-- The tags that the last writes of lines drew from their slices' counters (R188). -/
def State.tagsOf (s : State) (as : List Nat) : List Nat :=
  as.filterMap fun a => (homeOf a).map fun h => (s.die h.1).seq.getD (h.2 * 4096 + a % 2 ^ 53 / 128 % 4096) 0

/-- Changes the record of an operation of an agent. -/
def State.modOp (s : State) (c k : Nat) (cls : CounterClass) (id : Nat) (f : OpRec → OpRec) : State :=
  s.modAgent c k fun a => a.setCounter cls ((a.counter cls).map fun o => if o.id = id then f o else o)

/-- What the bypassing lanes of a write send to the home slices, and the tags it is acknowledged with (R188, R189). -/
def State.sendLanes (s : State) (c k : Nat) (f : Access) (ias : List Nat) : State :=
  if !f.kind.write || ias.isEmpty then s
  else
    let as := ias.map s.home
    let t := s.sendWrites (s.ctxOf c) (as.map fun a => (a, f.size, s.mem.readLE a f.size)) (f.kind != .store)
    t.modOp c k f.cls f.id fun o => { o with tags := o.tags ++ t.tagsOf (as.map fun a => a / 128 * 128).eraseDups }

/-- ECC words of vector registers that a write covers whole, in all 8 lanes, are good from then on (R442); `rs` are physical
registers. -/
def Agent.covered (a : Agent) (rs : List Nat) (lanes : BitVec 64) : Agent :=
  { a with vbad := a.vbad.filter fun k => !(rs.contains (k / 8) && lanes.extractLsb' (8 * (k % 8)) 8 == 0xFF#8) }

/-- The same for the issuing agent, about to write registers of its window in the active lanes. -/
def State.covered (s : State) (d : Reg) (w : Nat) : State :=
  if s.me.vbad.isEmpty then s else s.modMe fun a => a.covered (a.keysOf (d, w)) s.em

/-- The requests that an access has sent to base dies since `s` are its own: their replies answer it (R473). -/
def State.ownReqs (s t : State) (id : Nat) : State :=
  (List.range 4).foldl (fun (t : State) d =>
    let n := (s.die d).reqs.length
    let x := t.die d
    if n < x.reqs.length then
      t.setDie d { x with reqs := x.reqs.take n ++ (x.reqs.drop n).map fun r => { r with op := some id } }
    else t) t

/-- A request of an access has not been answered (R473). -/
def State.awaitsBase (s : State) (op : Nat) : Bool := (List.range 4).any fun d => (s.die d).reqs.any fun r => r.op == some op

/-- The lanes of an access, in ascending order (R228): those the memory side refuses stay for the pager (R435), those
whose data are uncorrectable do nothing and leave a DATA_ERROR of a load or an atomic for the trap point (R441), the others
are done. Answers those refused. -/
def State.runAccess (s : State) (c k : Nat) (f : Access) : State × List LaneReq :=
  let open_ := s.openPages c k f.id
  let coded := f.reqs.map fun r => (r, s.laneCode c open_ f.kind f.scope r.va f.size)
  let refused := coded.filterMap fun p => p.2.map fun code => { p.1 with code := code, answer := none }
  let served := (coded.filter fun p => p.2.isNone).map Prod.fst
  let bad := served.filter fun r => s.laneBad c f.kind (reach f.scope) r.va f.size
  let good := served.filter fun r => !(s.laneBad c f.kind (reach f.scope) r.va f.size)
  let out := s.bypassing c f good
  let t := good.foldl (fun (s : State) r => s.laneDo c k f r) (s.askLanes c f out)
  let s := s.ownReqs (t.sendLanes c k f out) f.id
  let s := if (s.agentD c k).vbad.isEmpty then s else s.modAgent c k fun a => a.covered f.keys (maskOf (good.map LaneReq.lane))
  let s := match bad, f.kind with
    | r :: rs, .load _ | r :: rs, .atom _ =>
      let info : TrapInfo :=
        { code := 0x07, einfo := faultLayout (s.core c).lr.code f.pc f.word 0x10, eaddr := r.va,
          fmask := maskOf ((r :: rs).map LaneReq.lane) }
      (s.modAgent c k fun a => a.defer f.cls f.id (.loads f.keys) info).metMany c ((r :: rs).map LaneReq.va) f.size
    | r :: rs, _ => s.metMany c ((r :: rs).map LaneReq.va) f.size
    | [], _ => s
  (s, refused)

/-- Issues an access of the issuing agent: counts it and its requests (R13, R221), does its lanes, and completes it later, or
after the pager has answered. -/
def State.issueAccess (s : State) (cls : CounterClass) (kind : MemKind) (size ord scope : Nat) (dst : Option (Nat × Bool))
    (reqs : List LaneReq) : State :=
  let (id, s) := s.fresh
  let s := s.count cls id
  let c := s.cur.core
  let k := s.cur.agent
  let s := s.modOp c k cls id fun o => { o with reqs := s.requests c kind.need size (reqs.map LaneReq.va) }
  let f : Access :=
    { id := id, cls := cls, kind := kind, size := size, ord := ord, scope := scope, dst := dst, pc := s.pc, word := s.cur.word,
      reqs := reqs }
  match s.runAccess c k f with
  | (s, []) => s.due (.accessComplete c k cls id)
  | (s, r :: rs) =>
    (s.modAgent c k fun a => { a with faults := a.faults ++ [{ f with reqs := r :: rs }] }).due (.nakReport c k id)

/-- The destination of a load or an atomic (R53): none for zero. -/
def State.dstOf (s : State) (d : Reg) : Option (Nat × Bool) :=
  if isVec d then some (s.me.wb + d.toNat, false) else if isScalar d then some (d.toNat - 96, true) else none

end Sys2Proof.Machine
end

