-- ==== Sys2Proof/Machine/Bars.lean ====
section
/-! DEFINITION. Barrier objects: names, layout, arrivals, expected and landed bytes, completion (R248 to R254). -/

namespace Sys2Proof.Machine

/-- Where a barrier object lies (R248): in a core's scratchpad, or in the cluster unit. -/
inductive BarAt where
  | pool (off : Nat)
  | cluster (n : Nat)
  deriving DecidableEq, Repr

/-- The fields of a barrier object (R250), with the bits that hold zero. -/
structure Bar where
  phase : Nat
  exp : Nat
  pend : Nat
  ephase : Nat
  bytes : Int
  err : Bool
  ovf : Bool
  xchg : Bool
  clu : Bool
  rest : Nat := 0
  carry : Nat := 0
  resv : Nat := 0
  deriving DecidableEq, Repr

def Bar.ofBytes (bs : List Byte) : Bar :=
  let f := fun (o n : Nat) => leNat ((bs.drop o).take n)
  let fl := f 12 1
  let b := f 8 4
  { phase := f 0 2, exp := f 2 2, pend := f 4 2, ephase := f 6 2,
    bytes := if 2 ^ 31 ≤ b then (b : Int) - 2 ^ 32 else b,
    err := fl % 2 == 1, ovf := fl / 2 % 2 == 1, xchg := fl / 4 % 2 == 1, clu := fl / 8 % 2 == 1, rest := fl / 16,
    carry := f 13 1, resv := f 14 2 }

def Bar.flags (b : Bar) : Nat :=
  (if b.err then 1 else 0) + (if b.ovf then 2 else 0) + (if b.xchg then 4 else 0) + (if b.clu then 8 else 0) + 16 * b.rest

def Bar.toBytes (b : Bar) : List Byte :=
  leBytes b.phase 2 ++ leBytes b.exp 2 ++ leBytes b.pend 2 ++ leBytes b.ephase 2 ++
    leBytes ((b.bytes % 2 ^ 32).toNat) 4 ++ leBytes b.flags 1 ++ leBytes b.carry 1 ++ leBytes b.resv 2

/-- The place a barrier name gives (R248). -/
def barAt (name : W64) : BarAt :=
  if name.getLsbD 63 then .cluster (name.toNat % 64) else .pool (name.toNat % 2 ^ 23)

/-- The object as a core sees it. -/
def State.barGet (s : State) (c : Nat) (p : BarAt) : Bar :=
  match p with
  | .pool off => Bar.ofBytes ((s.core c).pool.bytes off 16)
  | .cluster n => Bar.ofBytes ((s.cluster (clusterOf c)).bars.bytes (16 * n) 16)

def State.barPut (s : State) (c : Nat) (p : BarAt) (b : Bar) : State :=
  match p with
  | .pool off => s.modCore c fun x => x.poolPut off b.toBytes
  | .cluster n =>
    let u := clusterOf c
    let k := s.cluster u
    s.setCluster u { k with bars := k.bars.putBytes (16 * n) b.toBytes }

/-- Exchanges the live and shadow banks of cores (R182, R252). -/
def State.swapBanks (s : State) (cs : List Nat) : State :=
  cs.foldl (fun s c => s.modCore c fun (x : Core) => { x with liveHigh := !x.liveHigh }) s

/-- Complete(b) of R252: the banks of the cores with an arrival in the phase are swapped, the phase advances and the
carried arrivals count in the new one, which may complete in turn. The completion of an exchange is an acquire at CLU by every
core that takes part (R224). -/
def State.barComplete (s : State) (c : Nat) (p : BarAt) : Nat → State
  | 0 => s
  | n + 1 =>
    let b := s.barGet c p
    let s := match p with
      | .cluster k =>
        let u := clusterOf c
        let x := s.cluster u
        let cores := x.arrived.getD k []
        let s := s.setCluster u { x with arrived := x.arrived.put k (x.carried.getD k []), carried := x.carried.put k [] }
        if b.xchg then cores.foldl (fun (s : State) i => s.acquire i 2) (s.swapBanks cores) else s
      | .pool _ => s
    let b' : Bar := { b with phase := (b.phase + 1) % 65536, carry := 0, pend := (b.exp + 65536 - b.carry) % 65536 }
    let s := s.barPut c p b'
    if b.carry > 0 ∧ b'.pend = 0 ∧ b'.bytes = 0 then s.barComplete c p n else s

/-- After an event on the object: it completes when nothing is due (R252, R253). -/
def State.barSettle (s : State) (c : Nat) (p : BarAt) : State :=
  let b := s.barGet c p
  if b.pend = 0 ∧ b.bytes = 0 then s.barComplete c p 2 else s

/-- A signed 32-bit number. -/
def inS32 (n : Int) : Bool := decide (-(2 ^ 31 : Int) ≤ n ∧ n < 2 ^ 31)

/-- Whether an expectation of `n` bytes may be posted (R253). -/
def State.barFits (s : State) (c : Nat) (p : BarAt) (n : Int) : Bool := inS32 n && inS32 ((s.barGet c p).bytes + n)

/-- Posts an expectation of `n` bytes (R253). -/
def State.barExpect (s : State) (c : Nat) (p : BarAt) (n : Int) : State :=
  let b := s.barGet c p
  (s.barPut c p { b with bytes := b.bytes + n }).barSettle c p

/-- Keeps a count in its 32 bits: a landing that would take PEND_BYTES out of its range wraps it (log 59). -/
def wrapS32 (n : Int) : Int := (n + 2 ^ 31) % 2 ^ 32 - 2 ^ 31

/-- A landing of `n` bytes; a failed one sets ERR and, if it was clear, EPHASE (R253). -/
def State.barLand (s : State) (c : Nat) (p : BarAt) (n : Nat) (failed : Bool) : State :=
  let b := s.barGet c p
  let b : Bar := if failed && !b.err then { b with err := true, ephase := b.phase } else b
  (s.barPut c p { b with bytes := wrapS32 (b.bytes - n) }).barSettle c p

/-- Whether phase `p` is complete (R254). -/
def Bar.done (b : Bar) (p : Nat) : Bool :=
  let k := (b.phase + 65536 - p % 65536) % 65536
  decide (1 ≤ k ∧ k ≤ 32768)

/-- The status word of BWAIT and BTRY (R254). -/
def Bar.status (b : Bar) (done : Bool) : W64 :=
  BitVec.ofNat 64 ((if done then 2 ^ 63 else 0) + (if b.ovf then 2 ^ 33 else 0) + (if b.err then 2 ^ 32 else 0) +
    b.ephase * 65536 + b.phase)

/-- The checks of a barrier name for a core, shared with the copies and drains that name a barrier (R248): the trap, or
none. A reserved bit comes first, then alignment, then the range (log 18). -/
def State.barName (s : State) (name : W64) : Except State BarAt := do
  match barAt name with
  | .cluster n =>
    need (decide (name.toNat % 2 ^ 63 < 64)) (s.memFault name 0)
    .ok (.cluster n)
  | .pool off =>
    need (decide (name.toNat < 2 ^ 23)) (s.memFault name 0)
    need (decide (off % 16 = 0)) (s.alignTrap name)
    need (s.myCore.inScratch off 16) (s.memFault name 0)
    .ok (.pool off)

/-- A cluster barrier is used by its owner's agents only; BINIT of one without an owner takes it (R249). -/
def State.barOwner (s : State) (name : W64) (p : BarAt) (init : Bool) : Except State Unit :=
  match p with
  | .pool _ => .ok ()
  | .cluster n =>
    match (s.cluster (clusterOf s.cur.core)).own.find? n with
    | some x => need (decide (x = s.myCtx)) (s.memFault name 0)
    | none => need init (s.memFault name 0)

/-- An operation that reads an object with uncorrectable bits takes DATA_ERROR (R440). -/
def State.barRead (s : State) (p : BarAt) : Except State Bar := do
  match p with
  | .pool off => need (!(s.myCore.poolBad off 16)) (s.dataError (ownPool off))
  | .cluster _ => pure ()
  .ok (s.barGet s.cur.core p)

/-- Names and reads the object of an instruction. -/
def State.barOf (s : State) (name : W64) : Except State (BarAt × Bar) := do
  let p ← s.barName name
  s.barOwner name p false
  let b ← s.barRead p
  .ok (p, b)

end Sys2Proof.Machine
end

