-- ==== Sys2Proof/Machine/Barrier.lean ====
section
/-! DEFINITION. The BAR group (R252 to R258). -/

namespace Sys2Proof.Machine

/-- The legality of the scalar fields of a group (R239, R258): each names s0 to s23 or zero. -/
def State.scalars (s : State) (rs : List Reg) : Except State Unit := need (rs.all isSz) s.illegalOperand

/-- BINIT (R249, R257): the name and the owner are judged before the init word (log 59). -/
def execBinit (b a : BitVec 7) (s : State) : Out :=
  finish do
    s.interlock [(a, 64), (b, 64)] []
    s.scalars [a, b]
    let name := s.sval a
    let w := s.sval b
    let p ← s.barName name
    s.barOwner name p true
    let clu := name.getLsbD 63
    let exp := w.toNat % 65536
    let xchg := w.getLsbD 16
    need (decide (w.toNat < 2 ^ 17) && (if clu then decide (1 ≤ exp) else !xchg)) s.illegalOperand
    let obj : Bar := { phase := 0, exp := exp, pend := exp, ephase := 0, bytes := 0, err := false, ovf := false,
                       xchg := xchg, clu := clu }
    let c := s.cur.core
    let s := s.barPut c p obj
    let s := match p with
      | .cluster n =>
        let u := clusterOf c
        let k := s.cluster u
        s.setCluster u { k with own := k.own.put n s.myCtx, arrived := k.arrived.put n [], carried := k.carried.put n [] }
      | .pool _ => s
    .ok s.advance

/-- The exchange stores of the issuing wave that have not landed (R247). -/
def State.xstsLanded (s : State) : Bool := !(s.myCore.xsts.any fun o => o.agent == s.cur.agent)

/-- An arrival (R252): a release at CORE, or at CLU for a cluster barrier, which counts only once that release holds
and, at an exchange barrier, the wave's exchange stores have landed (R247). -/
def State.arrive (s : State) (a d : Reg) (exchange : Bool) : Out :=
  finish do
    s.interlock [(a, 64)] [(d, 64)]
    s.scalars [a, d]
    let name := s.sval a
    let (p, b) ← s.barOf name
    let clu := match p with | .cluster _ => true | .pool _ => false
    need (b.xchg == exchange && (clu || !exchange)) s.illegalOperand
    s.faultGate
    if exchange then need s.xstsLanded s
    let c := s.cur.core
    let s := if clu then s.release c 2 else s
    if b.pend > 0 then
      let s := s.barPut c p { b with pend := b.pend - 1 }
      let s := match p with
        | .cluster n =>
          let u := clusterOf c
          let k := s.cluster u
          s.setCluster u { k with arrived := k.arrived.put n (insertNat c (k.arrived.getD n [])) }
        | .pool _ => s
      .ok ((s.setS d (BitVec.ofNat 64 b.phase)).barSettle c p).advance
    else if min b.exp 255 ≤ b.carry then
      let info : W64 := BitVec.ofNat 64 ((if clu then 2 ^ 63 else 0) + name.toNat % 2 ^ 23)
      .error ((s.barPut c p { b with ovf := true }).trap 0x09 info)
    else
      let s := s.barPut c p { b with carry := b.carry + 1 }
      let s := match p with
        | .cluster n =>
          let u := clusterOf c
          let k := s.cluster u
          s.setCluster u { k with carried := k.carried.put n (insertNat c (k.carried.getD n [])) }
        | .pool _ => s
      .ok ((s.setS d (BitVec.ofNat 64 ((b.phase + 1) % 65536))).barSettle c p).advance

def execBarv (a d : BitVec 7) (s : State) : Out := s.arrive a d false
def execBarx (a d : BitVec 7) (s : State) : Out := s.arrive a d true

/-- BEXP (R253). -/
def execBexp (b a : BitVec 7) (s : State) : Out :=
  finish do
    s.interlock [(a, 64), (b, 64)] []
    s.scalars [a, b]
    let (p, _) ← s.barOf (s.sval a)
    let n := (s.sval b).toInt
    need (s.barFits s.cur.core p n) s.illegalOperand
    .ok (s.barExpect s.cur.core p n).advance

/-- The wait of BWAIT and BTRY (R255): done, it is an acquire at the barrier's scope and writes the status word. -/
def State.barWait (s : State) (b a d : Reg) (try_ : Bool) : Out :=
  finish do
    s.interlock [(a, 64), (b, 64)] [(d, 64)]
    s.scalars [a, b, d]
    let name := s.sval a
    let (p, o) ← s.barOf name
    let ph : BitVec 16 := (s.sval b).setWidth 16
    let clu := match p with | .cluster _ => true | .pool _ => false
    if o.done ph.toNat then
      .ok ((s.acquire s.cur.core (if clu then 2 else 1)).setS d (o.status true)).advance
    else if try_ && (s.myPart.expired || s.me.twh == 0) then .ok (s.setS d (o.status false)).advance
    else
      let s := s.park (.bar name ph try_)
      .ok (if try_ then s.due (.trywaitExpire s.cur.core s.cur.agent s.cur.part) else s)

def execBwait (b a d : BitVec 7) (s : State) : Out := s.barWait b a d false
def execBtry (b a d : BitVec 7) (s : State) : Out := s.barWait b a d true

/-- BQRY (R257): the 16 bytes of the object, as one snapshot. -/
def execBqry (a d : BitVec 7) (s : State) : Out :=
  finish do
    s.interlock [(a, 64)] [(d, 128)]
    need (isSz a && evenScalar d) s.illegalOperand
    let (_, o) ← s.barOf (s.sval a)
    let v := leNat o.toBytes
    .ok (s.setPair d (BitVec.ofNat 64 v) (BitVec.ofNat 64 (v / 2 ^ 64))).advance

/-- BCLR (R257). -/
def execBclr (a : BitVec 7) (s : State) : Out :=
  finish do
    s.interlock [(a, 64)] []
    s.scalars [a]
    let (p, o) ← s.barOf (s.sval a)
    .ok (s.barPut s.cur.core p { o with err := false, ovf := false, ephase := 0 }).advance

end Sys2Proof.Machine
end

