-- ==== Sys2Proof/Machine/CopyAt.lean ====
section
/-! DEFINITION. Where copies and collective steps read and write (R263, R264, R279), and the order of a context's copies and
accesses (R270). -/

namespace Sys2Proof.Machine

/-- Fields of the command word (R262). -/
def cmdConv (w : W64) : Nat := w.toNat % 16
def cmdScope (w : W64) : Nat := w.toNat / 2 ^ 16 % 8

/-- Bits of an element at the source and at the destination (R263, R264). -/
def convBits (conv esize : Nat) : Nat × Nat :=
  match conv with
  | 0 => let b := if esize = 4 then 4 else 8 * 2 ^ esize; (b, b)
  | 1 | 2 => (16, 8)
  | 3 | 4 => (8, 16)
  | 5 => (32, 16)
  | 6 => (6, 8)
  | _ => (8, 6)

/-- Extent of a dimension; an unused one counts as 1. -/
def Box.ext (b : Box) (k : Nat) : Nat := max 1 (b.n.getD k 0)
def Box.rows (b : Box) : Nat := b.ext 1 * b.ext 2 * b.ext 3 * b.ext 4

/-- Coordinates c1 to c4 of a row. -/
def Box.coords (b : Box) (row : Nat) : List Nat :=
  [row % b.ext 1, row / b.ext 1 % b.ext 2, row / (b.ext 1 * b.ext 2) % b.ext 3, row / (b.ext 1 * b.ext 2 * b.ext 3)]

/-- Byte of an element in a row of a format of `bits` bits, at a multiple of its group (R84, R85). -/
def byteOf (c bits : Nat) : Nat := c * bits / 8

/-- Glob(c) of the first element of a row (R264). -/
def Box.glob (b : Box) (row : Nat) : W64 :=
  ((b.coords row).zip b.strides).foldl (fun a p => a + BitVec.ofInt 64 ((p.1 : Int) * p.2)) b.gaddr

-- Collective steps (R278, R279) ----------------------------------------------------------------------------------------

/-- Bytes of an element of DTYPE. -/
def CollDesc.esize (x : CollDesc) : Nat := if x.dtype = 1 ∨ x.dtype = 2 then 2 else 4

/-- Steps of a collective over n members (R279). -/
def CollDesc.steps (x : CollDesc) (n : Nat) : Nat := if x.kind = 0 then 2 * (n - 1) else n - 1

/-- Whether the step belongs to the reduce-scatter phase. -/
def CollDesc.reduces (x : CollDesc) (n : Nat) : Bool := x.kind == 1 || (x.kind == 0 && decide (x.step < n - 1))

/-- The chunk a step sends and the chunk it receives, at rank r of n (R279). -/
def CollDesc.chunks (x : CollDesc) (n r : Nat) : Nat × Nat :=
  if x.reduces n then ((r + n - x.step % n) % n, (r + 2 * n - x.step % n - 1) % n)
  else
    let t := if x.kind = 0 then x.step - (n - 1) else x.step
    ((r + 1 + n - t % n) % n, (r + n - t % n) % n)

/-- First element and number of elements of a chunk. -/
def CollDesc.chunk (x : CollDesc) (n k : Nat) : Nat × Nat :=
  let q := (x.count + n - 1) / n
  (k * q, min ((k + 1) * q) x.count - k * q)

/-- The first step of a standalone all-gather takes its chunk from SRC, having first copied it to DST (R279). -/
def CollDesc.copiesOwn (x : CollDesc) : Bool := x.kind == 2 && x.step == 0

/-- Where a step reads the chunk it sends. -/
def CollDesc.sendFrom (x : CollDesc) (n : Nat) : W64 := if (x.reduces n && x.step == 0) || x.copiesOwn then x.src else x.dst

/-- Bytes of the chunk a step sends, and of the one it receives. -/
def CollDesc.sends (x : CollDesc) (n r : Nat) : Nat := (x.chunk n (x.chunks n r).1).2 * x.esize
def CollDesc.receives (x : CollDesc) (n r : Nat) : Nat := (x.chunk n (x.chunks n r).2).2 * x.esize

/-- Byte `off` of the chunk a step sends, or of the one it receives, in a buffer. -/
def CollDesc.sendAt (x : CollDesc) (n r : Nat) (base : W64) (off : Nat) : W64 :=
  base + BitVec.ofNat 64 ((x.chunk n (x.chunks n r).1).1 * x.esize + off)
def CollDesc.recvAt (x : CollDesc) (n r : Nat) (base : W64) (off : Nat) : W64 :=
  base + BitVec.ofNat 64 ((x.chunk n (x.chunks n r).2).1 * x.esize + off)

-- Places of data ----------------------------------------------------------------------------------------------------

/-- Where a unit's data lie: in the core's scratchpad, at a virtual address, at an intermediate address (a vault slot),
in the landing itself, or on another device. -/
inductive CAt where
  | pool (off : Nat)
  | va (a : W64)
  | ia (a : Nat)
  | lit (bs : List Byte)
  | away
  deriving DecidableEq, Repr

/-- Byte `off` of a ticket's slot (R313, R336). -/
def State.slotByte (s : State) (o : CopyOp) (off : Nat) : CAt :=
  match (s.plans.find? o.plan).bind fun p => (p.pipes[o.box.pipe]?).map fun q => (p, q) with
  | none => .away
  | some (p, q) =>
    let dev := (p.stages[q.consumer]?).elim 0 StageSt.device
    if dev ≠ s.devNum then .away
    else
      match o.slotAt with
      | some (.vault k) => .ia (7 * 2 ^ 53 + q.homeDie * 2 ^ 51 + q.vaultOff + k * q.slotSize + off)
      | some (.whey k) => .va (q.wheyBase + BitVec.ofNat 64 (k * q.slotSize + off))
      | none => .away

/-- Bits of an element on both sides. -/
def CopyOp.bits (o : CopyOp) : Nat × Nat := convBits (cmdConv o.cmd) o.box.esize

/-- Source and destination of the element (row, col). -/
def State.srcAt (s : State) (o : CopyOp) (row col : Nat) : CAt :=
  let k := byteOf col o.bits.1
  match o.fn with
  | 0 | 6 => .va (o.box.glob row + BitVec.ofNat 64 k)
  | 1 | 3 => .pool (o.box.soff + row * o.box.spitch + k)
  | 2 => .pool (o.box.gaddr.toNat % 2 ^ 23 + row * o.box.spitch + k)
  | 4 => s.slotByte o (row * byteOf (o.box.ext 0) o.bits.1 + k)
  | _ => .lit ((o.land.getD row (0, [])).2)

def State.dstAt (s : State) (o : CopyOp) (row col : Nat) : CAt :=
  let k := byteOf col o.bits.2
  match o.fn with
  | 0 | 2 | 4 => .pool (o.box.soff + row * o.box.spitch + k)
  | 1 => .va (o.box.glob row + BitVec.ofNat 64 k)
  | 3 => s.slotByte o (row * byteOf (o.box.ext 0) o.bits.2 + k)
  | 6 => .va ((o.box2.getD o.box).glob row + BitVec.ofNat 64 k)
  | _ => .pool (o.land.getD row (0, [])).1

/-- Bytes from a place to the end of its line. -/
def CAt.room : CAt → Nat
  | .pool off => 128 - off % 128
  | .va a => 128 - a.toNat % 128
  | .ia a => 128 - a % 128
  | .lit bs => bs.length
  | .away => 128

/-- Number of rows, or of pieces of a landing. -/
def CopyOp.rowCount (o : CopyOp) : Nat := if o.fn = 8 then o.land.length else o.box.rows

-- Ranges, for the order of copies of one context (R270) -------------------------------------------------------------

/-- A range of bytes: in the pool, or of memory by home address. -/
abbrev Range := Bool × Nat × Nat

def rangesMeet (x y : Range) : Bool := x.1 == y.1 && decide (x.2.1 < y.2.1 + y.2.2 ∧ y.2.1 < x.2.1 + x.2.2)

/-- A range of virtual addresses cut at multiples of 2 MiB, so that each piece lies in one window. -/
def cut2M (a n : Nat) : List (Nat × Nat) :=
  if n = 0 then []
  else (List.range ((a + n - 1) / 2 ^ 21 + 1 - a / 2 ^ 21)).map fun i =>
    let lo := max a ((a / 2 ^ 21 + i) * 2 ^ 21)
    let hi := min (a + n) ((a / 2 ^ 21 + i + 1) * 2 ^ 21)
    (lo, hi - lo)

def State.rangesAt (s : State) (ctx : Nat) (a : CAt) (n : Nat) : List Range :=
  match a with
  | .pool off => [(true, off, n)]
  | .va v => (cut2M v.toNat n).filterMap fun p =>
      ([Need.r, .w].findSome? fun nd => (s.ctx ctx).translate nd (BitVec.ofNat 64 p.1)).map fun ia => (false, s.home ia, p.2)
  | .ia x => [(false, x, n)]
  | _ => []

/-- The group of a step, at its die. -/
def State.stepOf (s : State) (c : Nat) (o : CopyOp) : Option (CollDesc × Group) :=
  o.coll.bind fun x => ((s.die (dieOf c)).groups.find? x.group).map fun g => (x, g)

/-- The rows that a copy has not finished, with the column it goes on from. -/
def CopyOp.rest (o : CopyOp) : List (Nat × Nat) :=
  (List.range (o.rowCount - o.row)).map fun i => (o.row + i, if i = 0 then o.col else 0)

/-- What a copy is still to write. -/
def State.dstRanges (s : State) (c : Nat) (o : CopyOp) : List Range :=
  let ctx := s.ctxOf c
  match o.coll, s.stepOf c o with
  | some _, none => []
  | some _, some (x, g) =>
    let n := g.members.length
    s.rangesAt ctx (.va (x.recvAt n g.rank x.dst o.col)) (x.receives n g.rank - o.col) ++
      if x.copiesOwn then s.rangesAt ctx (.va (x.sendAt n g.rank x.dst o.row)) (x.sends n g.rank - o.row) else []
  | none, _ =>
    if o.fn = 8 then (o.land.drop o.row).map fun p => (true, p.1, p.2.length)
    else o.rest.flatMap fun p => s.rangesAt ctx (s.dstAt o p.1 p.2) (byteOf (o.box.ext 0 - p.2) o.bits.2)

/-- What a copy is still to read. -/
def State.srcRanges (s : State) (c : Nat) (o : CopyOp) : List Range :=
  let ctx := s.ctxOf c
  match o.coll, s.stepOf c o with
  | some _, none => []
  | some _, some (x, g) =>
    let n := g.members.length
    s.rangesAt ctx (.va (x.sendAt n g.rank (x.sendFrom n) o.row)) (x.sends n g.rank - o.row) ++
      if x.reduces n then s.rangesAt ctx (.va (x.recvAt n g.rank x.src o.col)) (x.receives n g.rank - o.col) else []
  | none, _ =>
    if o.fn = 8 then []
    else o.rest.flatMap fun p => s.rangesAt ctx (s.srcAt o p.1 p.2) (byteOf (o.box.ext 0 - p.2) o.bits.1)

/-- What a copy is still to do stands in the way of an access that comes after it in its context's program order: it is to
write what the access reads or writes, or to read what it writes (R200, R211, R212, R270). -/
def State.copyBars (s : State) (c : Nat) (o : CopyOp) (rd wr : List Range) : Bool :=
  ((s.dstRanges c o).any fun x => (rd ++ wr).any fun y => rangesMeet x y) ||
    ((s.srcRanges c o).any fun x => wr.any fun y => rangesMeet x y)

/-- An older copy of the same context stands in the way of a copy's unit. Steps of one group have their own order (R280). -/
def State.heldByOlder (s : State) (c : Nat) (o : CopyOp) (rd wr : List Range) : Bool :=
  (s.core c).copies.any fun p => p.agent == o.agent && decide (p.id < o.id) &&
    !(o.coll.isSome && o.coll.map CollDesc.group == p.coll.map CollDesc.group) && s.copyBars c p rd wr

/-- An access of a copy context waits for the copies before it that stand in its way (R270; log 60). -/
def State.copyOrderGate (s : State) (nd : Need) (size : Nat) (es : List Ea) : Except State Unit :=
  let c := s.cur.core
  let own := s.myCore.copies.filter fun o => o.agent == s.cur.agent
  if own.isEmpty then .ok ()
  else
    let rs : List Range := es.filterMap fun e =>
      match s.place c nd e.2 size with
      | some (.pool off) => some (true, off, size)
      | some (.mem ia) => some (false, s.home ia, size)
      | none => none
    need (!(own.any fun o => s.copyBars c o rs (if nd = .r then [] else rs))) s

end Sys2Proof.Machine
end

