-- ==== Sys2Proof/Machine/Flags.lean ====
section
/-! DEFINITION. Conditions and flags: the conditions of ICMP and ICMPI (R64, R113), of FCMP (R127), of BRC (R68), and
the rounding mode of an agent (R32, R35). The flags of sr.fflags (R90, R98 to R100) come with each floating-point
result from Num.lean and Func.lean and are OR-ed in by `State.raise`. -/

namespace Sys2Proof.Machine

/-- The signed value of `w` bits. -/
def sInt (w x : Nat) : Int := if 2 ^ (w - 1) ≤ x % 2 ^ w then (x % 2 ^ w : Int) - 2 ^ w else (x % 2 ^ w : Int)

/-- Condition codes of ICMP and ICMPI on `w`-bit values (R64, R113). -/
def icond (code w a b : Nat) : Bool :=
  match code with
  | 0 => a == b
  | 1 => a != b
  | 2 => decide (sInt w a < sInt w b)
  | 3 => decide (sInt w a ≤ sInt w b)
  | 4 => decide (a < b)
  | 5 => decide (a ≤ b)
  | 6 => Nat.land a b != 0
  | 7 => decide (sInt w b < sInt w a)
  | 8 => decide (sInt w b ≤ sInt w a)
  | 9 => decide (b < a)
  | _ => decide (b ≤ a)

/-- Conditions of FCMP (R127). -/
def fcond (f : Fmt) (code a b : Nat) : Bool :=
  let x := f.decode a
  let y := f.decode b
  let nan := x.isNan || y.isNan
  match code with
  | 0 => !nan && Val.eq x y
  | 1 => nan || !(Val.eq x y)
  | 2 => !nan && Val.lt x y
  | 3 => !nan && (Val.lt x y || Val.eq x y)
  | 4 => nan
  | _ => !nan

/-- Conditions of BRC, a signed 64-bit test (R68). -/
def brcCond (c : BitVec 3) (x : W64) : Bool :=
  match c.toNat with
  | 0 => x == 0
  | 1 => x != 0
  | 2 => decide (x.toInt < 0)
  | 3 => decide (0 ≤ x.toInt)
  | 4 => decide (x.toInt ≤ 0)
  | _ => decide (0 < x.toInt)

/-- The rounding mode of vector floating-point operations (R32, R35). -/
def State.mode (s : State) : RMode := RMode.ofBits s.me.frm

end Sys2Proof.Machine
end

