-- ==== Sys2Proof/Machine/Operands.lean ====
section
/-! DEFINITION. Operand forms: reading every source of an instruction (R53, R54, R57), stream reads (R242 to R244), and
the two runners of register instructions, for a register destination and for a mask destination (R56, R103). -/

namespace Sys2Proof.Machine

-- Streams ------------------------------------------------------------------------------------------------------

/-- Positions of a stream (R242). -/
def Stream.total (q : Stream) : Nat := q.c0 * q.c1 * q.c2 * q.c3

/-- The address of the element at a position (R243). -/
def Stream.addr (q : Stream) (p : Nat) : W64 :=
  let i0 := p % q.c0
  let i1 := p / q.c0 % q.c1
  let i2 := p / (q.c0 * q.c1) % q.c2
  let i3 := p / (q.c0 * q.c1 * q.c2)
  q.base + BitVec.ofNat 64 i0 * q.s0 + BitVec.ofNat 64 i1 * q.s1 + BitVec.ofNat 64 i2 * q.s2 + BitVec.ofNat 64 i3 * q.s3

/-- The flags and the position after an advance by `n` (R243). -/
def Stream.advance (q : Stream) (n : Nat) : Stream :=
  let p := q.pos
  let p' := p + n
  let e := fun (m : Nat) => decide (p / m < p' / m)
  let eod := maskOf4 (e q.c0) (e (q.c0 * q.c1)) (e (q.c0 * q.c1 * q.c2)) (e q.total)
  { q with pos := p', eod := eod }
where
  /-- Four flags, flag 0 lowest. -/
  maskOf4 (b0 b1 b2 b3 : Bool) : BitVec 4 := BitVec.ofBool b3 ++ BitVec.ofBool b2 ++ BitVec.ofBool b1 ++ BitVec.ofBool b0

/-- The number of a stream field (R245). -/
def streamNo (r : Reg) : Nat := r.toNat - 120

/-- An advance past the end takes STREAM_OVERRUN (R243, R426). -/
def State.overrunGate (s : State) (n : Nat) (q : Stream) (k : Nat) : Except State Unit :=
  need (decide (q.pos + k ≤ q.total)) (s.trap 0x0E (BitVec.ofNat 64 (n + q.pos * 65536)))

/-- The element addresses of one read: one position, or one per active lane (R244). -/
def State.streamEas (s : State) (q : Stream) (vector : Bool) : List Ea :=
  if vector then (lanesOf s.em).map fun l => (l, q.addr (q.pos + l)) else [(0, q.addr q.pos)]

/-- One read that an instruction itself waits for: the size of its elements and their addresses. -/
abbrev Reading := Nat × List Ea

/-- Reads that the memory side refuses: the wave parks until the pager has answered, and executes the instruction again
(R435). -/
def State.nakGate (s : State) (rs : List Reading) : Except State Unit :=
  let c := s.cur.core
  let open_ := s.openPages c s.cur.agent s.nextId
  let refused := fun (r : Reading) => r.2.filterMap fun e => (s.laneCode c open_ .stream 1 e.2 r.1).map fun code =>
    ({ lane := e.1, va := e.2, data := 0, data2 := 0, code := code } : LaneReq)
  let fs := (rs.map fun r => (r.1, refused r)).filter fun r => !r.2.isEmpty
  if fs.isEmpty then .ok ()
  else
    .error ((fs.foldl (fun (s : State) r =>
      let (id, s) := s.fresh
      let f : Access := { id := id, cls := .ld, kind := .stream, size := r.1, scope := 1, dst := none, pc := s.pc,
                          word := s.cur.word, reqs := r.2 }
      (s.modMe fun a => { a with faults := a.faults ++ [f], held := a.held.or (some s.cur.part) }).due
        (.nakReport c s.cur.agent id)) s).park .mem)

/-- A read that finds uncorrectable data takes DATA_ERROR (R441; log 16). -/
def State.badGate (s : State) (r : Reading) : Except State Unit :=
  match r.2.filter fun e => s.laneBad s.cur.core .stream 1 e.2 r.1 with
  | e :: rest =>
    let s := s.metMany s.cur.core ((e :: rest).map Prod.snd) r.1
    .error (s.trap 0x07 (s.faultInfo 0x10) e.2 (eaMask (e :: rest)))
  | [] => .ok ()

/-- The checks of the reads that an instruction waits for, the element reads of its streams or SBIND's descriptor: alignment
and rights (R226), EMPTY lines (R179), requests (R13), a refusal by the memory side (R435), and uncorrectable data. Each check
is made for all of them before the next. -/
def State.readGate (s : State) (rs : List Reading) : Except State Unit := do
  rs.forM fun r => s.checkEa .r r.1 r.2
  s.linesGate (rs.flatMap fun r => s.linesAt r.1 r.2)
  rs.forM fun r => s.reqGate .r r.1 r.2
  s.nakGate rs
  rs.forM fun r => s.badGate r

/-- Every q register among the sources is bound, to a stream of the operand's width: else the word is illegal, which is found
at decode (R28, R57, R69, R244). -/
def State.streamsOk (s : State) (srcs : List Opnd) : Bool :=
  srcs.all fun p => !(isStream p.1) || (s.me.q.find? (streamNo p.1)).any fun q => decide (q.esize * 8 = p.2)

/-- The streams that sources name, with their numbers, in the order A, B, D (R57). -/
def State.streamsOf (s : State) (srcs : List Opnd) : List (Nat × Stream) :=
  (srcs.filter fun p => isStream p.1).filterMap fun p => (s.me.q.find? (streamNo p.1)).map fun q => (streamNo p.1, q)

/-- The checks of all stream reads of an instruction, before anything is read (R57, R226, R243, R244). -/
def State.checkStreams (s : State) (vector : Bool) (srcs : List Opnd) : Except State Unit :=
  match s.streamsOf srcs with
  | [] => .ok ()
  | q :: qs => do
    s.memGate
    (q :: qs).forM fun p => s.overrunGate p.1 p.2 (if vector then 64 else 1)
    s.readGate ((q :: qs).map fun p => (p.2.esize, s.streamEas p.2 vector))

/-- The values read from streams, by stream number; each list holds (lane, value). -/
abbrev Pulled := AList (List (Nat × Nat))

/-- Reads the elements of one stream and advances it (R57, R243, R244). -/
def State.pull (s : State) (vector : Bool) (got : Pulled) (p : Opnd) : State × Pulled :=
  let n := streamNo p.1
  match s.me.q.find? n with
  | none => (s, got)
  | some q =>
    let c := s.cur.core
    let (s, vs) := (s.streamEas q vector).foldl (fun (acc : State × List (Nat × Nat)) e =>
      let r := acc.1.lane c .stream 1 q.esize { lane := e.1, va := e.2, data := 0, data2 := 0 }
      (r.1, acc.2 ++ [(e.1, r.2)])) (s, [])
    let s := s.modMe fun a => { a with q := a.q.put n (q.advance (if vector then 64 else 1)) }
    (s, got.put n vs)

/-- Reads every stream among the sources, in the order A, B, D (R57): all checks come first. -/
def State.pullAll (s : State) (vector : Bool) (srcs : List Opnd) : Except State (State × Pulled) := do
  s.checkStreams vector srcs
  .ok ((srcs.filter fun p => isStream p.1).foldl (fun (acc : State × Pulled) p => acc.1.pull vector acc.2 p) (s, []))

-- Values -------------------------------------------------------------------------------------------------------

/-- The `w`-bit value of a source in a lane (R53, R54); a scalar is broadcast, lid is the lane, zero is 0. -/
def State.val (s : State) (got : Pulled) (lane : Nat) (p : Opnd) : Nat :=
  let a := s.me
  let n := p.1.toNat
  if isVec p.1 then
    (List.range (max 1 (p.2 / 32))).foldl (fun x i => x + (a.vget (n + i) lane).toNat * 2 ^ (32 * i)) 0 % 2 ^ p.2
  else if isScalar p.1 then
    (if p.2 = 128 then (s.sreg (n - 96)).toNat + (s.sreg (n - 95)).toNat * 2 ^ 64 else (s.sreg (n - 96)).toNat) % 2 ^ p.2
  else if isStream p.1 then ((got.getD (streamNo p.1) []).find? fun e => e.1 == lane).elim 0 Prod.snd
  else if isLid p.1 then lane % 2 ^ p.2
  else 0

/-- Writes a `w`-bit result to a vector register in one lane (R54). -/
def Agent.vput (a : Agent) (n w lane v : Nat) : Agent :=
  (List.range (max 1 (w / 32))).foldl (fun a i => a.vset (n + i) lane (BitVec.ofNat 32 (v / 2 ^ (32 * i)))) a

/-- Writes a `w`-bit result to a scalar destination, zero-extended; to zero it is discarded (R28, R54). -/
def State.putScalar (s : State) (d : Reg) (w v : Nat) : State :=
  if w = 128 then s.setPair d (BitVec.ofNat 64 v) (BitVec.ofNat 64 (v / 2 ^ 64)) else s.setS d (BitVec.ofNat 64 v)

/-- An operation on one element: the lane and the source values give the result and its flags. -/
abbrev LaneOp := Nat → List Nat → Nat × FFlags

/-- Writes the results of a register instruction (R56, R99, R103): once to a scalar or zero, or in every active lane.
Every source was read before. -/
def State.apply (s : State) (d : Reg) (dw : Nat) (srcs : List Opnd) (got : Pulled) (op : LaneOp) : State :=
  if isVec d then
    let rs := (lanesOf s.em).map fun l => (l, op l (srcs.map (s.val got l)))
    ((s.covered d dw).modMe fun a => rs.foldl (fun a r => a.vput d.toNat dw r.1 r.2.1) a).raise
      (rs.foldl (fun f r => f ||| r.2.2) 0)
  else
    let r := op 0 (srcs.map (s.val got 0))
    (s.putScalar d dw r.1).raise r.2

/-- The runner of instructions with a register destination: `srcs` are the sources with their widths, in the order A,
B, then D where D is a source; `ok` adds the entry's own limits. -/
def State.alu (s : State) (ok : Bool) (d : Reg) (dw : Nat) (srcs : List Opnd) (op : LaneOp) : Out :=
  finish do
    s.interlock srcs [(d, dw)]
    s.legal (aluOk d dw srcs && ok && s.streamsOk srcs) (d :: srcs.map Prod.fst)
    let (s, got) ← s.pullAll (isVec d) srcs
    .ok (s.apply d dw srcs got op).advance

/-- Replaces the bits of a mask under another mask (R56, R116). -/
def maskMerge (old new under : BitVec 64) : BitVec 64 := (old &&& ~~~under) ||| (new &&& under)

/-- Writes a condition to a mask for the active lanes (R56): per lane where a source is a vector, lid or a q register,
else the single result to every active lane. -/
def State.applyMask (s : State) (m : Nat) (srcs : List Opnd) (got : Pulled) (op : List Nat → Bool) : State :=
  let bits : BitVec 64 :=
    if namesLanes (srcs.map Prod.fst) then maskOf ((lanesOf s.em).filter fun l => op (srcs.map (s.val got l)))
    else if op (srcs.map (s.val got 0)) then s.em else 0
  s.modMe fun a => a.mset m (maskMerge (a.mget m) bits s.em)

/-- The runner of compares with a mask destination (R113, R114, R127). A copy context has no masks (R31). -/
def State.cmpMask (s : State) (ok : Bool) (m : Nat) (srcs : List Opnd) (op : List Nat → Bool) : Out :=
  finish do
    s.interlock srcs []
    need (maskDstOk m srcs && ok && s.streamsOk srcs && !(decide (s.me.role = .copy))) s.illegalOperand
    let (s, got) ← s.pullAll true srcs
    .ok (s.applyMask m srcs got op).advance

/-- The runner of ICMP and FCMP (R113, R127): `k` chooses a mask or a register destination. -/
def State.cmp (s : State) (k : BitVec 1) (d : Reg) (srcs : List Opnd) (op : List Nat → Bool) : Out :=
  if k = 0#1 then s.cmpMask true d.toNat srcs op
  else s.alu true d 32 srcs fun _ vs => (if op vs then 1 else 0, 0)

end Sys2Proof.Machine
end

