-- ==== Sys2Proof/Machine/Streams.lean ====
section
/-! DEFINITION. The STREAM group (R242 to R245). -/

namespace Sys2Proof.Machine

/-- A stream descriptor (R242); none where it is refused. -/
def Stream.ofBytes (bs : List Byte) : Option Stream :=
  let f := fun (o n : Nat) => leNat ((bs.drop o).take n)
  let c := fun (k : Nat) => f (8 + 4 * k) 4
  let st := fun (k : Nat) => BitVec.ofNat 64 (f (24 + 8 * k) 8)
  let q : Stream := { base := BitVec.ofNat 64 (f 0 8), c0 := c 0, c1 := c 1, c2 := c 2, c3 := c 3, s0 := st 0, s1 := st 1,
                      s2 := st 2, s3 := st 3, esize := f 56 1, pos := 0, eod := 0 }
  if q.c0 ≠ 0 ∧ q.c1 ≠ 0 ∧ q.c2 ≠ 0 ∧ q.c3 ≠ 0 ∧ (q.esize = 4 ∨ q.esize = 8) ∧ f 57 7 = 0 ∧ q.total ≤ 2 ^ 48 then some q
  else none

/-- The little-endian bytes of a number. -/
def bytesOf (v n : Nat) : List Byte := leBytes v n

/-- SBIND (R242, R245): reads the descriptor as a load of 64 bytes and binds it, replacing any earlier binding. -/
def execSbind (a : BitVec 7) (q : BitVec 2) (s : State) : Out :=
  finish do
    s.trapGate s.parkPoint [(a, 64)]
    s.notCopy
    need (isSz a) s.illegalOperand
    s.memGate
    s.interlock [(a, 64)] []
    let va := s.sval a
    s.readGate [(64, [(0, va)])]
    let (s, v) := s.lane s.cur.core .stream 1 64 { lane := 0, va := va, data := 0, data2 := 0 }
    match Stream.ofBytes (bytesOf v 64) with
    | some st => .ok (s.modMe fun x => { x with q := x.q.put q.toNat st }).advance
    | none => .error s.illegalOperand

/-- SSKIP (R243, R245): an advance without a read. -/
def execSskip (a : BitVec 7) (q : BitVec 2) (s : State) : Out :=
  finish do
    s.interlock [(a, 64)] []
    s.notCopy
    need (isSz a) s.illegalOperand
    match s.me.q.find? q.toNat with
    | none => .error s.illegalOperand
    | some st =>
      let n := (s.sval a).toNat
      s.overrunGate q.toNat st n
      .ok (s.modMe fun x => { x with q := x.q.put q.toNat (st.advance n) }).advance

/-- A read of a bound stream's state into a scalar (R245). -/
def State.streamRead (s : State) (q : BitVec 2) (d : Reg) (f : Stream → W64) : Out :=
  finish do
    s.interlock [] [(d, 64)]
    s.notCopy
    need (isSz d) s.illegalOperand
    match s.me.q.find? q.toNat with
    | none => .error s.illegalOperand
    | some st => .ok (s.setS d (f st)).advance

def execSflag (q : BitVec 2) (d : BitVec 7) (s : State) : Out := s.streamRead q d fun st => st.eod.setWidth 64
def execSpos (q : BitVec 2) (d : BitVec 7) (s : State) : Out := s.streamRead q d fun st => BitVec.ofNat 64 st.pos

/-- SUNB: unbinds; no effect on an unbound stream (R245). -/
def execSunb (q : BitVec 2) (s : State) : Out :=
  finish do
    s.notCopy
    .ok (s.modMe fun x => { x with q := x.q.del q.toNat }).advance

end Sys2Proof.Machine
end

