-- ==== Sys2Proof/Machine/Desc.lean ====
section
/-! DEFINITION. Reads of descriptors, records and codebooks from the scratchpad at issue (R264, R486), and little-endian
fields of what was read. -/

namespace Sys2Proof.Machine

/-- A field of `n` bytes at byte `o` (R3). -/
def fieldAt (bs : List Byte) (o n : Nat) : Nat := leNat ((bs.drop o).take n)

/-- The lowest byte of a pool range that lies in an uncorrectable word (R486). -/
def Core.firstBad (x : Core) (off n : Nat) : Option Nat :=
  ((eccWords off n).find? fun w => x.badPool.contains w).map fun w => max off (w * 32)

/-- Uncorrectable data in a range read at issue take DATA_ERROR (R486). -/
def State.dataGate (s : State) (off n : Nat) : Except State Unit :=
  match s.myCore.firstBad off n with
  | some o => .error (s.dataError (ownPool o))
  | none => .ok ()

/-- The place of a descriptor of `n` bytes: aligned, and wholly in the scratchpad (R264). -/
def State.descPlace (s : State) (a : W64) (align n : Nat) : Except State Nat := do
  let off := a.toNat % 2 ^ 23
  need (decide (off % align = 0)) (s.alignTrap (ownPool off))
  need (decide (a.toNat < 2 ^ 23) && s.myCore.inScratch off n) (s.memFault (ownPool off) 0)
  .ok off

/-- Reads `n` bytes of the scratchpad at issue: it waits on EMPTY lines (R179), in a copy context for earlier copies (R270), and
takes DATA_ERROR (R486). -/
def State.poolBytes (s : State) (off n : Nat) : Except State (List Byte) := do
  s.emptyGate n [(0, ownPool off)]
  s.copyOrderGate .r n [(0, ownPool off)]
  s.dataGate off n
  .ok (s.myCore.pool.bytes off n)

end Sys2Proof.Machine
end

