-- ==== Sys2Proof/Machine/Copy.lean ====
section
/-! DEFINITION. The COPY group (R259 to R279): the command word, the box descriptor, the checks at issue in the order of
R266, what a copy does at issue (R267), and CPQRY. The data move later, a unit at a time (EvCopy.lean). -/

namespace Sys2Proof.Machine

-- The command word (R262, R263) ------------------------------------------------------------------------------------

def cmdRm (w : W64) : BitVec 2 := w.extractLsb' 4 2
def cmdSat (w : W64) : Bool := w.getLsbD 6
def cmdSr (w : W64) : Bool := w.getLsbD 7
def cmdMark (w : W64) : Bool := w.getLsbD 10
def cmdBar (w : W64) : Bool := w.getLsbD 11
def cmdSig (w : W64) : Bool := w.getLsbD 12
def cmdTfmt (w : W64) : Nat := w.toNat / 2 ^ 20 % 16

/-- The reserved bits of the command word: [63:24], [19], [15:13], [9:8]. -/
def cmdReserved (w : W64) : Bool := (w &&& 0xFFFFFFFFFF08E300) == 0

/-- Narrowing conversions, which alone take a rounding mode, saturation and stochastic rounding (R263). -/
def convNarrows (conv : Nat) : Bool := conv == 1 || conv == 2 || conv == 5

/-- The command word of a copy instruction `fn` is legal (R262, R263, R271, R275). -/
def cmdOk (fn : Nat) (w : W64) : Bool :=
  let conv := cmdConv w
  cmdReserved w && decide (conv < 8) && decide (1 ≤ cmdScope w ∧ cmdScope w ≤ 4) &&
  (if convNarrows conv then decide ((cmdRm w).toNat < 2) && (!(cmdSr w) || cmdRm w == 0)
   else cmdRm w == 0 && !(cmdSat w) && !(cmdSr w)) &&
  (!(cmdMark w) || fn == 0 || fn == 2 || fn == 4) &&
  (!(cmdSig w) || fn == 1 || fn == 6) &&
  (cmdTfmt w == 0 || fn == 3 || fn == 4) &&
  (conv != 6 || fn == 0 || fn == 4 || fn == 6) && (conv != 7 || fn == 1 || fn == 3 || fn == 6) &&
  (fn != 2 || cmdScope w == 1)

-- The box (R264, R265) ----------------------------------------------------------------------------------------------

/-- A signed number of 48 bits. -/
def signed48 (n : Nat) : Int := if 2 ^ 47 ≤ n then (n : Int) - 2 ^ 48 else n

def Box.ofBytes (bs : List Byte) : Box :=
  let f := fieldAt bs
  let n := (List.range 5).map fun k => f (28 + 2 * k) 2
  let s := (List.range 4).map fun k => signed48 (f (40 + 6 * k) 6)
  { gaddr := BitVec.ofNat 64 (f 0 8), key := BitVec.ofNat 64 (f 8 8), soff := f 16 4, spitch := f 20 4, ndim := f 24 1,
    esize := f 25 1, pipe := f 26 1, n := n, strides := s, reserved := f 27 1 == 0 && f 38 2 == 0 }

/-- The fields that every copy requires (R264, R265); `pipes` says whether PIPE is used. -/
def Box.fieldsOk (b : Box) (pipes : Bool) : Bool :=
  b.reserved && decide (1 ≤ b.ndim ∧ b.ndim ≤ 5) &&
  ((List.range 5).all fun k => decide (k < b.ndim) == decide (b.n.getD k 0 ≠ 0)) &&
  ((List.range 4).all fun k => decide (k + 1 < b.ndim) || decide (b.strides.getD k 0 = 0)) &&
  (if pipes then decide (b.pipe < 32) else decide (b.pipe = 0)) && decide (b.soff < 2 ^ 23 ∧ b.spitch < 2 ^ 23)

/-- The element size under the conversion (R265, R85). -/
def Box.sizeOk (b : Box) (conv : Nat) : Bool :=
  decide (b.esize ≤ 4) && decide (conv = 0 ∨ b.esize = 0) && decide (conv ≠ 0 ∨ b.esize ≠ 4 ∨ b.ext 0 % 2 = 0) &&
  decide (conv < 6 ∨ b.ext 0 % 4 = 0)

/-- A scratchpad side with rows of `rb` bytes (R265). -/
def Box.scrOk (b : Box) (rb : Nat) : Bool :=
  decide (rb ≤ b.spitch ∧ b.spitch % 16 = 0 ∧ b.rows * rb ≤ 2 ^ 23)

/-- The first byte of rows of `rb` bytes from `off` on that lies outside the scratchpad (R266). -/
def Core.firstOutside (x : Core) (off pitch rows rb : Nat) : Option Nat :=
  if off < x.regB then some off
  else if off + (rows - 1) * pitch + rb ≤ x.scrB then none
  else
    let r := if x.scrB < off + rb then 0 else (x.scrB - off - rb) / pitch + 1
    some (max (off + r * pitch) x.scrB)

/-- Source rows of `rs` bytes and destination rows of `rd` bytes with one pitch share a byte (R275). -/
def rowsOverlap (src dst pitch rs rd rows : Nat) : Bool :=
  let d := (dst : Int) - src
  let k := max ((d - rs) / (pitch : Int) + 1) (1 - (rows : Int))
  decide (k * pitch < d + rd ∧ k ≤ (rows : Int) - 1)

-- What an instruction moves --------------------------------------------------------------------------------------------

/-- The side of a copy in the scratchpad: whether it is the source, and its first byte (R275). -/
def scrSides (fn : Nat) (b : Box) : List (Bool × Nat) :=
  match fn with
  | 0 | 4 => [(false, b.soff)]
  | 1 | 3 => [(true, b.soff)]
  | 2 => [(true, b.gaddr.toNat % 2 ^ 23), (false, b.soff)]
  | _ => []

/-- The check of scratchpad sides, alignment first (R264, R266 step 3, R275); the source side of CPYSS before its destination
(log 59). -/
def State.scrGate (s : State) (fn : Nat) (b : Box) (bits : Nat × Nat) : Except State Unit := do
  need (fn != 2 || decide (b.gaddr.toNat / 2 ^ 23 = 0xFE * 2 ^ 33)) (s.memFault b.gaddr 0)
  (scrSides fn b).forM fun p => do
    need (decide (p.2 % 16 = 0)) (s.alignTrap (ownPool p.2))
    match s.myCore.firstOutside p.2 b.spitch b.rows (byteOf (b.ext 0) (if p.1 then bits.1 else bits.2)) with
    | some o => .error (s.memFault (ownPool o) 0)
    | none => .ok ()

/-- A global side: alignment of address and strides (R265), the window of every row (R266 step 4), and the scope that
classes 5 and 6 need (R271), row by row (log 59). -/
def State.globGate (s : State) (nd : Need) (b : Box) (bits scope : Nat) : Except State Unit := do
  let size := if bits < 8 then 1 else bits / 8
  need (decide (b.gaddr.toNat % size = 0) && b.strides.all fun x => decide (x % (size : Int) = 0)) (s.alignTrap b.gaddr)
  let rb := byteOf (b.ext 0) bits
  (List.range b.rows).forM fun r => do
    let a := b.glob r
    let last := a + BitVec.ofNat 64 (rb - 1)
    match (s.ctx s.myCtx).translate nd a, (s.ctx s.myCtx).translate nd last with
    | some x, some y => need (decide (scope = 4) || (iaClass x ≠ 5 && iaClass x ≠ 6 && iaClass y ≠ 5 && iaClass y ≠ 6)) s.illegalOperand
    | _, _ => .error (s.memFault a 0)

/-- PIPE_ERROR of an instruction (R335): reason, pipe and FN. -/
def pipeInfo (reason pipe fn code : Nat) : W64 := BitVec.ofNat 64 (reason + pipe * 2 ^ 8 + fn * 2 ^ 16 + code * 2 ^ 24)
def State.pipeError (s : State) (reason pipe fn : Nat) : State := s.trap 0x0F (pipeInfo reason pipe fn 0)

/-- The plan and the stage of the issuing core (R12, R331). -/
def State.planOf (s : State) : Option (Nat × Nat × PlanSt) :=
  match s.myCore.run with
  | .stage pl st => (s.plans.find? pl).map fun p => (pl, st, p)
  | _ => none

/-- The unique number of the issuing workgroup. -/
def State.myUid (s : State) : Nat := (s.myCore.wgs.find? s.me.wg).elim 0 Wg.uid

/-- The pipe checks of PPUSH and PPULL, in the order of R276; answers the plan and the ticket's slot. -/
def State.pipeGate (s : State) (fn : Nat) (b : Box) (cmd : W64) (bits : Nat × Nat) : Except State (Nat × SlotAt) := do
  let err := fun (r : Nat) => s.pipeError r b.pipe fn
  match s.planOf with
  | none => .error (err 0x01)
  | some (pl, st, p) =>
    match p.pipes[b.pipe]? with
    | none => .error (err 0x01)
    | some q =>
      need (decide (st = if fn = 3 then q.producer else q.consumer)) (err 0x02)
      need (decide (cmdScope cmd = q.scope)) (err 0x06)
      need (decide (cmdTfmt cmd = q.efmt)) (err 0x05)
      need (decide (b.ext 0 = q.cols ∧ b.rows = q.rows)) (err 0x05)
      need (decide (b.rows * byteOf (b.ext 0) (if fn = 3 then bits.2 else bits.1) ≤ q.slotSize)) (err 0x05)
      match q.tickets.find? fun t => t.t == b.gaddr.toNat with
      | none => .error (err 0x03)
      | some t =>
        let mine := t.wg == s.myUid
        let held : Bool := if fn = 3 then t.st == .reserved
          else t.st == .delivered && !(q.flying.any fun f => f.1 == t.t)
        need (mine && held) (err 0x03)
        .ok (pl, t.at_)

/-- The signal of a copy: alignment, rights and the scope that classes 5 and 6 need (R271, R275). -/
def State.sigGate (s : State) (sig : Option W64) (scope : Nat) : Except State Unit :=
  match sig with
  | none => .ok ()
  | some va => do
    need (decide (va.toNat % 16 = 0)) (s.alignTrap va)
    match (s.ctx s.myCtx).translate .rw va with
    | none => .error (s.memFault va 0)
    | some ia => need (decide (scope = 4) || (iaClass ia ≠ 5 && iaClass ia ≠ 6)) s.illegalOperand

/-- The barrier of a copy, landing or drain: its name (R248) and its owner. -/
def State.barNameGate (s : State) (bar : Option W64) : Except State Unit :=
  match bar with
  | none => .ok ()
  | some name => do
    let p ← s.barName name
    s.barOwner name p false
    let _ ← s.barRead p
    .ok ()

/-- The range of the expectation that it posts (R253). -/
def State.barRangeGate (s : State) (bar : Option W64) (n : Nat) : Except State Unit :=
  match bar with
  | none => .ok ()
  | some name => need (s.barFits s.cur.core (barAt name) n) s.illegalOperand

/-- Posts the counted bytes (R267). -/
def State.post (s : State) (bar : Option W64) (n : Nat) : State :=
  match bar with
  | none => s
  | some name => s.barExpect s.cur.core (barAt name) n

/-- Counts bytes as landed (R253, R268). -/
def State.landed (s : State) (c : Nat) (bar : Option W64) (n : Nat) (failed : Bool) : State :=
  match bar with
  | none => s
  | some name => s.barLand c (barAt name) n failed

/-- The destination lines of a box in the scratchpad (R267). -/
def Box.lines (b : Box) (rb : Nat) : List Nat :=
  (List.range b.rows).foldl (fun l r => (linesOf (b.soff + r * b.spitch) rb).foldl (fun l x => insertNat x l) l) []

-- Issue ------------------------------------------------------------------------------------------------------------------

/-- The register fields of a copy (R275). -/
def copyRegsOk (b a d : Reg) : Bool := isSz a && isSz b && (isZero d || evenScalar d)

/-- A deferred trap of a copy is taken at the next COPY instruction (R273, R428). -/
def State.copyGate (s : State) (reads : List Opnd) : Except State Unit := s.trapGate (fun t => t.at_ == .copy) reads

/-- What every COPY instruction with a command word checks before its descriptor (R44, R262, R264, R275). -/
def State.copyHead (s : State) (size : Nat) (b a d : Reg) (ok : W64 → Bool) : Except State Nat := do
  let reads : List Opnd := [(a, 64), (b, 64)] ++ if isScalar d then [(d, 128)] else []
  s.copyGate reads
  s.onlyCopy
  need (copyRegsOk b a d) s.illegalOperand
  s.interlock reads []
  let off ← s.descPlace (s.sval a) 64 size
  let w := s.sval b
  need (ok w && (isScalar d || !(cmdBar w || cmdSig w))) s.illegalOperand
  .ok off

/-- The barrier and the signal of a copy (R275). -/
def State.copyBar (s : State) (w : W64) (d : Reg) : Option W64 := if cmdBar w then some (s.sval d) else none
def State.copySig (s : State) (w : W64) (d : Reg) : Option W64 := if cmdSig w then some (s.sval (d + 1)) else none

/-- Starts a copy: counts it on CP, posts its bytes, marks its lines (R260, R267). -/
def State.startCopy (s : State) (o : CopyOp) (mark : List Nat) (first : Nat → Nat → Instr) : State :=
  let (id, s) := s.fresh
  let c := s.cur.core
  let o : CopyOp := { o with id := id, agent := s.cur.agent, word := s.cur.word, pc := s.pc }
  let s := (s.count .eng id).post o.bar o.due
  let s := s.modMyCore fun x => { x.mark id mark with copies := x.copies ++ [o] }
  s.due (first c id)

/-- The checks of the copies with a box, in their order (R266): what starts when all hold, and the lines it marks (R267). The
overlap of CPYSS comes before the scratchpad sides, the signal between the barrier's name and its range (log 59). -/
def State.copyChecks (s : State) (fn : Nat) (b a d : Reg) : Except State (CopyOp × List Nat) := do
  let pipes := fn == 3 || fn == 4
  let off ← s.copyHead (if fn = 6 then 128 else 64) b a d (cmdOk fn)
  let w := s.sval b
  let bs ← s.poolBytes off (if fn = 6 then 128 else 64)
  let box := Box.ofBytes bs
  let conv := cmdConv w
  need (box.fieldsOk pipes && box.sizeOk conv) s.illegalOperand
  let bits := convBits conv box.esize
  let box2 : Option Box := if fn = 6 then some (Box.ofBytes (bs.drop 64)) else none
  match box2 with
  | some x =>
    need (x.fieldsOk false && x.sizeOk conv && x.ndim == box.ndim && x.n == box.n && x.soff == 0 && x.spitch == 0 && x.key == 0) s.illegalOperand
  | none => pure ()
  let rb := fun (isSrc : Bool) => byteOf (box.ext 0) (if isSrc then bits.1 else bits.2)
  need ((scrSides fn box).all fun p => box.scrOk (rb p.1)) s.illegalOperand
  need (fn != 2 || decide (box.gaddr.toNat / 2 ^ 23 ≠ 0xFE * 2 ^ 33) ||
    !(rowsOverlap (box.gaddr.toNat % 2 ^ 23) box.soff box.spitch (rb true) (rb false) box.rows)) s.illegalOperand
  s.scrGate fn box bits
  let at_ : Nat × Option SlotAt ← (if pipes then (s.pipeGate fn box w bits).map fun p => (p.1, some p.2) else .ok (0, none))
  if fn = 0 ∨ fn = 6 then s.globGate .r box bits.1 (cmdScope w)
  if fn = 1 then s.globGate .w box bits.2 (cmdScope w)
  match box2 with
  | some x => s.globGate .w { x with esize := box.esize } bits.2 (cmdScope w)
  | none => pure ()
  let bar := s.copyBar w d
  let sig := s.copySig w d
  let counted := box.rows * rb (fn == 1 || fn == 3 || fn == 6)
  s.barNameGate bar
  s.sigGate sig (cmdScope w)
  s.barRangeGate bar counted
  s.roomGate .eng
  let o : CopyOp := { id := 0, agent := 0, fn := fn, cmd := w, box := box, box2 := box2, bar := bar, sig := sig,
                      due := counted, plan := at_.1, ticket := box.gaddr.toNat, slotAt := at_.2, word := 0, pc := 0 }
  .ok (o, if cmdMark w then box.lines (rb false) else [])

/-- The runner of the copies with a box (R266, R267). -/
def State.copy (s : State) (fn : Nat) (b a d : Reg) : Out :=
  finish do
    let p ← s.copyChecks fn b a d
    .ok (s.startCopy p.1 p.2 fun c id => .copyLand c id).advance

def execCpyin (b a d : BitVec 7) (s : State) : Out := s.copy 0 b a d
def execCpyout (b a d : BitVec 7) (s : State) : Out := s.copy 1 b a d
def execCpyss (b a d : BitVec 7) (s : State) : Out := s.copy 2 b a d
def execPpush (b a d : BitVec 7) (s : State) : Out := s.copy 3 b a d
def execPpull (b a d : BitVec 7) (s : State) : Out := s.copy 4 b a d
def execCpyg (b a d : BitVec 7) (s : State) : Out := s.copy 6 b a d

/-- CPQRY (R277). -/
def execCpqry (a d : BitVec 7) (s : State) : Out :=
  finish do
    s.copyGate []
    s.onlyCopy
    need (isSz d && decide (a.toNat < 4)) s.illegalOperand
    s.interlock [] [(d, 64)]
    let me := s.me
    let susp := (s.myCore.copies.filter fun o => o.agent == s.cur.agent && o.suspended.isSome).length
    let (v, s) : W64 × State := match a.toNat with
      | 0 => (BitVec.ofNat 64 (me.eng.length + susp * 64), s)
      | 1 => (me.cflags.setWidth 64, s)
      | 2 => (me.cflags.setWidth 64, s.modMe fun x => { x with cflags := 0 })
      | _ => (me.cfault, s.modMe fun x => { x with cfault := 0 })
    .ok (s.setS d v).advance

-- Collective steps (R278, R279) ---------------------------------------------------------------------------------------------

def CollDesc.ofBytes (bs : List Byte) : CollDesc :=
  let f := fieldAt bs
  { src := BitVec.ofNat 64 (f 0 8), dst := BitVec.ofNat 64 (f 8 8), count := f 16 8, kind := f 24 1, dtype := f 25 1,
    redop := f 26 1, step := f 28 2, group := f 32 4, reserved := f 27 1 == 0 && f 30 2 == 0 && f 36 28 == 0 }

/-- The group of an issuing die, where it is defined and the die is its member at its rank (R278). -/
def State.groupOf (s : State) (die g : Nat) : Option Group :=
  match (s.die die).groups.find? g with
  | some x =>
    if 2 ≤ x.members.length ∧ x.members.length ≤ 1024 ∧ x.members[x.rank]? = some (s.devNum, die) then some x else none
  | none => none

/-- The rights of a chunk's bytes (R266 step 4); sr.eaddr of a chunk without them is its first byte (log 59). -/
def State.chunkGate (s : State) (nd : Need) (va : W64) (size : Nat) (ch : Nat × Nat) : Except State Unit :=
  if ch.2 = 0 then .ok ()
  else
    let a := va + BitVec.ofNat 64 (ch.1 * size)
    let n := ch.2 * size
    let pts := (List.range ((n - 1) / 2 ^ 21 + 1)).map (fun k => a + BitVec.ofNat 64 (k * 2 ^ 21)) ++ [a + BitVec.ofNat 64 (n - 1)]
    need (pts.all fun p => ((s.ctx s.myCtx).translate nd p).isSome) (s.memFault a 0)

/-- The checks of COLL (R266, R278, R279): the step that waits when all hold. -/
def State.collChecks (s : State) (b a d : Reg) : Except State CopyOp := do
  let off ← s.copyHead 64 b a d fun w =>
    cmdReserved w && cmdConv w == 0 && cmdRm w == 0 && !(cmdSat w) && !(cmdSr w) && !(cmdMark w) && cmdTfmt w == 0 && cmdScope w == 4
  let w := s.sval b
  let bs ← s.poolBytes off 64
  let x := CollDesc.ofBytes bs
  let die := dieOf s.cur.core
  match s.groupOf die x.group with
  | none => .error s.illegalOperand
  | some g =>
    let n := g.members.length
    need (x.reserved && decide (1 ≤ x.count ∧ x.count ≤ 2 ^ 40 ∧ x.kind < 3 ∧ x.dtype < 4) &&
      (x.kind == 2 || decide (x.redop < 3)) && decide (x.step < x.steps n)) s.illegalOperand
    let size := x.esize
    need (decide (x.src.toNat % size = 0)) (s.alignTrap x.src)
    need (decide (x.dst.toNat % size = 0)) (s.alignTrap x.dst)
    let (snd, rcv) := x.chunks n g.rank
    s.chunkGate .r (x.sendFrom n) size (x.chunk n snd)
    if x.copiesOwn then s.chunkGate .w x.dst size (x.chunk n snd)
    if x.reduces n then s.chunkGate .r x.src size (x.chunk n rcv)
    s.chunkGate .w x.dst size (x.chunk n rcv)
    let bar := s.copyBar w d
    let sig := s.copySig w d
    let counted := (x.chunk n snd).2 * size
    s.barNameGate bar
    s.sigGate sig 4
    s.barRangeGate bar counted
    s.roomGate .eng
    .ok { id := 0, agent := 0, fn := 5, cmd := w, box := Box.ofBytes [], coll := some x, bar := bar, sig := sig,
          due := counted, word := 0, pc := 0 }

/-- COLL (R278 to R280): the step waits in the die's collective unit until COLL_START. -/
def execColl (b a d : BitVec 7) (s : State) : Out :=
  finish do
    let o ← s.collChecks b a d
    .ok (s.startCopy o [] fun c id => .collStart c id).advance

end Sys2Proof.Machine
end

