-- ==== Sys2Proof/Machine/EvCopy.lean ====
section
/-! DEFINITION. The events of copies, landings and collective steps (R268 to R274, R279 to R281): a unit that moves, the
visible point, the end on an unresolvable fault, and the steps of a collective. An internal event that cannot happen
yet becomes due again. -/

namespace Sys2Proof.Machine

/-- An event of the device that cannot happen yet stays due. -/
def State.notYet (s : State) (e : Instr) : Out := .next (s.due e)

/-- A unit: its elements and its bytes at the source and at the destination (R268). -/
structure CUnit where
  n : Nat
  sb : Nat
  db : Nat
  deriving DecidableEq, Repr

/-- The unit at the copy's position: as many elements as stay in one line on both sides, at least one group. -/
def State.unitAt (s : State) (o : CopyOp) : CUnit :=
  if o.fn = 8 then
    let n := (o.land.getD o.row (0, [])).2.length
    ⟨n, n, n⟩
  else
    let (sb, db) := o.bits
    let g := if sb = 6 ∨ db = 6 then 4 else if sb = 4 then 2 else 1
    let fit := fun (a : CAt) (bits : Nat) => a.room * 8 / bits / g * g
    let n := min (o.box.ext 0 - o.col) (max g (min (fit (s.srcAt o o.row o.col) sb) (fit (s.dstAt o o.row o.col) db)))
    ⟨n, byteOf n sb, byteOf n db⟩

/-- The position after a unit. -/
def CopyOp.step (o : CopyOp) (n : Nat) : CopyOp :=
  let o : CopyOp := if o.fn = 8 ∨ o.box.ext 0 ≤ o.col + n then { o with row := o.row + 1, col := 0 } else { o with col := o.col + n }
  { o with moved := decide (o.rowCount ≤ o.row) }

-- Access by the engine ----------------------------------------------------------------------------------------------

/-- The pieces of a range, a line each: the address to report, a free value for a vault slot, which has no virtual address
(log 26), the intermediate address and the length. -/
def State.pieces (s : State) (ctx : Nat) (nd : Need) (a : CAt) (n : Nat) : List (W64 × Option Nat × Nat) :=
  let cut := fun (x : Nat) => (List.range ((x % 128 + n + 127) / 128)).map fun i =>
    let lo := max x ((x / 128 + i) * 128)
    (lo, min (x + n) ((x / 128 + i + 1) * 128) - lo)
  match a with
  | .va v => (cut v.toNat).map fun p => (BitVec.ofNat 64 p.1, (s.ctx ctx).translate nd (BitVec.ofNat 64 p.1), p.2)
  | .ia x => (cut x).map fun p => (Config.freeWord s.tick 6, some p.1, p.2)
  | _ => []

/-- What stops an access of the engine: the address and the code of R273; an address that no window maps any more is
out of range. -/
def State.engineNak (s : State) (c : Nat) (nd : Need) (scope : Nat) (ps : List (W64 × Option Nat × Nat)) :
    Option (W64 × BitVec 8) :=
  let ctx := s.ctxOf c
  let write := nd == .w
  (ps.filterMap fun p =>
    match p.2.1 with
    | none => some (p.1, 0x03#8)
    | some ia =>
      if !write && decide (scope < 3) && s.hit c ctx (ia / 128) then none
      else (s.nak ctx ia write).map fun code => (p.1, code)).head?

/-- Uncorrectable data in what the engine reads. -/
def State.engineBad (s : State) (c scope : Nat) (ps : List (W64 × Option Nat × Nat)) : Option W64 :=
  (ps.filterMap fun p =>
    match p.2.1 with
    | some ia => if s.readBad c (s.ctxOf c) scope ia p.2.2 true then some p.1 else none
    | none => none).head?

/-- Reads pieces at a scope (R270); from DEV on they bypass the caches, behind the write-back of the core's own bytes, and
reach their home slices block by block (R189). -/
def State.engineRead (s : State) (c scope : Nat) (ps : List (W64 × Option Nat × Nat)) : State × List Byte :=
  let as := ps.filterMap fun p => p.2.1.map fun ia => (ia, p.2.2)
  let s := if scope < 3 then s
    else ((as.map fun p => p.1 / 128).eraseDups.foldl (fun (s : State) l => s.flushLine c l) s).askRd (s.ctxOf c)
      (as.map fun p => (s.home p.1, p.2))
  ps.foldl (fun (acc : State × List Byte) p =>
    match p.2.1 with
    | some ia =>
      let r := acc.1.memRead c (acc.1.ctxOf c) scope ia p.2.2
      (r.1, acc.2 ++ leBytes r.2 p.2.2)
    | none => acc) (s, [])

/-- Writes pieces through to the place of a scope (R270). -/
def State.engineWrite (s : State) (c scope : Nat) (ps : List (W64 × Option Nat × Nat)) (bs : List Byte) : State :=
  (ps.foldl (fun (acc : State × List Byte) p =>
    match p.2.1 with
    | some ia => (acc.1.memWrite c (acc.1.ctxOf c) scope ia p.2.2 (leNat (acc.2.take p.2.2)), acc.2.drop p.2.2)
    | none => (acc.1, acc.2.drop p.2.2)) (s, bs)).1

/-- The uncorrectable words of what the engine read are met (R440, R443). -/
def State.metRead (s : State) (c : Nat) (ps : List (W64 × Option Nat × Nat)) : State :=
  s.metAll (s.ctxOf c) (ps.flatMap fun p => match p.2.1 with
    | some ia => (eccWords (s.home ia) p.2.2).filter fun w => s.bad.contains w
    | none => []).eraseDups

-- Conversion (R263) -------------------------------------------------------------------------------------------------

def groupsOf (k : Nat) (bs : List Byte) : List (List Byte) := (List.range (bs.length / k)).map fun i => (bs.drop (i * k)).take k

/-- The conversion of one element. -/
def convElem (conv : Nat) (mode : RMode) (sat : Bool) (c : Nat) : Nat × FFlags :=
  match conv with
  | 1 => Fmt.e4m3.round mode sat (Fmt.bf16.decode c)
  | 2 => Fmt.e5m2.round mode sat (Fmt.bf16.decode c)
  | 3 => (Fmt.e4m3.widen .bf16 c, 0)
  | 4 => (Fmt.e5m2.widen .bf16 c, 0)
  | _ => Fmt.bf16.round mode sat (Fmt.f32.decode c)

/-- The bytes of a unit after conversion, with the flags they raise (R90, R97, R261). -/
def CopyOp.convert (o : CopyOp) (bs : List Byte) : List Byte × FFlags :=
  let conv := cmdConv o.cmd
  if o.fn = 8 ∨ conv = 0 then (bs, 0)
  else if conv = 6 then
    ((groupsOf 3 bs).flatMap fun g => (List.range 4).map fun i => BitVec.ofNat 8 (leNat g / 64 ^ i % 64), 0)
  else if conv = 7 then
    ((groupsOf 4 bs).flatMap fun g => leBytes ((List.range 4).foldl (fun w i => w + (g.getD i 0).toNat % 64 * 64 ^ i) 0) 3, 0)
  else
    let es := groupsOf (o.bits.1 / 8) bs
    let r := ((List.range es.length).zip es).map fun p =>
      let mode := if cmdSr o.cmd then RMode.sr (ckg o.box.key (BitVec.ofNat 32 o.row) (BitVec.ofNat 32 (o.col + p.1)))
        else RMode.ofBits (cmdRm o.cmd)
      convElem conv mode (cmdSat o.cmd) (leNat p.2)
    (r.flatMap fun x => leBytes x.1 (o.bits.2 / 8), r.foldl (fun f x => f ||| x.2) 0)

-- Moving ------------------------------------------------------------------------------------------------------------

def State.copyOp? (s : State) (c op : Nat) : Option CopyOp := (s.core c).copies.find? fun o => o.id == op
def State.putCopy (s : State) (c : Nat) (o : CopyOp) : State :=
  s.modCore c fun (x : Core) => { x with copies := updateFirst (fun (p : CopyOp) => p.id == o.id) (fun _ => o) x.copies }
def State.dropCopy (s : State) (c op : Nat) : State :=
  s.modCore c fun (x : Core) => { x with copies := x.copies.filter fun p => p.id != op }

/-- Source bytes are counted, not destination bytes (R267). -/
def CopyOp.countsSource (o : CopyOp) : Bool := o.fn == 1 || o.fn == 3 || o.fn == 6 || o.fn == 5

/-- The scope of global accesses; a landing has none. -/
def CopyOp.scope (o : CopyOp) : Nat := cmdScope o.cmd

/-- What the unit at a copy's position meets. -/
inductive Meets where
  | hold
  | fault (va : W64) (code : BitVec 8)
  | go
  deriving DecidableEq, Repr

/-- A source line EMPTY, an older copy, or the lack of a free memory request holds the unit; the memory side or bad data stop
it (R13, R179, R260, R270, R272, R273). -/
def State.unitMeets (s : State) (c : Nat) (o : CopyOp) : Meets :=
  let u := s.unitAt o
  let x := s.core c
  let ctx := s.ctxOf c
  let src := s.srcAt o o.row o.col
  let dst := s.dstAt o o.row o.col
  let asks := (s.pieces ctx .r src u.sb ++ s.pieces ctx .w dst u.db).length
  if s.heldByOlder c o (s.rangesAt ctx src u.sb) (s.rangesAt ctx dst u.db) then .hold
  else if 0 < asks ∧ 2048 < x.outstanding + asks then .hold
  else
    let early : Option Meets := match src with
      | .pool off =>
        if !(x.emptyOf (linesOf off u.sb)).isEmpty then some .hold
        else (x.firstBad off u.sb).map fun p => .fault (ownPool p) 0x10
      | _ => none
    match early with
    | some m => m
    | none =>
      let rd := s.pieces ctx .r src u.sb
      let wr := s.pieces ctx .w dst u.db
      match s.engineNak c .r o.scope rd, s.engineBad c o.scope rd, s.engineNak c .w o.scope wr with
      | some (va, code), _, _ => .fault va code
      | none, some va, _ => .fault va 0x10
      | none, none, some (va, code) => .fault va code
      | none, none, none => .go

/-- Moves the unit at a copy's position: it is read, converted, counted and landed (R263, R267, R268, R270). -/
def State.moveUnit (s : State) (c : Nat) (o : CopyOp) : State :=
  let u := s.unitAt o
  let ctx := s.ctxOf c
  let src := s.srcAt o o.row o.col
  let dst := s.dstAt o o.row o.col
  let (s, bs) : State × List Byte := match src with
    | .pool off => (s, (s.core c).pool.bytes off u.sb)
    | .lit l => (s, l)
    | .away => (s, List.replicate u.sb 0)
    | _ => s.engineRead c o.scope (s.pieces ctx .r src u.sb)
  let (out, fl) := o.convert bs
  let s := s.modAgent c o.agent fun a => { a with cflags := a.cflags ||| fl }
  let n := if o.countsSource then u.sb else u.db
  let o' : CopyOp := { o.step u.n with due := o.due - n, started := true }
  let s := match dst with
    | .pool off =>
      let x := (s.core c).poolPut off out
      let ls := linesOf off u.db
      let later := fun (l : Nat) =>
        if o'.fn = 8 then (o'.land.drop o'.row).any fun p => (linesOf p.1 p.2.length).contains l
        else !o'.moved && (match s.dstAt o' o'.row o'.col with | .pool p => decide (p / 128 ≤ l) | _ => false)
      s.setCore c (ls.foldl (fun (x : Core) l => if later l then x else x.lineLanded o.id l) x)
    | .va _ | .ia _ => s.engineWrite c o.scope (s.pieces ctx .w dst u.db) out
    | _ => s
  let s := s.putCopy c o'
  let s := s.landed c o.bar n false
  s.due (if o'.moved then .copyVisible c o.id else .copyLand c o.id)

/-- A started copy that the engine can serve now. -/
def State.canMove (s : State) (c : Nat) (o : CopyOp) : Bool :=
  o.fn != 5 && o.suspended.isNone && !o.moved && (o.rowCount == 0 || s.unitMeets c o != .hold)

/-- The copy that the engine serves next (R260): round-robin over the contexts after the one served last, and within a context
over its started copies in issue order, after the one served last. -/
def State.engineNext (s : State) (c : Nat) : Option CopyOp :=
  let x := s.core c
  let ready := x.copies.filter fun o => s.canMove c o
  (List.range 8).findSome? fun i =>
    let w := (x.engLast + 1 + i) % 8
    let mine := ready.filter fun o => o.agent == 128 + w
    (mine.find? fun o => decide (x.engTurn.getD w 0 < o.id)).or mine.head?

/-- The engine serves a copy. -/
def State.engineTurn (s : State) (c : Nat) (o : CopyOp) : State :=
  s.modCore c fun x => { x with engLast := (o.agent - 128) % 8, engTurn := x.engTurn.put ((o.agent - 128) % 8) o.id }

/-- The next unit of a copy with a box, or of a landing (R268). -/
def State.landUnit (s : State) (core : Nat) (o : CopyOp) : State :=
  if o.rowCount = 0 then (s.putCopy core { o with moved := true }).due (.copyVisible core o.id)
  else
    match s.unitMeets core o with
    | .hold => s.due (.copyLand core o.id)
    | .fault va code =>
      if code = 0x10 then
        let src := s.srcAt o o.row o.col
        let s := match src with
          | .pool _ => s.metAt core va 1
          | _ => s.metRead core (s.pieces (s.ctxOf core) .r src (s.unitAt o).sb)
        s.due (.copyAbort core o.id code va)
      else s.due (.nakReport core o.agent o.id)
    | .go => s.moveUnit core o

/-- COPY_VISIBLE (R269): CP decrements, and the signal with it. A landing's sweep is told by R356. -/
def execCopyVisible (core op : Nat) (s : State) : Out :=
  match s.copyOp? core op with
  | none => .next s
  | some o =>
    if o.fn = 5 ∨ !o.moved then .next s
    else
      let s := (s.complete core o.agent .eng op).dropCopy core op
      .next (match o.sig with | some va => s.signalDec (s.ctxOf core) va 0 | none => s)

-- The end on a fault (R273, R274) --------------------------------------------------------------------------------------

/-- Marks ECC words of memory with the check pattern (R442). -/
def State.poison (s : State) (ws : List Nat) : State := { s with bad := ws.foldl (fun b w => insertNat w b) s.bad }

/-- The words of the slot that a PPUSH has not written take the pattern, where the slot accepts a write (R274). -/
def State.poisonSlot (s : State) (c : Nat) (o : CopyOp) : State :=
  let rb := byteOf (o.box.ext 0) o.bits.2
  let from_ := (o.row * rb + byteOf o.col o.bits.2) / 32 * 32
  let ps := s.pieces (s.ctxOf c) .w (s.slotByte o from_) (o.box.rows * rb - from_)
  ps.foldl (fun (s : State) p =>
    match p.2.1 with
    | some ia => if (s.nak (s.ctxOf c) ia true).isNone then s.poison (eccWords (s.home ia) p.2.2) else s
    | none => s) s

/-- The trap of a failed copy (R273, R335). -/
def CopyOp.trapInfo (o : CopyOp) (code_ : W64) (code : BitVec 8) (va : W64) : TrapInfo :=
  if o.fn = 4 then
    { code := 0x0F, einfo := pipeInfo (if code = 0x10 then 7 else 8) o.box.pipe 4 code.toNat, eaddr := va, fmask := 0 }
  else
    { code := if code = 0x10 then 0x07 else if code = 0x13 then 0x08 else 0x06,
      einfo := faultLayout code_ o.pc o.word code, eaddr := va, fmask := 0 }

/-- A COLL trace record (R281, R458). -/
def State.collTrace (s : State) (c : Nat) (type : Nat) (x : CollDesc) (status : Nat) : State :=
  let die := dieOf c
  match (s.die die).groups.find? x.group with
  | none => s
  | some g =>
    let n := g.members.length
    let sent := (x.chunk n (x.chunks n g.rank).1).2
    let v := x.group + x.step * 2 ^ 32 + g.rank * 2 ^ 48 + n * 2 ^ 64 + x.kind * 2 ^ 80 + status * 2 ^ 88 + sent % 2 ^ 32 * 2 ^ 96
    s.trace die type 0xFF (s.ctxOf c) (BitVec.ofNat 128 v)

/-- A step is over: the next step of its group may begin (R280). -/
def State.collOver (s : State) (c : Nat) (x : CollDesc) (status : Nat) : State :=
  let s := s.collTrace c 3 x status
  let die := dieOf c
  let y := s.die die
  match y.groups.find? x.group with
  | some g => s.setDie die { y with groups := y.groups.put x.group { g with last := some x.step } }
  | none => s

/-- The ACTIVE slots of a list become BROKEN with a reason (R354, R356, R359). -/
def Sweep.breakSlots (v : Sweep) (xs : List Nat) (reason : Nat) : Sweep :=
  { v with slots := v.slots.map fun (p : Nat × QSlot) =>
      if xs.contains p.1 && p.2.st == SlotSt.active then (p.1, { p.2 with st := .broken reason }) else p }

/-- The slots of a landing that failed (R356); its sweep may then be over, which PASS_BEGIN looks at. -/
def State.breakLanding (s : State) (ctx : Nat) (o : CopyOp) : State :=
  if o.fn ≠ 8 then s
  else
    let f := fun (v : Sweep) => if v.ctx = ctx ∧ v.addr = o.box.gaddr then v.breakSlots o.slots 4 else v
    { s with sweeps := s.sweeps.map f, pending := s.pending ++ [.passBegin ctx o.box.gaddr 0] }

/-- The codes of R273. -/
def copyCodes : List (BitVec 8) := [0x01, 0x02, 0x03, 0x04, 0x10, 0x12, 0x13]

/-- COPY_ABORT (R273): the counted bytes still due land as a failure, the lines of which it is the emptier become FULL,
CP decrements, the signal takes the code, and the context records the fault and, without barrier and signal, a trap. -/
def execCopyAbort (core op : Nat) (code : BitVec 8) (addr : W64) (s : State) : Out :=
  match s.copyOp? core op with
  | none => .next s
  | some o =>
    let lr := (s.core core).lr
    let fn := if o.fn = 8 then 2 else o.fn
    let s := (if o.fn = 3 then s.poisonSlot core o else s).breakLanding (s.ctxOf core) o
    let s := s.landed core o.bar o.due true
    let s := s.modCore core fun x => x.fullAll op
    let s := s.modAgent core o.agent fun a =>
      { a with cfault := BitVec.ofNat 64 (code.toNat + fn * 2 ^ 8 + addr.toNat / 2 ^ 11 * 2 ^ 11) }
    let traps := (o.bar.isNone && o.sig.isNone) || (o.fn == 4 && code == 0x10)
    let s := if traps then s.modAgent core o.agent fun a => a.defer .eng op .copy (o.trapInfo lr.code code addr) else s
    let s := (s.complete core o.agent .eng op).dropCopy core op
    let s := match o.sig with | some va => s.signalDec (s.ctxOf core) va (1 + code.toNat * 2 ^ 8) | none => s
    .next (match o.coll with | some x => s.collOver core x (if code = 0x12 then 0x12 else 0) | none => s)

-- Collective steps (R279 to R281) ---------------------------------------------------------------------------------------

/-- Every collective step in the unit of a die, oldest first. -/
def State.collOps (s : State) (die g : Nat) : List CopyOp :=
  (s.cores.filter fun p => dieOf p.1 == die).flatMap fun p =>
    p.2.copies.filter fun o => (o.coll.map CollDesc.group) == some g

/-- A step may begin: no step of its group has begun and not ended, the step before it has reached its visible point,
and no step issued earlier may begin in its place (R280). -/
def State.collReady (s : State) (die : Nat) (o : CopyOp) (x : CollDesc) : Bool :=
  let all := s.collOps die x.group
  let last : Option Nat := ((s.die die).groups.find? x.group).bind Group.last
  let mayBegin := fun (y : CollDesc) => y.step == 0 || last == some (y.step - 1)
  !(all.any fun p => p.started) && mayBegin x &&
    !(all.any fun p => decide (p.id < o.id) && (p.coll.map mayBegin == some true))

/-- The next unit of a started step (R268): whether it sends, its bytes, where it reads and where it writes. It sends its chunk
first; the received chunk is written once it has arrived. -/
structure CollUnit where
  sends : Bool
  n : Nat
  src : Option W64
  dst : Option W64
  deriving DecidableEq, Repr

def CollDesc.unit (x : CollDesc) (g : Group) (o : CopyOp) : Option CollUnit :=
  let n := g.members.length
  let fit := fun (a : W64) (left : Nat) => min left (128 - a.toNat % 128)
  if o.row < x.sends n g.rank then
    let a := x.sendAt n g.rank (x.sendFrom n) o.row
    some { sends := true, n := fit a (x.sends n g.rank - o.row), src := some a,
           dst := if x.copiesOwn then some (x.sendAt n g.rank x.dst o.row) else none }
  else if !o.land.isEmpty && decide (o.col < x.receives n g.rank) then
    let a := x.recvAt n g.rank x.dst o.col
    some { sends := false, n := fit a (x.receives n g.rank - o.col),
           src := if x.reduces n then some (x.recvAt n g.rank x.src o.col) else none, dst := some a }
  else none

/-- The pieces of memory that a unit reads and writes. -/
def State.collPieces (s : State) (c : Nat) (nd : Need) (a : Option W64) (n : Nat) : List (W64 × Option Nat × Nat) :=
  match a with
  | some va => s.pieces (s.ctxOf c) nd (.va va) n
  | none => []

/-- What a step's reads or writes meet. -/
def State.collMeets (s : State) (c : Nat) (rd wr : List (W64 × Option Nat × Nat)) : Option (W64 × BitVec 8) :=
  match s.engineNak c .r 4 rd, s.engineBad c 4 rd, s.engineNak c .w 4 wr with
  | some f, _, _ => some f
  | none, some va, _ => some (va, 0x10)
  | none, none, f => f

/-- The NAK of a step's access reaches the core; bad data end the step. -/
def State.collStop (s : State) (c : Nat) (o : CopyOp) (rd : List (W64 × Option Nat × Nat)) (va : W64) (code : BitVec 8) : State :=
  if code = 0x10 then (s.metRead c rd).due (.copyAbort c o.id code va) else s.due (.nakReport c o.agent o.id)

/-- Op of R279 on elements of DTYPE. -/
def CollDesc.op (x : CollDesc) (a b : Nat) : Nat × FFlags :=
  let f : Fmt := if x.dtype = 0 then .f32 else if x.dtype = 1 then .bf16 else .f16
  if x.dtype = 3 then
    match x.redop with
    | 0 => ((a + b) % 2 ^ 32, 0)
    | 1 => (if sInt 32 b < sInt 32 a then b else a, 0)
    | _ => (if sInt 32 a < sInt 32 b then b else a, 0)
  else
    match x.redop with
    | 0 => f.addOp .rne a b
    | 1 => (f.fmin a b, 0)
    | _ => (f.fmax a b, 0)

/-- The members before and after this die in a group's ring (R279). -/
def Group.next (g : Group) : Option (Nat × Nat) := g.members[(g.rank + 1) % g.members.length]?
def Group.prev (g : Group) : Option (Nat × Nat) := g.members[(g.rank + g.members.length - 1) % g.members.length]?

/-- Changes a group of a die. -/
def State.modGroup (s : State) (die grp : Nat) (f : Group → Group) : State :=
  let y := s.die die
  match y.groups.find? grp with
  | some g => s.setDie die { y with groups := y.groups.put grp (f g) }
  | none => s

/-- A chunk that another die of this device has sent reaches the started step that waits for it (R280). -/
def State.collDeliver (s : State) (die grp : Nat) : State :=
  match (s.die die).groups.find? grp with
  | none => s
  | some g =>
    let evs := (s.cores.filter fun p => dieOf p.1 == die).flatMap fun p =>
      (p.2.copies.filter fun o => o.started && !o.moved && o.land.isEmpty).filterMap fun o =>
        match o.coll with
        | some x => if x.group = grp then (g.inbox.find? x.step).map fun bs => Instr.collChunkArrive p.1 o.id bs else none
        | none => none
    { s with pending := s.pending ++ evs }

/-- The local chunk has been read and is sent (R279): to a die of this device it goes into the window that its unit reads,
which acknowledges it; what goes to another device, COLL_END tells the end of. -/
def State.collSent (s : State) (o : CopyOp) (x : CollDesc) (g : Group) : State :=
  match g.next with
  | some (dev, die) =>
    if dev = s.devNum then
      (s.modGroup die x.group fun h => { h with inbox := h.inbox.put x.step o.sent }).collDeliver die x.group
    else s
  | none => s

/-- A step whose chunk was acknowledged inside this device ends once both sides are done (R280). -/
def State.collDone (s : State) (c : Nat) (o : CopyOp) (x : CollDesc) (g : Group) : State :=
  if o.moved && decide (x.sends g.members.length g.rank ≤ o.row) && (g.next.map Prod.fst == some s.devNum) then s.due (.collEnd c o.id)
  else s

/-- Moves a unit of a step: bytes of the local chunk are read, counted, and copied to DST where R279 says so; bytes of the
received chunk are reduced with SRC or gathered into DST, performed at SYS (R268, R279, R280). -/
def State.collMove (s : State) (c : Nat) (o : CopyOp) (x : CollDesc) (g : Group) (u : CollUnit) : State :=
  let n := g.members.length
  let (s, bs) := s.engineRead c 4 (s.collPieces c .r u.src u.n)
  let wr := s.collPieces c .w u.dst u.n
  if u.sends then
    let s := s.engineWrite c 4 wr bs
    let o : CopyOp := { o with row := o.row + u.n, due := o.due - u.n, sent := o.sent ++ bs }
    let full := decide (x.sends n g.rank ≤ o.row)
    let s := (s.putCopy c o).landed c o.bar u.n false
    let s := if full then (s.collSent o x g).collDone c o x g else s
    if (x.unit g o).isSome then s.due (.copyLand c o.id) else s
  else
    let ins := groupsOf x.esize (((o.land.head?.map Prod.snd).getD []).drop o.col |>.take u.n)
    let r := if x.reduces n then (ins.zip (groupsOf x.esize bs)).map fun p => x.op (leNat p.1) (leNat p.2)
      else ins.map fun p => (leNat p, 0)
    let s := s.engineWrite c 4 wr (r.flatMap fun y => leBytes y.1 x.esize)
    let s := s.modAgent c o.agent fun a => { a with cflags := a.cflags ||| r.foldl (fun f y => f ||| y.2) 0 }
    let o : CopyOp := { o with col := o.col + u.n, moved := decide (x.receives n g.rank ≤ o.col + u.n) }
    let s := s.putCopy c o
    if o.moved then s.collDone c o x g else s.due (.copyLand c o.id)

/-- The next unit of a started step. -/
def State.collUnit (s : State) (core : Nat) (o : CopyOp) : State :=
  match s.stepOf core o with
  | none => s
  | some (x, g) =>
    match (if o.started then x.unit g o else none) with
    | none => s
    | some u =>
      let ctx := s.ctxOf core
      let ranges := fun (a : Option W64) => (a.map fun va => s.rangesAt ctx (.va va) u.n).getD []
      if s.heldByOlder core o (ranges u.src) (ranges u.dst) then s.due (.copyLand core o.id)
      else
        let rd := s.collPieces core .r u.src u.n
        match s.collMeets core rd (s.collPieces core .w u.dst u.n) with
        | some (va, code) => s.collStop core o rd va code
        | none => s.collMove core o x g u

/-- COPY_LAND (R268): the next unit of a copy, in its turn of the engine (R260), or of a collective step, which the die's
collective unit runs (R280). -/
def execCopyLand (core op : Nat) (s : State) : Out :=
  match s.copyOp? core op with
  | none => .next s
  | some o =>
    if o.suspended.isSome ∨ (o.moved ∧ o.fn ≠ 5) then .next s
    else if o.fn = 5 then .next (s.collUnit core o)
    else if s.engineNext core = some o then .next ((s.engineTurn core o).landUnit core o)
    else s.notYet (.copyLand core op)

/-- COLL_START (R280, R281): the step begins sending. -/
def execCollStart (core op : Nat) (s : State) : Out :=
  match s.copyOp? core op with
  | none => .next s
  | some o =>
    match s.stepOf core o with
    | some (x, g) =>
      if o.started ∨ o.suspended.isSome then .next s
      else if !(s.collReady (dieOf core) o x) then s.notYet (.collStart core op)
      else
        let o : CopyOp := { o with started := true }
        let s := (s.putCopy core o).collTrace core 2 x 0
        let s := if x.sends g.members.length g.rank = 0 then s.collSent o x g else s.due (.copyLand core op)
        .next (s.collDeliver (dieOf core) x.group)
    | none => .next s

/-- COLL_CHUNK_ARRIVE (R279, R280): the chunk of a started step has arrived in the device's window; from a die of this device
it is what that die sent. -/
def execCollChunkArrive (core op : Nat) (data : List (BitVec 8)) (s : State) : Out :=
  match s.copyOp? core op with
  | none => .next s
  | some o =>
    match s.stepOf core o with
    | some (x, g) =>
      let near := g.prev.map Prod.fst == some s.devNum
      if !o.started ∨ o.moved ∨ !o.land.isEmpty ∨ data.length ≠ x.receives g.members.length g.rank ∨
          (near ∧ g.inbox.find? x.step ≠ some data) then .next s
      else
        let s := s.modGroup (dieOf core) x.group fun h => { h with inbox := h.inbox.del x.step }
        let o : CopyOp := { o with land := [(0, data)], moved := data.isEmpty }
        let s := s.putCopy core o
        .next (if o.moved then s.collDone core o x g
          else if o.row < x.sends g.members.length g.rank then s else s.due (.copyLand core op))
    | none => .next s

/-- COLL_END (R280, R281): the chunk sent is acknowledged and the chunk received is performed: the visible point. -/
def execCollEnd (core op : Nat) (s : State) : Out :=
  match s.copyOp? core op with
  | none => .next s
  | some o =>
    match s.stepOf core o with
    | some (x, g) =>
      if o.started ∧ o.moved ∧ x.sends g.members.length g.rank ≤ o.row then
        let s := (s.complete core o.agent .eng op).dropCopy core op
        let s := match o.sig with | some va => s.signalDec (s.ctxOf core) va 0 | none => s
        .next (s.collOver core x 0)
      else .next s
    | none => .next s

end Sys2Proof.Machine
end

