-- ==== Sys2Proof/Machine/Func.lean ====
section
/-! DEFINITION. The functions of FSFU (R128). Each is computed in fixed point with 320 fraction bits, with an error
below 2^-300, and its value replaced by an odd multiple of a grid step 2^-290 finer: no FP32 value and no midpoint of
two FP32 values lies between that and the exact value, except where R128 lists the exact cases, which are taken
first, and where the argument is so small that the value lies within 2^-100 of an FP32 value, which is taken on its
proper side (log 8). -/

namespace Sys2Proof.Machine

/-- floor(π × 2^320). -/
def piFix : Nat := 0x3243f6a8885a308d313198a2e03707344a4093822299f31d0082efa98ec4e6c89452821e638d01377

/-- floor(ln 2 × 2^320). -/
def ln2Fix : Nat := 0xb17217f7d1cf79abc9e3b39803f2f6af40f343267298b62d8a0d175b8baafa2be7b876206debac98

/-- Fixed-point product at 320 fraction bits. -/
def fixMul (a b : Nat) : Nat := a * b / 2 ^ 320

/-- Σ of the Taylor series of e^y from term `k` on, the term before it `t`; y in fixed point, below 1. -/
def expSeries (y : Nat) : Nat → Nat → Nat → Nat
  | 0, _, _ => 0
  | n + 1, k, t =>
    let t' := fixMul t y / k
    t' + expSeries y n (k + 1) t'

/-- e^y for 0 ≤ y < 1 in fixed point. -/
def expFix (y : Nat) : Nat := 2 ^ 320 + expSeries y 80 1 (2 ^ 320)

/-- The alternating series of sine and cosine: term `t` of degree `k`, y² given. -/
def trigSeries (y2 : Nat) : Nat → Nat → Nat → Int
  | 0, _, _ => 0
  | n + 1, k, t => (t : Int) - trigSeries y2 n (k + 2) (fixMul t y2 / ((k + 1) * (k + 2)))

/-- sin y, 0 ≤ y < 2, in fixed point. -/
def sinFix (y : Nat) : Nat := (trigSeries (fixMul y y) 45 1 y).toNat

/-- cos y, 0 ≤ y < 2, in fixed point. -/
def cosFix (y : Nat) : Nat := (trigSeries (fixMul y y) 45 0 (2 ^ 320)).toNat

/-- Σ z^(2k+1) / (2k+1), from the odd power `p` of index `k` on. -/
def atanhSeries (z2 : Nat) : Nat → Nat → Nat → Nat
  | 0, _, _ => 0
  | n + 1, k, p => p / k + atanhSeries z2 n (k + 2) (fixMul p z2)

/-- ln of m / 2^s for 1 ≤ m / 2^s < 2, in fixed point. -/
def lnFix (m s : Nat) : Nat :=
  let z := (m - 2 ^ s) * 2 ^ 320 / (m + 2 ^ s)
  2 * atanhSeries (fixMul z z) 110 1 z

/-- A fixed-point value known within 2^-300, as an exact value no grid point of FP32 separates from it: the low
28 bits are dropped and a half step put in their place. -/
def fixVal (neg : Bool) (x : Nat) (e : Int) : Val := .fin neg (2 * (x / 2 ^ 28) + 1) (e - 320 + 27)

/-- 2^x for a finite x (R128). -/
def ex2Fin (neg : Bool) (m : Nat) (e : Int) : Val :=
  if m = 0 then .fin false 1 0
  else if 12 ≤ (Nat.log2 m : Int) + e then .fin false 3 (if neg then -4000 else 4000)
  else
    -- x = n + f with 0 ≤ f < 1, f in units of 2^-fr
    let fr : Nat := (-e).toNat
    let mi : Int := signedMant neg (if e < 0 then m else m * 2 ^ e.toNat)
    let n : Int := mi / (2 ^ fr : Int)
    let f : Nat := (mi % (2 ^ fr : Int)).toNat
    if f = 0 then .fin false 1 n
    else fixVal false (expFix (f * ln2Fix / 2 ^ fr)) n

/-- log2 x for a finite x > 0 (R128). -/
def lg2Fin (m : Nat) (e : Int) : Val :=
  let s := Nat.log2 m
  let n : Int := s + e
  if m = 2 ^ s then Val.ofInt n 0 false
  else
    let l : Int := n * 2 ^ 320 + ((lnFix m s * 2 ^ 320 / ln2Fix : Nat) : Int)
    fixVal (decide (l < 0)) l.natAbs 0

/-- The fraction of |x| modulo 2 in fixed point with `2 ^ fr` as unit: (numerator below 2^(fr+1), fr). -/
def modTwo (m : Nat) (e : Int) : Nat × Nat :=
  let fr : Nat := (-e).toNat
  ((if e < 0 then m else m * 2 ^ e.toNat) % 2 ^ (fr + 1), fr)

/-- |sin(πr)| for r = a / 2^fr in [0, 1], neither an integer nor a half-integer. -/
def sinPiFix (a fr : Nat) : Nat :=
  let b := if 2 ^ fr < 2 * a then 2 ^ fr - a else a
  if 4 * b ≤ 2 ^ fr then sinFix (b * piFix / 2 ^ fr)
  else cosFix ((2 ^ fr - 2 * b) * piFix / 2 ^ (fr + 1))

/-- sin(πx) for a finite x (R128). -/
def sinPiFin (neg : Bool) (m : Nat) (e : Int) : Val :=
  if m = 0 then .fin neg 0 0
  else if (Nat.log2 m : Int) + e < -90 then .fin neg (m * piFix) (e - 320)
  else
    let (a, fr) := modTwo m e
    let half := decide (2 ^ fr ≤ a)
    let r := a % 2 ^ fr
    if r = 0 then .fin neg 0 0
    else if 2 * r = 2 ^ fr then .fin (neg != half) 1 0
    else fixVal (neg != half) (sinPiFix r fr) 0

/-- cos(πx) for a finite x (R128). -/
def cosPiFin (m : Nat) (e : Int) : Val :=
  if m = 0 then .fin false 1 0
  else if (Nat.log2 m : Int) + e < -90 then .fin false (2 ^ 170 - 1) (-170)
  else
    let (a, fr) := modTwo m e
    -- cos(πr) = sin(π(r + 1/2)), with r in [0, 2)
    let a2 := 2 * a + 2 ^ fr
    let fr2 := fr + 1
    let c := a2 % 2 ^ (fr2 + 1)
    let half := decide (2 ^ fr2 ≤ c)
    let r := c % 2 ^ fr2
    if r = 0 then .fin false 0 0
    else if 2 * r = 2 ^ fr2 then .fin half 1 0
    else fixVal half (sinPiFix r fr2) 0

/-- tanh x for a finite x (R128): (1 − t) / (1 + t) with t = e^(−2|x|). -/
def tanhFin (neg : Bool) (m : Nat) (e : Int) : Val :=
  if m = 0 then .fin neg 0 0
  else if (Nat.log2 m : Int) + e < -70 then .fin neg (m * 2 ^ 110 - 1) (e - 110)
  else if 6 ≤ (Nat.log2 m : Int) + e then .fin neg (2 ^ 170 - 1) (-170)
  else
    -- y = 2|x| / ln 2 = n + f; t = 2^-n × e^(−f ln 2)
    let x2 : Nat := if e < 0 then m * 2 ^ 321 / 2 ^ (-e).toNat else m * 2 ^ e.toNat * 2 ^ 321
    let n := x2 / ln2Fix
    let r := x2 % ln2Fix
    let t := 2 ^ 640 / expFix r / 2 ^ n
    fixVal neg ((2 ^ 320 - t) * 2 ^ 320 / (2 ^ 320 + t)) 0

/-- frcp of R128. -/
def frcpVal : Val → Val × FFlags
  | .nan => (.nan, 0)
  | .inf n => (.fin n 0 0, 0)
  | .fin n m e => if m = 0 then (.inf n, FFlags.divZero) else Val.div (.fin false 1 0) (.fin n m e)

/-- frsq of R128. -/
def frsqVal : Val → Val × FFlags
  | .nan => (.nan, 0)
  | .inf true => (.nan, FFlags.invalid)
  | .inf false => (.fin false 0 0, 0)
  | .fin n m e =>
    if m = 0 then (.inf n, FFlags.divZero)
    else if n then (.nan, FFlags.invalid)
    else (.fin false (rsqrtFin m e).1 (rsqrtFin m e).2, 0)

/-- fsqrt of R128. -/
def fsqrtVal : Val → Val × FFlags
  | .nan => (.nan, 0)
  | .inf true => (.nan, FFlags.invalid)
  | .inf false => (.inf false, 0)
  | .fin n m e =>
    if m = 0 then (.fin n 0 0, 0)
    else if n then (.nan, FFlags.invalid)
    else (.fin false (sqrtFin m e).1 (sqrtFin m e).2, 0)

/-- fex2 of R128. -/
def fex2Val : Val → Val × FFlags
  | .nan => (.nan, 0)
  | .inf true => (.fin false 0 0, 0)
  | .inf false => (.inf false, 0)
  | .fin n m e => (ex2Fin n m e, 0)

/-- flg2 of R128. -/
def flg2Val : Val → Val × FFlags
  | .nan => (.nan, 0)
  | .inf true => (.nan, FFlags.invalid)
  | .inf false => (.inf false, 0)
  | .fin n m e =>
    if m = 0 then (.inf true, FFlags.divZero)
    else if n then (.nan, FFlags.invalid)
    else (lg2Fin m e, 0)

/-- fsinp of R128. -/
def fsinpVal : Val → Val × FFlags
  | .nan => (.nan, 0)
  | .inf _ => (.nan, FFlags.invalid)
  | .fin n m e => (sinPiFin n m e, 0)

/-- fcosp of R128. -/
def fcospVal : Val → Val × FFlags
  | .nan => (.nan, 0)
  | .inf _ => (.nan, FFlags.invalid)
  | .fin _ m e => (cosPiFin m e, 0)

/-- ftanh of R128. -/
def ftanhVal : Val → Val × FFlags
  | .nan => (.nan, 0)
  | .inf n => (.fin n 1 0, 0)
  | .fin n m e => (tanhFin n m e, 0)

/-- One FSFU function on an FP32 code, rounded under `mode` (R128). -/
def fsfuOp (f : Val → Val × FFlags) (mode : RMode) (a : Nat) : Nat × FFlags :=
  let (x, fl) := f (Fmt.decode .f32 a)
  let (c, fr) := Fmt.round .f32 mode false x
  (c, fl ||| fr)

end Sys2Proof.Machine
end

