-- ==== Sys2Proof/Machine/Pipe.lean ====
section
/-! DEFINITION. The PIPE group (R325 to R335): reservations, commits, deliveries, releases and seals of tickets. -/

namespace Sys2Proof.Machine

/-- A free slot for a reservation: a vault slot in preference to a Whey slot (R326). -/
def PipeSt.takeSlot (p : PipeSt) : Option (SlotAt × PipeSt) :=
  match p.vfree.pop with
  | some (k, q) => some (.vault k, { p with vfree := q })
  | none =>
    if p.flags % 2 = 1 ∨ p.spillOpen then
      (p.wfree.pop).map fun r => (.whey r.1, { p with wfree := r.2, spills := p.spills + 1 })
    else none

/-- Reserve() of R326 for a workgroup: its ticket, or none where it blocks. -/
def PipeSt.reserve (p : PipeSt) (uid : Nat) : Option (Nat × PipeSt) :=
  (p.takeSlot).map fun r =>
    (r.2.tNext, { r.2 with tNext := r.2.tNext + 1,
                           tickets := r.2.tickets ++ [{ t := r.2.tNext, at_ := r.1, wg := uid, st := .reserved }] })

/-- The delivery of ticket H to a workgroup (R327). -/
def PipeSt.deliver (p : PipeSt) (uid : Nat) : PipeSt :=
  let q : PipeSt := { p with h := p.h + 1, tickets := p.tickets.map fun (t : Ticket) =>
    if t.t = p.h then { t with st := .delivered, wg := uid } else t }
  q.skip (q.tickets.length + 1)

def PipeSt.setTicket (p : PipeSt) (t : Nat) (f : Ticket → Ticket) : PipeSt :=
  { p with tickets := p.tickets.map fun (u : Ticket) => if u.t = t then f u else u }

/-- A ticket held by a workgroup in a state. -/
def PipeSt.heldBy (p : PipeSt) (t : Nat) (uid : Nat) (st : TicketSt) : Bool :=
  p.tickets.any fun u => u.t == t && u.wg == uid && u.st == st

/-- The pipe an instruction names, with its plan: the pipe operand (R331), then reasons 0x01 and 0x02 of R335. `side` holds
the stages of which one must be the issuer's. -/
def State.pipeOf (s : State) (fn : Nat) (a : Reg) (side : PipeSt → List Nat) : Except State (Nat × Nat × PipeSt) := do
  let v := (s.sval a).toNat
  need (decide (v < 32)) s.illegalOperand
  match s.planOf with
  | none => .error (s.pipeError 0x01 v fn)
  | some (pl, st, p) =>
    match p.pipes[v]? with
    | none => .error (s.pipeError 0x01 v fn)
    | some q =>
      need ((side q).contains st) (s.pipeError 0x02 v fn)
      .ok (pl, v, q)

def State.setPipe (s : State) (pl n : Nat) (q : PipeSt) : State := s.modPlan pl fun p => p.modPipe n fun _ => q

/-- The issuing part at a pipe end. -/
def State.pipeWait (s : State) (d : Reg) : PipeWait :=
  { core := s.cur.core, agent := s.cur.agent, part := s.cur.part, d := d.toNat }

/-- The same part. -/
def PipeWait.same (w v : PipeWait) : Bool := w.core == v.core && w.agent == v.agent && w.part == v.part

/-- PRSV (R326, R331): RESERVE_SERVED ends the wait of a blocked reservation. -/
def execPrsv (a d : BitVec 7) (s : State) : Out :=
  finish do
    s.interlock [(a, 64)] [(d, 64)]
    need (isSz a && isSz d) s.illegalOperand
    let (pl, n, q) ← s.pipeOf 0 a fun q => [q.producer]
    need (!q.sealedP) (s.pipeError 0x04 n 0)
    match (if q.waitP.isEmpty then q.reserve s.myUid else none) with
    | some (t, q) => .ok ((s.setPipe pl n q).setS d (BitVec.ofNat 64 t)).advance
    | none =>
      .ok (((s.setPipe pl n { q with waitP := q.waitP ++ [s.pipeWait d] }).park (.prsv pl n)).due (.reserveServed pl n))

/-- A PPUSH of the ticket by the workgroup's copy context that has not reached its visible point (R276, R333). -/
def State.pushing (s : State) (c wg pl n t : Nat) : Bool :=
  (s.core c).copies.any fun o => o.agent == 128 + wg && o.fn == 3 && o.plan == pl && o.box.pipe == n && o.ticket == t

/-- PCMT (R327, R331, R333): a release at the pipe's scope that waits for every PPUSH of the ticket. -/
def execPcmt (b a : BitVec 7) (s : State) : Out :=
  finish do
    s.interlock [(a, 64), (b, 64)] []
    need (isSz a && isSz b) s.illegalOperand
    let (pl, n, q) ← s.pipeOf 1 a fun q => [q.producer]
    let t := (s.sval b).toNat
    need (q.heldBy t s.myUid .reserved) (s.pipeError 0x03 n 1)
    s.faultGate
    need (!(s.pushing s.cur.core s.me.wg pl n t)) (s.park (.pcmt pl n t))
    let s := s.release s.cur.core q.scope
    .ok ((s.setPipe pl n (q.setTicket t fun u => { u with st := .committed })).due (.commitArrive pl n t)).advance

/-- All ones: no ticket (R332). -/
def noTicket : W64 := 0xFFFFFFFFFFFFFFFF

/-- CRSV (R327, R331 to R333, R340): YIELD on a moving core, the next ticket in sequence for the first that waits, or
CLOSED; else it waits at the home. -/
def execCrsv (a d : BitVec 7) (s : State) : Out :=
  finish do
    s.interlock [(a, 64)] [(d, 128)]
    need (isSz a && evenScalar d) s.illegalOperand
    let (pl, n, q) ← s.pipeOf 2 a fun q => [q.consumer]
    let w := s.pipeWait d
    let rest := q.waitC.filter fun v => !(v.same w)
    let first := match q.waitC with | [] => true | v :: _ => v.same w
    let s' := s.setPipe pl n { q with waitC := rest }
    if s.myCore.moving then .ok (s'.setPair d noTicket 2).advance
    else if q.closed then .ok (s'.setPair d noTicket 1).advance
    else if first && decide (0 < q.cfree) then
      let s := s.setPipe pl n (PipeSt.deliver { q with waitC := rest } s.myUid)
      .ok (((s.acquire s.cur.core q.scope).setPair d (BitVec.ofNat 64 q.h) 0).advance)
    else
      let waits := if q.waitC.any fun v => v.same w then q.waitC else q.waitC ++ [w]
      .ok ((s.setPipe pl n { q with waitC := waits }).park (.crsv pl n))

/-- CREL (R328, R331). -/
def execCrel (b a : BitVec 7) (s : State) : Out :=
  finish do
    s.interlock [(a, 64), (b, 64)] []
    need (isSz a && isSz b) s.illegalOperand
    let (pl, n, q) ← s.pipeOf 3 a fun q => [q.consumer]
    let t := (s.sval b).toNat
    need (q.heldBy t s.myUid .delivered && !(q.flying.any fun f => f.1 == t)) (s.pipeError 0x03 n 3)
    .ok ((s.setPipe pl n { q with flying := q.flying ++ [(t, s.myUid)] }).due (.releaseArrive pl n t)).advance

/-- PSEAL (R329, R331). -/
def execPseal (a : BitVec 7) (s : State) : Out :=
  finish do
    s.interlock [(a, 64)] []
    need (isSz a) s.illegalOperand
    let (pl, n, q) ← s.pipeOf 4 a fun q => [q.producer]
    .ok (if q.sealedP then s else s.due (.sealArrive pl n false)).advance

/-- What PQRY reads (R334). -/
def PipeSt.query (q : PipeSt) (sel : Nat) : Nat :=
  match sel with
  | 0 => q.vfree.size % 2 ^ 13
  | 1 => min q.cfree 4096
  | 2 => q.tNext
  | 3 => q.h
  | 4 => q.wfree.size % 2 ^ 25
  | 5 => (if q.sealedP then 1 else 0) + (if q.closed then 2 else 0) + (if q.spillOpen then 4 else 0)
  | 6 => q.occMean % 2 ^ 9
  | _ => q.spills % 2 ^ 32 + q.voided % 2 ^ 32 * 2 ^ 32

/-- PQRY (R331, R334): either side may ask. -/
def execPqry (b a d : BitVec 7) (s : State) : Out :=
  finish do
    s.interlock [(a, 64)] [(d, 64)]
    need (isSz a && isSz d && decide (b.toNat < 8)) s.illegalOperand
    let (_, _, q) ← s.pipeOf 5 a fun q => [q.producer, q.consumer]
    .ok (s.setS d (BitVec.ofNat 64 (q.query b.toNat))).advance

end Sys2Proof.Machine
end

