-- ==== Sys2Proof/Machine/Attention.lean ====
section
/-! DEFINITION. The ATTN group (R344 to R369, R489): sweeps, subscriptions, landings, the Hoop's merge, and the
instructions over them. The sweep table answers an instruction at its issue. -/

namespace Sys2Proof.Machine

-- Sweeps (R344 to R346) ------------------------------------------------------------------------------------------------

def State.sweep? (s : State) (ctx : Nat) (a : W64) : Option Sweep := s.sweeps.find? fun v => v.ctx == ctx && v.addr == a

/-- Writes the entry of an open sweep. -/
def State.putSweep (s : State) (v : Sweep) : State :=
  { s with sweeps := updateFirst (fun (u : Sweep) => u.ctx == v.ctx && u.addr == v.addr) (fun _ => v) s.sweeps }

/-- Bytes of an element of a K, V or query format (R148). -/
def kvBytes (f : Nat) : Nat := if f = 6 ∨ f = 7 then 2 else 1
def kvOk (f : Nat) : Bool := f == 0 || f == 1 || f == 6 || f == 7

/-- Every byte of a range is mapped with the rights (R397). -/
def State.mapped (s : State) (ctx : Nat) (nd : Need) (va : W64) (n : Nat) : Bool :=
  (cut2M va.toNat n).all fun p =>
    ((s.ctx ctx).translate nd (BitVec.ofNat 64 p.1)).isSome && ((s.ctx ctx).translate nd (BitVec.ofNat 64 (p.1 + p.2 - 1))).isSome

/-- The code that stops an access of the Ladle, the Hoop or the sweep table to a range; unmapped is out of range. -/
def State.stopCode (s : State) (ctx : Nat) (nd : Need) (va : W64) (n : Nat) : Option (BitVec 8) :=
  ((s.pieces ctx nd (.va va) n).filterMap fun p =>
    match p.2.1 with
    | some ia => s.nak ctx ia (nd == .w)
    | none => some 0x03).head?

/-- The pages for which a read or a write of a range waits, since the pager may yet resolve their NAK (R436). -/
def State.awaited (s : State) (ctx : Nat) (nd : Need) (va : W64) (n : Nat) : List Nat :=
  ((s.pieces ctx nd (.va va) n).filterMap fun p => p.2.1.bind fun ia =>
    if (s.nak ctx ia (nd == .w)).any resolvable then some (s.home ia / 65536) else none).eraseDups

/-- Of ranges that are read one after the other, each with the pages it waits for, the page that the reader waits for now: none
where all can be read, or where the pager has refused one of the pages in `gone` that the first waits for, which ends the
reading (R436). -/
def waitPage (gone : List Nat) : List (List Nat) → Option Nat
  | [] => none
  | [] :: rest => waitPage gone rest
  | (p :: ps) :: _ => if (p :: ps).any gone.contains then none else some p

/-- An instruction whose unit reads ranges at issue waits for the pager (R436). -/
def State.pageGate (s : State) (rs : List (List Nat)) : Except State Unit :=
  match waitPage s.myPart.nofetch.toList rs with
  | some p => .error (s.park (.fetch p))
  | none => .ok ()

/-- The bytes of a range at their homes, none where a part cannot be read or is uncorrectable (R345, R348, R354). -/
def State.homeBytes (s : State) (ctx : Nat) (va : W64) (n : Nat) : Option (List Byte) :=
  let ps := s.pieces ctx .r (.va va) n
  let ok := ps.all fun p => match p.2.1 with
    | some ia => (s.nak ctx ia false).isNone && !(s.memBad (s.home ia) p.2.2)
    | none => false
  let get := fun (ia n : Nat) => if s.replicaHeld ia then s.repMem.bytes ia n else s.mem.bytes (s.home ia) n
  if ok then some (ps.flatMap fun p => match p.2.1 with | some ia => get ia p.2.2 | none => []) else none

/-- The 64 bytes of a sweep descriptor (R344); WHEY_BASE is mapped with R and W rights. -/
def State.sweepOf (s : State) (ctx plan : Nat) (a : W64) (bs : List Byte) : Option Sweep :=
  let f := fieldAt bs
  let v : Sweep := { ctx := ctx, addr := a, plan := plan, kbase := BitVec.ofNat 64 (f 0 8), vbase := BitVec.ofNat 64 (f 8 8),
                     pstride := f 16 4, npages := f 20 4, kvfmt := f 24 1, hdim := f 25 1, stage := f 26 1, leadDie := f 27 1,
                     nslots := f 28 2, wheyBase := BitVec.ofNat 64 (f 32 8), wheySlots := f 40 4,
                     doneSig := BitVec.ofNat 64 (f 48 8) }
  let ok := decide (v.kbase.toNat % 128 = 0 ∧ v.vbase.toNat % 128 = 0 ∧ v.pstride % 128 = 0 ∧
      128 * v.hdim * kvBytes v.kvfmt ≤ v.pstride ∧ 1 ≤ v.npages ∧ v.npages ≤ 2 ^ 24 ∧ (v.hdim = 64 ∨ v.hdim = 128)) &&
    kvOk v.kvfmt &&
    decide (v.leadDie < 4 ∧ 1 ≤ v.nslots ∧ v.nslots ≤ 1024 ∧ f 30 2 = 0 ∧ f 44 4 = 0 ∧ f 56 8 = 0 ∧
      v.doneSig.toNat % 16 = 0 ∧ v.wheySlots ≤ 2 ^ 20) &&
    (if v.wheySlots = 0 then v.wheyBase == 0
     else decide (v.wheyBase.toNat % 128 = 0) && s.mapped ctx .rw v.wheyBase (640 * v.wheySlots))
  if ok then some v else none

/-- Virtual addresses of a page's tiles (R344). -/
def Sweep.ktile (v : Sweep) (p : Nat) : W64 := v.kbase + BitVec.ofNat 64 (p * v.pstride)
def Sweep.vtile (v : Sweep) (p : Nat) : W64 := v.vbase + BitVec.ofNat 64 (p * v.pstride)
def Sweep.tileBytes (v : Sweep) : Nat := 128 * v.hdim * kvBytes v.kvfmt

/-- The home die of a page (R344); LEAD_DIE where no window maps it. -/
def State.pageDie (s : State) (v : Sweep) (p : Nat) : Nat :=
  match (s.ctx v.ctx).translate .r (v.ktile p) with
  | none => v.leadDie
  | some ia =>
    match iaClass ia with
    | 5 | 6 => v.leadDie
    | _ => ((homeOf ia).map Prod.fst).getD v.leadDie

-- The main walk and the catch-up passes (R349, R350) -----------------------------------------------------------------------

def insertRow (r : PRow) : List PRow → List PRow
  | [] => [r]
  | x :: xs => if r.slot < x.slot then r :: x :: xs else x :: insertRow r xs

/-- The row of a slot for an ordinal (R347). -/
def QSlot.prow (q : QSlot) (x o : Nat) : PRow :=
  { slot := x, ord := o, valid := if o + 1 < q.pages.length then 128 else q.last, tag := q.tag, qfmt := q.qfmt, row := q.row }

/-- The next page of a die's main walk: the least listed one from the walk's position on whose pass has not begun. -/
def State.nextMain (s : State) (v : Sweep) (die : Nat) : Option Nat :=
  let ps := (v.slots.flatMap fun (p : Nat × QSlot) => p.2.pages).filter fun n =>
    decide (v.walk.getD die 0 ≤ n) && !(v.begun.contains n) && s.pageDie v n == die
  ps.foldl (fun (m : Option Nat) n => match m with | some k => some (min k n) | none => some n) none

/-- The least page with a row queued for a catch-up pass on a die. -/
def State.nextCatchup (s : State) (v : Sweep) (die : Nat) : Option Nat :=
  let ps := (v.catchups.map Prod.fst).filter fun n => s.pageDie v n == die
  ps.foldl (fun (m : Option Nat) n => match m with | some k => some (min k n) | none => some n) none

/-- Fetched pages of a die not yet delivered to a context (R349). -/
def State.ladleLoad (s : State) (die : Nat) : Nat :=
  (s.sweeps.flatMap fun (v : Sweep) => v.passes.filter fun (p : Pass) =>
    p.die == die && p.fetched && p.batch == 0 && p.holder.isNone).length

/-- No pass remains to deliver (R346, R365). -/
def State.sweepIdle (s : State) (v : Sweep) : Bool :=
  v.passes.isEmpty && v.catchups.isEmpty && (List.range 4).all fun d => (s.nextMain v d).isNone

/-- The walks of a sweep go on. -/
def State.ladles (s : State) (v : Sweep) : State :=
  if v.st = .running ∨ v.st = .sealed then
    (List.range 4).foldl (fun (s : State) d => s.due (.passBegin v.ctx v.addr d)) s
  else s

/-- A die's Ladle has room again: the walks of every sweep on it go on (R349). -/
def State.walkOn (s : State) (die : Nat) : State :=
  s.sweeps.foldl (fun (s : State) v =>
    if v.st = .running ∨ v.st = .sealed then s.due (.passBegin v.ctx v.addr die) else s) s

/-- Each LPASS that waits asks for a batch. -/
def State.offer (s : State) (v : Sweep) : State :=
  v.waiting.foldl (fun (s : State) w => s.due (.batchAssign v.ctx v.addr w.at_.core w.at_.agent)) s

/-- The move to DONE, with DONE_SIG, and from DONE to FREE (R346). -/
def State.settleSweep (s : State) (ctx : Nat) (a : W64) : State :=
  match s.sweep? ctx a with
  | none => s
  | some v =>
    let ended := v.st == .sealed && s.sweepIdle v && v.slots.all fun (p : Nat × QSlot) => p.2.st != SlotSt.active
    let s := if ended then (s.putSweep { v with st := .done }).signalNamed ctx v.doneSig 0 else s
    if (ended || v.st == .done) && v.slots.isEmpty then
      { s with sweeps := s.sweeps.filter fun u => !(u.ctx == ctx && u.addr == a) }
    else s

-- Gates shared by the group (R363, R366) ------------------------------------------------------------------------------------

/-- A deferred HOOP_OVERFLOW is taken at the next ATTN instruction (R366, R428). -/
def State.attnGate (s : State) (reads : List Opnd) : Except State Unit := s.trapGate (fun t => t.at_ == .hoop) reads

/-- The sweep operand: aligned, and readable by the context. -/
def State.sweepGate (s : State) (va : W64) : Except State Unit := do
  need (decide (va.toNat % 64 = 0)) (s.alignTrap va)
  need (s.mapped s.myCtx .r va 64) (s.memFault va 0)

/-- An own-pool range of `n` bytes in the scratchpad, 16-byte aligned (R363). -/
def State.poolGate (s : State) (off n : Nat) : Except State Unit := do
  need (decide (off % 16 = 0)) (s.alignTrap (ownPool off))
  need (s.myCore.inScratch off n) (s.memFault (ownPool off) 0)

-- LSUB and LSEAL (R345 to R348, R364) -------------------------------------------------------------------------------------

/-- A query record with its list and row, read at the LSUB (R347); none where it breaks the rule or cannot be read. -/
def State.queryOf (s : State) (v : Sweep) (qrec : W64) : Option (Nat × QSlot) := do
  let bs ← s.homeBytes v.ctx qrec 32
  let f := fieldAt bs
  let nq := f 4 4
  if f 0 2 < v.nslots ∧ kvOk (f 2 1) = true ∧ 1 ≤ f 3 1 ∧ f 3 1 ≤ 128 ∧ 1 ≤ nq ∧ nq ≤ 16384 ∧ f 16 8 % 4 = 0 then
    let list ← s.homeBytes v.ctx (BitVec.ofNat 64 (f 16 8)) (4 * nq)
    let row ← s.homeBytes v.ctx (BitVec.ofNat 64 (f 8 8)) (v.hdim * kvBytes (f 2 1))
    let pages := (List.range nq).map fun j => fieldAt list (4 * j) 4
    if pages.all (fun p => decide (p < 2 ^ 24 ∧ p < v.npages)) ∧ pages.Nodup then
      some (f 0 2, { st := .active, qfmt := f 2 1, last := f 3 1, pages := pages, tag := BitVec.ofNat 64 (f 24 8), row := row,
                     acc := { ord := 0, m := 0xFF800000, l := 0, o := [] } })
    else none
  else none

/-- The list and the query row that a record names, in a sweep of HDIM; an NQ or a QFMT out of range names none (R347). -/
def recordRanges (hdim : Nat) (bs : List Byte) : List (W64 × Nat) :=
  let nq := fieldAt bs 4 4
  (if 1 ≤ nq ∧ nq ≤ 16384 then [(BitVec.ofNat 64 (fieldAt bs 16 8), 4 * nq)] else []) ++
    if kvOk (fieldAt bs 2 1) then [(BitVec.ofNat 64 (fieldAt bs 8 8), hdim * kvBytes (fieldAt bs 2 1))] else []

/-- The LIST and QADDR reads of a record that can be read are checked at issue (R363); the table waits for the pager
(R436). Where no sweep gives HDIM, the list alone is checked. -/
def State.recordGate (s : State) (v : Option Sweep) (qrec : W64) : Except State Unit :=
  match s.homeBytes s.myCtx qrec 32 with
  | none => .ok ()
  | some bs => do
    let rs := (recordRanges ((v.map Sweep.hdim).getD 0) bs).filter fun r => decide (0 < r.2)
    match rs.find? fun r => !(s.mapped s.myCtx .r r.1 r.2) with
    | some r => .error (s.memFault r.1 0)
    | none => if v.isSome then s.pageGate (rs.map fun r => s.awaited s.myCtx .r r.1 r.2) else .ok ()

/-- The least first of `n` contiguous merge states free in a die's Hoop of 1 024 (R345). -/
def State.mergeBase (s : State) (die n : Nat) : Option Nat :=
  let used := s.sweeps.filter fun v => v.leadDie == die
  (List.range (1025 - n)).find? fun b => used.all fun v => decide (b + n ≤ v.base ∨ v.base + v.nslots ≤ b)

/-- An accepted subscription (R348, R350): its pages join the main walk, or are queued for catch-up passes. -/
def State.subscribe (s : State) (v : Sweep) (x : Nat) (q : QSlot) : Sweep :=
  let late := v.st == .running
  let gone := ((List.range q.pages.length).zip q.pages).filter fun p =>
    late && (v.begun.contains p.2 || decide (p.2 < v.walk.getD (s.pageDie v p.2) 0))
  { v with slots := v.slots.put x q, late := v.late + (if late then 1 else 0),
           catchups := v.catchups ++ gone.map fun p => (p.2, q.prow x p.1) }

/-- The status of an LSUB in a context that is not ACTIVE, in which no sweep is opened (R394): of the two that an opening that
failed may give, a free one (log 62). -/
def State.notOpened (s : State) : Nat := 5 + (Config.freeWord s.tick 7).toNat % 2

/-- The status of an LSUB and what it does to the table (R345, R348, R394). -/
def State.lsub (s : State) (va qrec : W64) : Nat × State :=
  let ctx := s.myCtx
  match s.sweep? ctx va with
  | some v =>
    if v.st = .sealed ∨ v.st = .done then (2, s)
    else
      match s.queryOf v qrec with
      | none => (4, s)
      | some (x, q) =>
        if (v.slots.find? x).isSome then (3, s)
        else
          let w := s.subscribe v x q
          (if v.st = .running then 1 else 0, (s.putSweep w).ladles w)
  | none =>
    if (s.ctx ctx).st ≠ .active then (s.notOpened, s)
    else if 16 ≤ s.sweeps.length then (6, s)
    else
      match (s.homeBytes ctx va 64).bind (s.sweepOf ctx (match s.myCore.run with | .stage pl _ => pl | _ => 0) va), s.planOf with
      | some v, some (_, _, p) =>
        if p.stages.length ≤ v.stage then (5, s)
        else
          match s.queryOf v qrec, s.mergeBase v.leadDie v.nslots with
          | none, _ => (4, s)
          | some _, none => (6, s)
          | some (x, q), some b =>
            let w := s.subscribe { v with base := b } x q
            (0, { s with sweeps := s.sweeps ++ [w] })
      | _, _ => (5, s)

/-- Uncorrectable data among what an LSUB read: BAD_SWEEP has read the descriptor, BAD_QUERY the record with its list and row
(R345, R348, R440). -/
def State.lsubMet (s : State) (st : Nat) (va qrec : W64) (v : Option Sweep) : State :=
  let ctx := s.myCtx
  let rs : List (W64 × Nat) :=
    if st = 5 then [(va, 64)]
    else if st = 4 then (qrec, 32) :: ((s.homeBytes ctx qrec 32).elim [] (recordRanges ((v.map Sweep.hdim).getD 0)))
    else []
  rs.foldl (fun (s : State) r => s.metRange ctx r.1 r.2) s

/-- LSUB (R345 to R348, R363, R364): a release at DEV, after which the record and what it names are read and checked. -/
def execLsub (b a d : BitVec 7) (s : State) : Out :=
  finish do
    s.attnGate [(a, 64), (b, 64)]
    need (isSz a && isSz b && isSz d) s.illegalOperand
    s.interlock [(a, 64), (b, 64)] [(d, 64)]
    let va := s.sval a
    let qrec := s.sval b
    need (decide (va.toNat % 64 = 0)) (s.alignTrap va)
    need (decide (qrec.toNat % 32 = 0)) (s.alignTrap qrec)
    s.sweepGate va
    need (s.mapped s.myCtx .r qrec 32) (s.memFault qrec 0)
    s.faultGate
    let s := s.release s.cur.core 3
    let opens := (s.sweep? s.myCtx va).isNone && decide (s.sweeps.length < 16)
    s.pageGate ((if opens then [s.awaited s.myCtx .r va 64] else []) ++ [s.awaited s.myCtx .r qrec 32])
    let v := (s.sweep? s.myCtx va).or ((s.homeBytes s.myCtx va 64).bind (s.sweepOf s.myCtx 0 va))
    s.recordGate v qrec
    let (st, s) := s.lsub va qrec
    .ok ((s.lsubMet st va qrec v).setS d (BitVec.ofNat 64 st)).advance

/-- LSEAL (R346, R364). -/
def execLseal (b a d : BitVec 7) (s : State) : Out :=
  finish do
    s.attnGate [(a, 64)]
    need (isSz a && isSz d && decide (b.toNat < 2)) s.illegalOperand
    s.interlock [(a, 64)] [(d, 64)]
    let va := s.sval a
    s.sweepGate va
    s.faultGate
    let s := s.release s.cur.core 3
    match s.sweep? s.myCtx va with
    | none => .ok (s.setS d 1).advance
    | some v =>
      let st : SweepSt := match v.st with
        | .open_ => if b = 0 then .running else .sealed
        | .running => if b = 0 then .running else .sealed
        | x => x
      let w : Sweep := { v with st := st }
      let s := if st = v.st then s else (((s.putSweep w).ladles w).settleSweep s.myCtx va)
      .ok (s.setS d 0).advance

-- LPASS (R352, R355, R356, R365, R489) ------------------------------------------------------------------------------------

/-- The extents that R489 checks: offset, alignment, bytes. -/
def LandDesc.extents (l : LandDesc) : List (Nat × Nat × Nat) :=
  [(l.koff, 128, 32768), (l.voff, 128, 32768), (l.qoff, 128, 98304), (l.ioff, 16, 6144)]

/-- The landing descriptor, checked in the order of R489. -/
def State.landDesc (s : State) (b : W64) : Except State LandDesc := do
  need (decide (b.toNat < 2 ^ 23)) s.illegalOperand
  let off ← s.descPlace b 64 64
  let bs ← s.poolBytes off 64
  let f := fieldAt bs
  let name : W64 := BitVec.ofNat 64 (f 16 8)
  let bar := f 24 1 % 2 = 1
  let l : LandDesc := { koff := f 0 4, voff := f 4 4, qoff := f 8 4, ioff := f 12 4, bar := if bar then some name else none,
                        mark := decide (f 24 1 / 2 % 2 = 1) }
  need (decide (f 24 1 < 4) && (bs.drop 25).all (fun x => x == 0) && !(decide bar && name.getLsbD 63)) s.illegalOperand
  match l.extents.find? fun e => e.1 % e.2.1 != 0 with
  | some e => .error (s.alignTrap (ownPool e.1))
  | none => pure ()
  match (l.extents.filterMap fun e => s.myCore.firstOutside e.1 e.2.2 1 e.2.2).head? with
  | some o => .error (s.memFault (ownPool o) 0)
  | none => pure ()
  s.barNameGate l.bar
  s.barRangeGate l.bar (2 * 32768 + 98304 + 6144)
  .ok l

/-- A core runs the sweep's stage. -/
def State.onStage (s : State) (c : Nat) (v : Sweep) : Bool := (s.core c).run == .stage v.plan v.stage

/-- The unique number of an agent's workgroup. -/
def State.uidOf (s : State) (c k : Nat) : Nat := (((s.core c).wgs.find? (s.agentD c k).wg)).elim 0 Wg.uid

/-- LPASS: the result it can write, or the wait that BATCH_ASSIGN ends (R365). -/
def execLpass (b a d : BitVec 7) (s : State) : Out :=
  finish do
    s.attnGate [(a, 64), (b, 64)]
    s.onlyCopy
    need (isSz a && isSz b && evenScalar d) s.illegalOperand
    s.interlock [(a, 64), (b, 64)] [(d, 128)]
    let va := s.sval a
    s.sweepGate va
    let w := s.pipeWait d
    let sw := s.sweep? s.myCtx va
    let joined := (sw.bind fun v => v.waiting.find? fun x => x.at_.same w)
    let l ← match joined with
      | some x => .ok x.desc
      | none => s.landDesc (s.sval b)
    match sw with
    | none => .ok (s.setPair d 4 0).advance
    | some v =>
      if !(s.onStage s.cur.core v) then .ok (s.setPair d 3 0).advance
      else
        let held := v.passes.any fun p => p.holder == some s.myUid
        let leave : Sweep := { v with waiting := v.waiting.filter fun x => !(x.at_.same w) }
        if s.myCore.moving && !held then .ok (((s.putSweep leave).offer leave).setPair d 2 0).advance
        else if (v.st == .sealed || v.st == .done) && s.sweepIdle v then .ok ((s.putSweep leave).setPair d 1 0).advance
        else
          let v : Sweep := if joined.isSome then v else { v with waiting := v.waiting ++ [{ at_ := w, desc := l }] }
          .ok (((s.putSweep v).park (.lpass va)).due (.batchAssign s.myCtx va s.cur.core s.cur.agent))

-- The Hoop (R357 to R362) -----------------------------------------------------------------------------------------------------

/-- A partial record of 528 bytes (R357). -/
def Partial.ofBytes (bs : List Byte) : Partial :=
  { ord := fieldAt bs 4 4, m := BitVec.ofNat 32 (fieldAt bs 8 4), l := BitVec.ofNat 32 (fieldAt bs 12 4),
    o := (List.range 128).foldl (fun (t : SMap 32) j => t.set j (BitVec.ofNat 32 (fieldAt bs (16 + 4 * j) 4))) [] }

def Partial.toBytes (p : Partial) (slot : Nat) : List Byte :=
  leBytes slot 4 ++ leBytes p.ord 4 ++ leBytes p.m.toNat 4 ++ leBytes p.l.toNat 4 ++
    (List.range 128).flatMap fun j => leBytes (p.o.get j).toNat 4

/-- Merge of R358: FP32, round to nearest even; entries from HDIM on are +0. -/
def Partial.merge (hdim : Nat) (p q : Partial) : Partial :=
  let f : Fmt := .f32
  let keep := fun (x : Partial) => { x with o := x.o.filter fun e => decide (e.1 < hdim) : Partial }
  if p.m = 0xFF800000 then keep q
  else if q.m = 0xFF800000 then keep p
  else
    let m := f.fmax p.m.toNat q.m.toNat
    let ex := fun (x : W32) => (fsfuOp fex2Val .rne (f.subOp .rne x.toNat m).1).1
    let a := ex p.m
    let b := ex q.m
    let mix := fun (x y : W32) => BitVec.ofNat 32 (f.fmaOp .rne false false y.toNat b (f.mulOp .rne x.toNat a).1).1
    { ord := p.ord, m := BitVec.ofNat 32 m, l := mix p.l q.l,
      o := (List.range hdim).foldl (fun (t : SMap 32) j => t.set j (mix (p.o.get j) (q.o.get j))) [] }

/-- What a merge and the merges it triggers do to a slot; `rd` reads a Whey slot, none where it is uncorrectable.
Answers the partials merged and discarded. -/
def QSlot.chain (hdim : Nat) (rd : Nat → Option Partial) : Nat → QSlot → QSlot × Nat × Nat
  | 0, q => (q, 0, 0)
  | n + 1, q =>
    match q.held.find? fun h => h.p.ord == q.next with
    | none => (q, 0, 0)
    | some h =>
      let q : QSlot := { q with held := q.held.filter fun k => k.p.ord != q.next }
      match (if h.bad then none else match h.whey with | some k => rd k | none => some h.p) with
      | none => ({ q with st := .broken 4 }, 0, 1)
      | some p =>
        let r := QSlot.chain hdim rd n { q with acc := Partial.merge hdim q.acc p, next := q.next + 1 }
        (r.1, r.2.1 + 1, r.2.2)

/-- A partial with the next ordinal (R359). -/
def QSlot.absorb (hdim : Nat) (rd : Nat → Option Partial) (q : QSlot) (p : Partial) : QSlot × Nat × Nat :=
  let r := QSlot.chain hdim rd q.held.length { q with acc := Partial.merge hdim q.acc p, next := q.next + 1 }
  let q' : QSlot := if r.1.st = .active ∧ r.1.next = r.1.pages.length then { r.1 with st := .complete } else r.1
  (q', r.2.1 + 1, r.2.2)

/-- Virtual address of a Whey slot. -/
def Sweep.whey (v : Sweep) (k : Nat) : W64 := v.wheyBase + BitVec.ofNat 64 (640 * k)

def State.readWhey (s : State) (v : Sweep) (k : Nat) : Option Partial := (s.homeBytes v.ctx (v.whey k) 528).map Partial.ofBytes

/-- The Whey slots that hold the run of ordinals after NEXT. -/
def QSlot.runWhey (q : QSlot) : List Nat :=
  ((List.range q.held.length).map fun i => q.next + 1 + i).foldr (fun o (rest : List Nat) =>
    match q.held.find? fun h => h.p.ord == o with
    | some h => (match h.whey with | some k => if h.bad then rest else k :: rest | none => rest)
    | none => []) []

/-- Partial buffers of a die in use, of 4 096 (R345). -/
def State.buffersUsed (s : State) (die : Nat) : Nat :=
  ((s.sweeps.filter fun v => v.leadDie == die).flatMap fun (v : Sweep) =>
    v.slots.flatMap fun (p : Nat × QSlot) => p.2.held.filter fun h => h.whey.isNone).length

/-- An HMRG is complete (R366). -/
def State.msgDone (s : State) (m : Msg) : State :=
  { s.complete m.core m.agent .xc m.id with msgs := s.msgs.filter fun n => n.id != m.id, hoopWait := s.hoopWait.filter fun n => n != m.id }

/-- Arrive of R359 for a partial, except for the outcome of its wait; none where it waits. One that is to be held in a Whey slot
takes no buffer. -/
def State.hoopTry (s : State) (m : Msg) : Option State :=
  match m.kind with
  | .partial_ sweep x p whey =>
    match s.sweep? m.ctx sweep with
    | none => some (s.msgDone m)
    | some v =>
      match v.slots.find? x with
      | none => some ((s.putSweep { v with discarded := v.discarded + 1 }).msgDone m)
      | some q =>
        if q.st ≠ .active then some ((s.putSweep { v with discarded := v.discarded + 1 }).msgDone m)
        else if q.pages.length ≤ p.ord ∨ p.ord < q.next ∨ q.held.any (fun h => h.p.ord == p.ord) then
          some ((s.putSweep { v with discarded := v.discarded + 1, slots := v.slots.put x { q with st := .broken 2 } }).msgDone m)
        else if p.ord = q.next then
          if q.runWhey.any fun k => (s.stopCode v.ctx .r (v.whey k) 528).any resolvable then none
          else
            let r := q.absorb v.hdim (s.readWhey v) p
            let s := match q.runWhey.find? fun k => (s.readWhey v k).isNone with
              | some k => s.metRange v.ctx (v.whey k) 528
              | none => s
            some ((s.putSweep { v with merged := v.merged + r.2.1, discarded := v.discarded + r.2.2,
                                       slots := v.slots.put x r.1 }).msgDone m)
        else if whey.isNone && decide (s.buffersUsed v.leadDie < 4096) then
          some ((s.putSweep { v with slots := v.slots.put x { q with held := q.held ++ [{ p := p, whey := none }] } }).msgDone m)
        else none
  | _ => some s

/-- Waiting partials in FIFO order: those that can be handled now are (R359, R361). -/
def State.hoopServe (s : State) : Nat → State
  | 0 => s
  | n + 1 =>
    match (s.hoopWait.filterMap fun op => (s.msgs.find? fun m => m.id == op).bind s.hoopTry).head? with
    | some s => s.hoopServe n
    | none => s

/-- After a change at the Hoop: waiting partials, then the sweep. -/
def State.hoopAfter (s : State) (ctx : Nat) (a : W64) : State := (s.hoopServe s.hoopWait.length).settleSweep ctx a

/-- HMRG (R357, R366). -/
def execHmrg (b a : BitVec 7) (s : State) : Out :=
  finish do
    s.attnGate [(a, 64), (b, 64)]
    need (isSz a && isSz b) s.illegalOperand
    s.interlock [(a, 64), (b, 64)] []
    let v := s.sval b
    need (decide (v.toNat < 2 ^ 23)) s.illegalOperand
    s.sweepGate (s.sval a)
    s.poolGate v.toNat 528
    let bs ← s.poolBytes v.toNat 528
    s.roomGate .xc
    let (id, s) := s.fresh
    let s := s.count .xc id
    let k : MsgKind := .partial_ (s.sval a) (fieldAt bs 0 4) (Partial.ofBytes bs) none
    let m : Msg := { id := id, core := s.cur.core, agent := s.cur.agent, ctx := s.myCtx, kind := k }
    .ok ({ s with msgs := s.msgs ++ [m] }.due (.partialArrive id)).advance

-- HGET, HREL and LQRY (R367 to R369) ------------------------------------------------------------------------------------------

/-- The status HGET writes to D (R367). -/
def hgetStatus (v : Option Sweep) (x : Nat) : W64 :=
  match v with
  | none => 8
  | some v =>
    match v.slots.find? x with
    | none => 4
    | some q =>
      let low := match q.st with | .active => 0 | .complete => 1 | .broken r => 2 + r * 16
      BitVec.ofNat 64 (q.pages.length * 2 ^ 48 + q.next * 2 ^ 32 + low)

/-- The operation an HGET counts on XC: it is counted when the instruction first executes. -/
def State.partOp (s : State) : Except State (Nat × State) :=
  match s.myPart.op with
  | some id => .ok (id, s)
  | none => do
    s.roomGate .xc
    let (id, s) := s.fresh
    .ok (id, (s.count .xc id).modPart fun p => { p with op := some id })

def execHget (b a d : BitVec 7) (s : State) : Out :=
  finish do
    s.attnGate [(a, 64), (b, 64)]
    need (isSz a && isSz b && isSz d) s.illegalOperand
    s.interlock [(a, 64), (b, 64)] [(d, 64)]
    let v := s.sval b
    let va := s.sval a
    let x := v.toNat % 1024
    let off := v.toNat / 2 ^ 16 % 2 ^ 23
    need (decide (v.toNat / 2 ^ 10 % 2 ^ 6 = 0 ∧ v.toNat < 2 ^ 39)) s.illegalOperand
    s.sweepGate va
    s.poolGate off 528
    let (id, s) ← s.partOp
    let sw := s.sweep? s.myCtx va
    let q := sw.bind fun v => v.slots.find? x
    if (q.map QSlot.st) = some .active ∧ !s.myPart.expired ∧ s.me.twh ≠ 0 then
      .ok ((s.park (.hget va x)).due (.trywaitExpire s.cur.core s.cur.agent s.cur.part))
    else
      let s ← match q with
        | some q =>
          if q.st = .complete then do
            s.emptyGate 528 [(0, ownPool off)]
            let p : Partial := { q.acc with ord := q.pages.length }
            pure ((s.modMyCore fun c => c.poolPut off (p.toBytes x)).acquire s.cur.core 3)
          else pure s
        | none => pure s
      .ok ((s.setS d (hgetStatus sw x)).due (.accessComplete s.cur.core s.cur.agent .xc id)).advance

/-- HREL (R368): the slot is FREE; its rows leave the catch-up queue, and its held partials are gone. -/
def execHrel (b a : BitVec 7) (s : State) : Out :=
  finish do
    s.attnGate [(a, 64), (b, 64)]
    need (isSz a && isSz b) s.illegalOperand
    s.interlock [(a, 64), (b, 64)] []
    let x := (s.sval b).toNat
    need (decide (x < 1024)) s.illegalOperand
    let va := s.sval a
    s.sweepGate va
    s.roomGate .xc
    let (id, s) := s.fresh
    let s := s.count .xc id
    let s := match s.sweep? s.myCtx va with
      | some v => (s.putSweep { v with slots := v.slots.del x, catchups := v.catchups.filter fun p => p.2.slot != x }).hoopAfter s.myCtx va
      | none => s
    .ok (s.due (.accessComplete s.cur.core s.cur.agent .xc id)).advance

/-- The HGETs that are suspended on a sweep that is dropped find their slot BROKEN with reason 3 (R346, R367). -/
def State.breakHgets (s : State) (v : Sweep) : State :=
  let mine := s.cores.filter fun c => c.2.ctx == some v.ctx
  let waits := mine.flatMap fun c => c.2.agents.flatMap fun a => a.2.parts.filterMap fun p =>
    match p.2.wait, p.2.latch with
    | some (.hget b x), some l => if b = v.addr then some (c.1, a.1, p.1, x, l.word.toNat % 128, p.2.op) else none
    | _, _ => none
  waits.foldl (fun (s : State) (c, k, p, x, d, op) =>
    let w := { v with slots := v.slots.map fun (q : Nat × QSlot) => (q.1, { q.2 with st := .broken 3 }) : Sweep }
    let s := s.modAgent c k fun a => if 96 ≤ d ∧ d < 120 then a.sset (d - 96) (hgetStatus (some w) x) else a
    let s := s.resumePart c k p
    match op with
    | some id => s.due (.accessComplete c k .xc id)
    | none => s) s

/-- The sweeps of an ended plan are gone, and what waits at the Hoop for them is discarded (R346). -/
def State.dropSweeps (s : State) (keep : Sweep → Bool) : State :=
  let s := (s.sweeps.filter fun v => !(keep v)).foldl (fun (s : State) v => s.breakHgets v) s
  let s := { s with sweeps := s.sweeps.filter keep }
  s.hoopServe s.hoopWait.length

/-- The counts of LQRY (R369). -/
def Sweep.query (v : Sweep) (sel : Nat) : W64 :=
  let two := fun (lo hi : Nat) => BitVec.ofNat 64 (lo % 2 ^ 32 + hi % 2 ^ 32 * 2 ^ 32)
  match sel with
  | 0 => two ((match v.st with | .open_ => 1 | .running => 2 | .sealed => 3 | .done => 4) + v.slots.length * 2 ^ 16) v.late
  | 1 => two v.mainFetch v.secondFetch
  | 2 => two v.batches v.spills
  | _ => two v.merged v.discarded

def execLqry (b a d : BitVec 7) (s : State) : Out :=
  finish do
    s.attnGate [(a, 64)]
    need (isSz a && isSz d && decide (b.toNat < 4)) s.illegalOperand
    s.interlock [(a, 64)] [(d, 64)]
    let va := s.sval a
    s.sweepGate va
    .ok (s.setS d ((s.sweep? s.myCtx va).elim 0 fun v => v.query b.toNat)).advance

end Sys2Proof.Machine
end

