-- ==== Sys2Proof/Machine/Plan.lean ====
section
/-! DEFINITION. Launch records and plan records: their fields (R283, R284, R311 to R313) and the checks of the launch
processor and of the plan controller (R15, R285 to R287, R314, R317, R488), with what a refusal reports. -/

namespace Sys2Proof.Machine

-- Launch records (R283 to R286) ----------------------------------------------------------------------------------------

def Section.ofBytes (bs : List Byte) : Section :=
  let f := fieldAt bs
  { entry := f 0 4, count := f 4 1, role := f 5 1, slots := f 6 1, first := f 7 1 }

def Level.ofBytes (bs : List Byte) : Level :=
  let f := fieldAt bs
  { extent := f 0 4, domain := f 4 1, scope := f 5 1 }

/-- All bytes are zero. -/
def allZero (bs : List Byte) : Bool := bs.all fun b => b == 0

/-- The 256 bytes of a launch record (R283, R284). -/
def LaunchRec.ofBytes (addr : W64) (bs : List Byte) : LaunchRec :=
  let f := fieldAt bs
  let ns := min 8 (f 29 1)
  let nl := min 8 (f 42 1)
  let at8 := fun (o : Nat) => (bs.drop o).take 8
  let w := fun (o : Nat) => BitVec.ofNat 64 (f o 8)
  let reserved := decide (f 6 2 < 4 ∧ f 44 4 = 0 ∧ f 60 4 = 0) && allZero ((bs.drop (64 + 8 * ns)).take (64 - 8 * ns)) &&
    allZero ((bs.drop (128 + 8 * nl)).take (64 - 8 * nl)) && (List.range nl).all fun k => f (134 + 8 * k) 2 == 0
  { addr := addr, magic := f 0 4, version := f 4 2, flags := f 6 2, code := w 8, handlerOff := f 16 4, copyOff := f 20 4,
    vregs := f 24 2, regTop := f 26 1, scrTop := f 27 1, xchTop := f 28 1, nsect := f 29 1, nwaves := f 30 1,
    slotTotal := f 31 1, lmtab := w 32, lmcount := f 40 2, nlevels := f 42 1, wgmax := f 43 1, param := w 48,
    wgEnergy := f 56 4, sects := (List.range ns).map fun k => Section.ofBytes (at8 (64 + 8 * k)),
    levels := (List.range nl).map fun k => Level.ofBytes (at8 (128 + 8 * k)),
    args := (List.range 8).map fun k => w (192 + 8 * k), reserved := reserved }

/-- The boundaries that R15 accepts. -/
def boundsOk (reg scr xch : Nat) : Bool :=
  decide (8 ≤ reg ∧ reg ≤ 48 ∧ reg ≤ scr ∧ scr ≤ xch ∧ (xch - scr) % 2 = 0 ∧ xch ≤ 92)

/-- The smallest scope of a domain (R286). -/
def domainScope (d : Nat) : Nat :=
  match d with | 0 | 1 => 0 | 2 => 1 | 3 => 2 | 4 | 5 => 3 | _ => 4

/-- Product of the extents of the levels of a domain range. -/
def LaunchRec.extents (lr : LaunchRec) (lo hi : Nat) : Nat :=
  lr.levels.foldl (fun p l => if lo ≤ l.domain ∧ l.domain ≤ hi then p * l.extent else p) 1

/-- A list that does not fall. -/
def notFalling : List Nat → Bool
  | x :: y :: rest => decide (x ≤ y) && notFalling (y :: rest)
  | _ => true

/-- The hierarchy that R286 requires, for a launch on `ndev` devices (R488). -/
def LaunchRec.levelsOk (lr : LaunchRec) (ndev : Nat) : Bool :=
  let ds := lr.levels.map Level.domain
  decide (1 ≤ lr.nlevels ∧ lr.nlevels ≤ 8) && notFalling ds &&
  (lr.levels.all fun l => decide (l.domain ≤ 6 ∧ 1 ≤ l.extent ∧ domainScope l.domain ≤ l.scope ∧ l.scope ≤ 4)) &&
  (lr.levels.all fun l => decide (l.domain ≠ 0 ∨ l.extent = 64) && decide (l.domain ≠ 6 ∨ l.extent = ndev)) &&
  decide ((ds.filter fun d => d == 0).length ≤ 1 ∧ (ds.filter fun d => d == 6).length ≤ 1) &&
  (!(ds.contains 1) || lr.extents 1 1 == lr.nwaves)

/-- The placement blocks G of the CLUSTER and DIE levels, with their domains (R287). -/
def LaunchRec.blocks (lr : LaunchRec) : List (Nat × Nat) :=
  (lr.levels.foldl (fun (acc : Nat × List (Nat × Nat)) l =>
    let out := if l.domain = 3 ∨ l.domain = 4 then acc.2 ++ [(l.domain, acc.1)] else acc.2
    (if 2 ≤ l.domain ∧ l.domain ≤ 5 then acc.1 * l.extent else acc.1, out)) (1, [])).2

/-- The accumulator slots of the sections (R285, reason 0x05). -/
def LaunchRec.slotsOk (lr : LaunchRec) : Bool :=
  decide (lr.slotTotal ≤ 16) && lr.sects.all fun x =>
    if x.role = 1 then decide (x.slots = 0 ∧ x.first = 0)
    else decide (x.slots ≤ 16 ∧ x.first + x.count * x.slots ≤ lr.slotTotal)

/-- The first check of R285 that a launch record fails, in the order of its table; 0 when it passes. -/
def State.checkRec (s : State) (ctx : Nat) (lr : LaunchRec) (ndev : Nat) : Nat :=
  if lr.magic ≠ 0x4C524E31 ∨ lr.version ≠ 1 ∨ !lr.reserved then 1
  else if !(boundsOk lr.regTop lr.scrTop lr.xchTop) then 2
  else if lr.vregs < 96 ∨ 512 < lr.vregs ∨ lr.vregs % 32 ≠ 0 ∨ lr.regTop * 65536 < lr.nwaves * lr.vregs * 256 then 3
  else if lr.nsect < 1 ∨ 8 < lr.nsect ∨ lr.nwaves < 1 ∨ 32 < lr.nwaves ∨
      !(lr.sects.all fun x => decide (1 ≤ x.count ∧ x.count ≤ 32 ∧ x.role ≤ 1)) ∨
      lr.sects.foldl (fun n x => n + x.count) 0 ≠ lr.nwaves then 4
  else if !lr.slotsOk then 5
  else if !(lr.levelsOk ndev) then 6
  else if 4096 < lr.lmcount ∨ (lr.lmcount = 0 ∧ lr.lmtab ≠ 0) ∨
      (0 < lr.lmcount ∧ (lr.lmtab.toNat % 16 ≠ 0 ∨ !(s.mapped ctx .r lr.lmtab (16 * lr.lmcount)))) then 7
  else if lr.code.toNat % 4 ≠ 0 ∨ !(s.mapped ctx .x lr.code 4) ∨ !(lr.sects.all fun x => x.entry % 4 == 0) ∨
      (lr.copyOff ≠ 0xFFFFFFFF ∧ lr.copyOff % 4 ≠ 0) ∨ (lr.flags % 2 = 1 ∧ lr.handlerOff % 4 ≠ 0) then 8
  else 0

/-- A launch record read at its homes; none where it is misaligned or cannot be read. -/
def State.launchRec (s : State) (ctx : Nat) (a : W64) : Option LaunchRec :=
  if a.toNat % 256 = 0 then (s.homeBytes ctx a 256).map (LaunchRec.ofBytes a) else none

-- Plan records (R311 to R314) --------------------------------------------------------------------------------------------

/-- Bits of an element of a pipe's EFMT (R313); none for codes it may not be. -/
def pipeBits (f : Nat) : Option Nat :=
  match f with
  | 0 | 1 | 5 => some 8
  | 2 | 3 => some 6
  | 4 | 8 => some 4
  | 6 | 7 => some 16
  | 10 => some 32
  | _ => none

def StageSt.ofBytes (bs : List Byte) : StageSt :=
  let f := fieldAt bs
  { lrAddr := BitVec.ofNat 64 (f 0 8), kind := f 8 1, dieMask := f 9 1, device := f 10 2, coreMin := f 12 1, coreMax := f 13 1,
    coreInit := f 14 1, npersist := f 15 1, rangeBegin := f 16 4, rangeEnd := f 20 4, chunk := f 24 4,
    reserved := allZero ((bs.drop 28).take 36) }

def PipeSt.ofBytes (bs : List Byte) : PipeSt :=
  let f := fieldAt bs
  { producer := f 0 1, consumer := f 1 1, efmt := f 2 1, flags := f 3 1, rows := f 4 2, cols := f 6 2, slotSize := f 8 4,
    depth := f 12 2, scope := f 14 1, homeDie := f 15 1, vaultOff := f 16 4, spill := f 20 4,
    wheyBase := BitVec.ofNat 64 (f 24 8), reserved := allZero ((bs.drop 32).take 32),
    vfree := { limit := f 12 2 }, wfree := { limit := f 20 4 } }

/-- The fields of a stage entry (R312). -/
def StageSt.fieldsOk (t : StageSt) : Bool :=
  t.reserved && decide (t.kind ≤ 1 ∧ 1 ≤ t.dieMask ∧ t.dieMask < 16 ∧ t.device < 1024 ∧ 1 ≤ t.coreMin ∧
    t.coreMin ≤ t.coreInit ∧ t.coreInit ≤ t.coreMax ∧ t.coreMax ≤ 128) &&
  (if t.kind = 1 then decide (1 ≤ t.npersist ∧ t.npersist ≤ 8 ∧ t.rangeBegin = 0 ∧ t.rangeEnd = 0 ∧ t.chunk = 0)
   else decide (t.npersist = 0 ∧ t.rangeBegin < t.rangeEnd ∧ 1 ≤ t.chunk))

/-- The dies of a mask. -/
def diesOf (mask : Nat) : List Nat := (List.range 4).filter fun d => mask.testBit d

/-- The launch records of the stages (R285, R314, R317), checked in stage order: the first refusal. -/
def State.checkStageRecs (s : State) (ctx : Nat) (all : List StageSt) : List StageSt → Except Nat (List StageSt)
  | [] => .ok []
  | t :: ts =>
    match s.launchRec ctx t.lrAddr with
    | none => .error 0x11
    | some lr =>
      let ndev := ((all.filter fun u => u.lrAddr == t.lrAddr).map StageSt.device).eraseDups.length
      match s.checkRec ctx lr ndev with
      | 0 =>
        if t.kind = 0 ∧ !(lr.blocks.all fun g => t.chunk % g.2 == 0) then .error 0x11
        else (s.checkStageRecs ctx all ts).map fun us => { t with lr := lr, proj := lr.wgEnergy } :: us
      | r => .error r

/-- The numbers of a pipe entry (R313, reason 0x12). -/
def PipeSt.fieldsOk (nstages : Nat) (q : PipeSt) : Bool :=
  q.reserved && decide (q.producer < nstages ∧ q.consumer < nstages ∧ q.producer ≠ q.consumer ∧ q.flags < 2 ∧ 1 ≤ q.rows ∧
    1 ≤ q.cols ∧ q.slotSize % 128 = 0 ∧ 128 ≤ q.slotSize ∧ q.slotSize ≤ 2 ^ 20 ∧ 2 ≤ q.depth ∧ q.depth ≤ 4096 ∧
    (q.scope = 3 ∨ q.scope = 4) ∧ q.homeDie < 4 ∧ q.vaultOff % 128 = 0 ∧ q.spill ≤ 2 ^ 24) &&
  (match pipeBits q.efmt with | some b => decide ((q.rows * q.cols * b + 7) / 8 ≤ q.slotSize) | none => false)

/-- The same with the Whey ring, in the context. -/
def State.pipeOk (s : State) (ctx nstages : Nat) (q : PipeSt) : Bool :=
  q.fieldsOk nstages &&
  (if q.spill = 0 then q.wheyBase == 0
   else
    let n := q.spill * q.slotSize
    decide (q.wheyBase.toNat % 128 = 0) && s.mapped ctx .rw q.wheyBase n &&
      (cut2M q.wheyBase.toNat n).all fun p =>
        ((s.ctx ctx).translate .rw (BitVec.ofNat 64 p.1)).any fun ia => decide (iaClass ia < 5))

/-- The vault slots of a pipe, as a range of its die's vault. -/
def PipeSt.vaultRange (q : PipeSt) : Nat × Nat := (q.vaultOff, q.vaultOff + q.depth * q.slotSize)

/-- The slots fit the home die's vault and no other resident plan's slots overlap them (R314, reason 0x14), and no
granule they would use is marked failed (R444). Only pipes homed on this device are known here (log 19). -/
def State.vaultOk (s : State) (stages : List StageSt) (q : PipeSt) : Bool :=
  let here := fun (ts : List StageSt) (p : PipeSt) => (ts[p.consumer]?).any fun t => t.device == s.devNum
  let lo := q.vaultRange.1
  let hi := q.vaultRange.2
  let die := s.die q.homeDie
  !(here stages q) ||
    (decide (hi ≤ 64 * die.vaultSteps * 786432) && (s.plans.all fun p => p.2.pipes.all fun r =>
      !(here p.2.stages r) || r.homeDie != q.homeDie || decide (r.vaultRange.2 ≤ lo ∨ hi ≤ r.vaultRange.1)) &&
     !(die.vaultBad.any fun g => decide (lo < (g + 1) * 65536 ∧ g * 65536 < hi)))

/-- The cores a plan needs on this device (R314, reason 0x15). -/
def State.coresOk (s : State) (ctx : Nat) (stages : List StageSt) : Bool :=
  let mine := stages.filter fun t => t.device == s.devNum
  let sum := mine.foldl (fun n t => n + t.coreInit) 0
  let served := fun (ds : List Nat) => ((List.range 128).filter fun c => ds.contains (dieOf c) && !((s.core c).noNew)).length
  decide (sum ≤ served (mine.flatMap fun t => diesOf t.dieMask).eraseDups) &&
    (mine.all fun t => decide (t.coreInit ≤ served (diesOf t.dieMask))) && decide (sum ≤ (s.ctx ctx).cbCores)

/-- A device can be reached and holds the context (R314, R386, R388). -/
def State.holdsCtx (s : State) (ctx dev : Nat) : Bool :=
  dev == s.devNum || ((s.podCtx.getD ctx []).contains dev && !(s.lostDevs.contains dev))

/-- The plan in a record, as its header and entries give it. -/
def PlanSt.ofBytes (ctx prio order : Nat) (a : W64) (bs : List Byte) : PlanSt :=
  let f := fieldAt bs
  let w := fun (o : Nat) => BitVec.ofNat 64 (f o 8)
  let ns := f 6 1
  let entry := fun (k : Nat) => (bs.drop (64 * (k + 1))).take 64
  { ctx := ctx, addr := a, prio := prio, order := order, balUs := if f 8 4 = 0 then 200 else f 8 4,
    hyst := if f 12 1 = 0 then 64 else f 12 1, highWater := if f 13 1 = 0 then 192 else f 13 1, noBal := decide (f 14 1 % 2 = 1),
    dlUs := if f 16 4 = 0 then 10000 else f 16 4, statusAddr := w 24, doneSig := w 32, faultSig := w 40,
    stages := (List.range ns).map fun k => StageSt.ofBytes (entry k),
    pipes := (List.range (f 7 1)).map fun k => PipeSt.ofBytes (entry (ns + k)), digest := Config.sha512 bs }

/-- Check 0x10 of a header (R311, R314). -/
def headerOk (bs : List Byte) : Bool :=
  let f := fieldAt bs
  decide (f 0 4 = 0x504C4E31 ∧ f 4 2 = 1 ∧ 1 ≤ f 6 1 ∧ f 6 1 ≤ 16 ∧ f 7 1 ≤ 32 ∧ (f 8 4 = 0 ∨ (10 ≤ f 8 4 ∧ f 8 4 ≤ 100000)) ∧
    f 14 1 < 2 ∧ f 15 1 = 0 ∧ (f 16 4 = 0 ∨ (100 ≤ f 16 4 ∧ f 16 4 ≤ 10000000)) ∧ f 20 4 = 0 ∧ f 24 8 % 64 = 0 ∧
    f 32 8 % 16 = 0 ∧ f 40 8 % 16 = 0 ∧ f 48 8 = 0 ∧ f 56 8 = 0)

/-- What the checks of a plan record answer: the reason of a refusal, the header where it passed check 0x10, and whether
STATUS_ADDR and FAULT_SIG passed check 0x17 (R285). -/
structure PlanCheck where
  reason : Nat
  plan : Option PlanSt := none
  statusOk : Bool := false
  faultOk : Bool := false
  deriving DecidableEq, Repr

/-- The bytes of a plan record at an address, as far as they can be read. -/
def State.planBytes (s : State) (ctx : Nat) (a : W64) : Option (List Byte) :=
  (s.homeBytes ctx a 64).bind fun h => s.homeBytes ctx a (64 * (1 + fieldAt h 6 1 + fieldAt h 7 1))

/-- The checks of a plan record (R314). Of several that fail, the first in the order of the table decides, the launch
records and blocks after the stage entries. -/
def State.checkPlan (s : State) (ctx : Nat) (a : W64) (prio : Nat) : PlanCheck :=
  if a.toNat % 64 ≠ 0 then { reason := 0x10 }
  else
    match s.homeBytes ctx a 64 with
    | none => { reason := 0x10 }
    | some h =>
      if !(headerOk h) then { reason := 0x10 }
      else
        match s.planBytes ctx a with
        | none => { reason := 0x10 }
        | some bs =>
          let p := PlanSt.ofBytes ctx prio s.planNo a bs
          let stOk := s.mapped ctx .w p.statusAddr (64 + 32 * p.pipes.length)
          let sigOk := fun (x : W64) => x == 0 || s.mapped ctx .w x 16
          let out := fun (r : Nat) (p : PlanSt) =>
            ({ reason := r, plan := some p, statusOk := stOk, faultOk := sigOk p.faultSig } : PlanCheck)
          if !(p.stages.all StageSt.fieldsOk) then out 0x11 p
          else
            match s.checkStageRecs ctx p.stages p.stages with
            | .error r => out r p
            | .ok stages =>
              let p : PlanSt := { p with stages := stages }
              let dev := fun (n : Nat) => (stages[n]?).elim 0 StageSt.device
              if !(p.pipes.all (s.pipeOk ctx stages.length)) then out 0x12 p
              else if p.pipes.any fun q => q.scope == 3 && dev q.producer != dev q.consumer then out 0x13 p
              else if !(p.pipes.all (s.vaultOk stages)) then out 0x14 p
              else if !(s.coresOk ctx stages) then out 0x15 p
              else if !(stages.all fun t => s.holdsCtx ctx t.device) then out 0x16 p
              else if !stOk || !(sigOk p.doneSig) || !(sigOk p.faultSig) then out 0x17 p
              else out 0 p

/-- Every range that the checks read, in order. -/
def State.planRanges (s : State) (ctx : Nat) (a : W64) : List (W64 × Nat) :=
  (a, 64) :: match s.homeBytes ctx a 64 with
    | none => []
    | some h =>
      if !(headerOk h) then []
      else (a, 64 * (1 + fieldAt h 6 1 + fieldAt h 7 1)) ::
        match s.planBytes ctx a with
        | some bs => (PlanSt.ofBytes ctx 0 0 a bs).stages.map fun t => (t.lrAddr, 256)
        | none => []

/-- The controller waits for the pager where one of the pages it reads is not yet there, and the pager has refused none of those
in `gone` before it (R436). -/
def State.planAwaits (s : State) (ctx : Nat) (a : W64) (gone : List Nat) : Bool :=
  (waitPage gone ((s.planRanges ctx a).map fun r => s.awaited ctx .r r.1 r.2)).isSome

-- The status block (R315) ---------------------------------------------------------------------------------------------------

/-- The record of a pipe. -/
def PipeSt.record (q : PipeSt) : List Byte :=
  leBytes q.tNext 8 ++ leBytes q.h 8 ++ leBytes q.vfree.size 2 ++ leBytes (min 4096 q.cfree) 2 ++ leBytes q.wfree.size 4 ++
    leBytes q.spills 4 ++ leBytes q.voided 4

/-- Writes the status block, and after it the signals of `sigs`; where a page refuses the write, that part is not written. -/
def State.writeStatus (s : State) (p : PlanSt) (st reason stage pipe : Nat) (recs : List Byte) (sigs : List (W64 × Nat)) : State :=
  let w := st + reason % 256 * 2 ^ 8 + stage % 16 * 2 ^ 16 + pipe % 32 * 2 ^ 24
  let bs := leBytes w 4 ++ leBytes 0 4 ++ leBytes s.now 8 ++ List.replicate 48 0 ++ recs
  s.sysSend { ctx := p.ctx, pieces := pageCut p.statusAddr bs, sigs := sigs.filter fun g => g.1 != 0 }

/-- What a refused plan reports (R285): the log entry of die 0, the status block and FAULT_SIG. -/
def State.refusePlan (s : State) (ctx : Nat) (k : PlanCheck) : State :=
  let s := s.find 0 13 9 ctx k.reason s.freeWhere 0 true
  match k.plan with
  | none => s
  | some p =>
    let sigs := if k.faultOk then [(p.faultSig, 2 + k.reason * 2 ^ 8)] else []
    if k.statusOk then s.writeStatus p 4 k.reason 0 0 (List.replicate (32 * p.pipes.length) 0) sigs
    else sigs.foldl (fun (s : State) g => s.signalNamed ctx g.1 g.2) s

/-- A plan is accepted, and waits for its cores (R316). -/
def State.acceptPlan (s : State) (p : PlanSt) : State :=
  let slot := ((List.range 32).find? fun k => s.plans.all fun q => q.2.slot != k).getD 0
  { s with plans := s.plans.put s.planNo { p with order := s.planNo, slot := slot }, planNo := s.planNo + 1 }.due .planStart

/-- A plan's launch: its checks, and acceptance or refusal; answers the reason, 0 for acceptance (R285, R314, R343). In a
context that is not ACTIVE it is refused with reason 0x16, and the error log alone is written (R394). -/
def State.launchPlan (s : State) (ctx : Nat) (a : W64) (prio : Nat) : Nat × State :=
  let k : PlanCheck := if (s.ctx ctx).st = .active then s.checkPlan ctx a prio else { reason := 0x16 }
  match k.reason, k.plan with
  | 0, some p => (0, s.acceptPlan p)
  | r, _ =>
    -- a record that cannot be read may hold uncorrectable data (R440)
    let s := if r = 0x10 ∨ r = 0x11 then (s.planRanges ctx a).foldl (fun (s : State) g => s.metRange ctx g.1 g.2) s else s
    (r, s.refusePlan ctx k)

/-- The plan that another device's controller announces, where it has a stage here and what concerns this device is in order
(R314, R316). -/
def State.announced (s : State) (r : Sys2Proof.RemotePlan) : Option PlanSt :=
  let p := PlanSt.ofBytes r.ctx r.prio s.planNo r.addr r.record
  let take := fun (t : StageSt) (bs : List Byte) =>
    let lr := LaunchRec.ofBytes t.lrAddr bs
    { t with lr := lr, proj := lr.wgEnergy : StageSt }
  let p : PlanSt := { p with lead := false, stages := (p.stages.zip r.launches).map fun x => take x.1 x.2 }
  let here := fun (t : StageSt) => t.device == s.devNum
  let ndev := fun (t : StageSt) => ((p.stages.filter fun u => u.lrAddr == t.lrAddr).map StageSt.device).eraseDups.length
  if decide (r.prio < 4 ∧ r.record.length = 64 * (1 + fieldAt r.record 6 1 + fieldAt r.record 7 1)) && headerOk r.record &&
      r.launches.length == fieldAt r.record 6 1 && (r.launches.all fun l => l.length == 256) &&
      p.stages.all StageSt.fieldsOk && p.stages.any here &&
      (p.stages.all fun t => !(here t) || s.checkRec r.ctx t.lr (ndev t) == 0) &&
      p.pipes.all (PipeSt.fieldsOk p.stages.length) && p.pipes.all (s.vaultOk p.stages) then some p
  else none

end Sys2Proof.Machine
end

