-- ==== Sys2Proof/Machine/Distribute.lean ====
section
/-! DEFINITION. The distributors of a RANGED stage (R317, R318): nodes 0 the chip, 1 + die, 5 + cluster; each holds
ranges of workgroup indices, cut at block boundaries. -/

namespace Sys2Proof.Machine

/-- Ranges [lo, hi) of workgroup indices, rising. -/
abbrev Ranges := List (Nat × Nat)

/-- Where blocks are cut (R317, R287): at RANGE_BEGIN and every CHUNK on; when RANGE_BEGIN would split a placement block,
at the multiples of CHUNK. -/
def StageSt.origin (t : StageSt) : Nat :=
  if t.lr.blocks.all fun g => t.rangeBegin % g.2 == 0 then t.rangeBegin % t.chunk else 0

/-- The block an index lies in, and where a block begins. -/
def StageSt.blockOf (t : StageSt) (g : Nat) : Nat := (g + t.chunk - t.origin) / t.chunk
def StageSt.blockAt (t : StageSt) (b : Nat) : Nat := b * t.chunk + t.origin - t.chunk

/-- Blocks a range touches, and ranges hold. -/
def StageSt.blocksOf (t : StageSt) (r : Nat × Nat) : Nat := if r.1 < r.2 then t.blockOf (r.2 - 1) + 1 - t.blockOf r.1 else 0
def StageSt.blocksIn (t : StageSt) (rs : Ranges) : Nat := rs.foldl (fun n r => n + t.blocksOf r) 0

/-- The first `n` blocks of ranges, and the rest. -/
def StageSt.takeBlocks (t : StageSt) : Nat → Ranges → Ranges × Ranges
  | _, [] => ([], [])
  | n, r :: rs =>
    let k := t.blocksOf r
    if n = 0 then ([], r :: rs)
    else if k ≤ n then
      let p := t.takeBlocks (n - k) rs
      (r :: p.1, p.2)
    else
      let cut := t.blockAt (t.blockOf r.1 + n)
      ([(r.1, cut)], (cut, r.2) :: rs)

/-- Two lists of ranges merged, rising. -/
def insertRange (r : Nat × Nat) : Ranges → Ranges
  | [] => [r]
  | x :: xs => if r.1 < x.1 then r :: x :: xs else x :: insertRange r xs
def mergeRanges (a b : Ranges) : Ranges := a.foldl (fun l r => insertRange r l) b

def StageSt.node (t : StageSt) (n : Nat) : Ranges := t.nodes.getD n []
def StageSt.setNode (t : StageSt) (n : Nat) (rs : Ranges) : StageSt := { t with nodes := t.nodes.put n rs }

/-- The stage's cores under a node. -/
def StageSt.coresAt (t : StageSt) (n : Nat) : Nat :=
  (t.cores.filter fun c => n == 0 || n == 1 + dieOf c || n == 5 + clusterOf c).length

/-- A node hands all it holds to its children with cores, in proportion to them, in contiguous parts cut at block
boundaries (R317). -/
def StageSt.handDown (t : StageSt) (n : Nat) (children : List Nat) : StageSt :=
  let kids := children.filter fun k => decide (0 < t.coresAt k)
  let rs := t.node n
  if rs.isEmpty || kids.isEmpty then t
  else
    let total := kids.foldl (fun s k => s + t.coresAt k) 0
    let blocks := t.blocksIn rs
    let step := fun (acc : StageSt × Ranges × Nat × Nat) (k : Nat) =>
      let cum := acc.2.2.1 + t.coresAt k
      let upTo := blocks * cum / total
      let p := t.takeBlocks (upTo - acc.2.2.2) acc.2.1
      (acc.1.setNode k (mergeRanges p.1 (acc.1.node k)), p.2, cum, upTo)
    (kids.foldl step (t.setNode n [], rs, 0, 0)).1

/-- The part of a block that was begun stays in a cluster whose moving core still runs it (R339). -/
def StageSt.kept (t : StageSt) (moving : Bool) (rs : Ranges) : Ranges × Ranges :=
  match rs with
  | r :: rest => if moving && r.1 != t.blockAt (t.blockOf r.1) && r.1 != t.rangeBegin then t.takeBlocks 1 (r :: rest) else ([], rs)
  | [] => ([], [])

/-- A node that holds blocks and no core returns them to its parent (R318). -/
def StageSt.returnUp (t : StageSt) (moving : Nat → Bool) : StageSt :=
  let t := (List.range 32).foldl (fun (t : StageSt) u =>
    if t.coresAt (5 + u) = 0 ∧ !(t.node (5 + u)).isEmpty then
      let p := t.kept (moving u) (t.node (5 + u))
      let d := 1 + u / 8
      (t.setNode (5 + u) p.1).setNode d (mergeRanges p.2 (t.node d))
    else t) t
  (List.range 4).foldl (fun (t : StageSt) d =>
    if t.coresAt (1 + d) = 0 ∧ !(t.node (1 + d)).isEmpty then
      (t.setNode (1 + d) []).setNode 0 (mergeRanges (t.node (1 + d)) (t.node 0))
    else t) t

/-- Blocks go up from nodes without a core and down to the clusters. -/
def StageSt.distribute (t : StageSt) (moving : Nat → Bool) : StageSt :=
  let t := (t.returnUp moving).handDown 0 [1, 2, 3, 4]
  (List.range 4).foldl (fun (t : StageSt) d => t.handDown (1 + d) ((List.range 8).map fun i => 5 + 8 * d + i)) t

/-- The node that holds the most blocks of a list, at least two, the lower number on a tie (R318). -/
def StageSt.richest (t : StageSt) (ns : List Nat) : Option Nat :=
  ns.foldl (fun (best : Option Nat) n =>
    let b := t.blocksIn (t.node n)
    if b < 2 then best
    else match best with
      | some m => if t.blocksIn (t.node m) < b then some n else best
      | none => some n) none

/-- An empty cluster node steals from a sibling: of its own die first, then of the other dies (R318). -/
def StageSt.steal (t : StageSt) (u : Nat) : StageSt :=
  if t.coresAt (5 + u) = 0 ∨ !(t.node (5 + u)).isEmpty then t
  else
    let all := (List.range 32).filter fun v => v != u
    let near := (all.filter fun v => v / 8 == u / 8).map (5 + ·)
    let far := (all.filter fun v => v / 8 != u / 8).map (5 + ·)
    match (t.richest near).or (t.richest far) with
    | none => t
    | some v =>
      let b := t.blocksIn (t.node v)
      let p := t.takeBlocks ((b + 1) / 2) (t.node v)
      (t.setNode v p.1).setNode (5 + u) p.2

/-- The least index of a cluster node, and the node without it. -/
def StageSt.takeIndex (t : StageSt) (u : Nat) : Option (Nat × StageSt) :=
  match t.node (5 + u) with
  | (lo, hi) :: rest => some (lo, t.setNode (5 + u) (if lo + 1 < hi then (lo + 1, hi) :: rest else rest))
  | [] => none

/-- Every index has been handed out (R319). -/
def StageSt.handedOut (t : StageSt) : Bool := t.nodes.all fun p => p.2.isEmpty

end Sys2Proof.Machine
end

