-- ==== Sys2Proof/Machine/Invoke.lean ====
section
/-! DEFINITION. The INVK group (R372, R376 to R392, R343): handles, invocations and tasks, cancellation, signals, and
PLNCH. -/

namespace Sys2Proof.Machine

-- Handles (R376, R377) ---------------------------------------------------------------------------------------------------

def handleHome (h : W64) : Nat := h.toNat / 2 ^ 54
def handleIndex (h : W64) : Nat := h.toNat / 2 ^ 30 % 2 ^ 24
def handleGen (h : W64) : Nat := h.toNat % 2 ^ 30

/-- The key of a handle's entry in `hrt`: its index on this device; an entry of another device stands above, for what
this device has been told of it (log 19). -/
def State.hkey (s : State) (h : W64) : Nat :=
  if handleHome h = s.devNum then handleIndex h else (handleHome h + 1) * 2 ^ 24 + handleIndex h

/-- One generation of an entry comes after another, as they are counted (R377). -/
def newerGen (old new : Nat) : Bool := decide (old ≠ new ∧ (new + 2 ^ 30 - old) % 2 ^ 30 < 2 ^ 29)

/-- The entry a handle of a context names, none where it is stale (R376). Nothing is known of another device's entry until it
tells of this generation: it is PENDING (log 19). -/
def State.hentry (s : State) (ctx : Nat) (h : W64) : Option HEntry :=
  let told := s.hrt.find? (s.hkey h)
  let named := told.filter fun e => decide (e.gen = handleGen h ∧ e.st ≠ .free ∧ e.owner = ctx)
  if handleIndex h = 0 ∨ 2 ^ 20 ≤ handleIndex h ∨ handleGen h = 0 then none
  else if handleHome h = s.devNum ∨ told.any (fun e => !(newerGen e.gen (handleGen h))) then named
  else some { st := .pending, owner := ctx, gen := handleGen h }

def State.putEntry (s : State) (h : W64) (e : HEntry) : State := { s with hrt := s.hrt.put (s.hkey h) e }

/-- A dropped entry that has settled, and to which no invocation waits, becomes FREE with the next generation (R377); of another
device's entry it is known that the handle names nothing any more. -/
def State.releaseEntry (s : State) (h : W64) (e : HEntry) : State :=
  let next := if handleHome h ≠ s.devNum then e.gen else if e.gen = 2 ^ 30 - 1 then 1 else e.gen + 1
  s.putEntry h (if e.dropped && (e.st == .resolved || e.st == .broken) && e.waiting.isEmpty then { gen := next } else e)

/-- The least FREE entry of this device's table (R376, R386). -/
def State.freeEntry (s : State) : Option Nat :=
  (List.range (s.hrt.length + 1)).findSome? fun k =>
    if k + 1 < 2 ^ 20 ∧ (s.hrt.getD (k + 1) {}).st = .free then some (k + 1) else none

/-- The handle of an entry of this device. -/
def State.handleOf (s : State) (idx gen : Nat) : W64 := BitVec.ofNat 64 (s.devNum * 2 ^ 54 + idx * 2 ^ 30 + gen)

-- Invocation records (R372) ----------------------------------------------------------------------------------------------

/-- A task record, with ARG0 and the handle it will settle (R372). -/
def TaskRec.ofBytes (bs : List Byte) (arg0 : W64) (handle : W64) : TaskRec :=
  let f := fieldAt bs
  { template := f 0 2, node := f 2 2, job := BitVec.ofNat 32 (f 4 4), inst := BitVec.ofNat 64 (f 8 8), arg0 := arg0, handle := handle }

/-- The handle of the task that the issuing agent runs. -/
def State.myTask (s : State) : Option W64 := (s.myCore.wgs.find? s.me.wg).bind fun g => g.task.map TaskRun.handle

/-- The home to which a message travels that is addressed to a handle (R378). -/
def MsgKind.home : MsgKind → Option Nat
  | .invoke _ i => some (handleHome i)
  | .drop h => some (handleHome h)
  | _ => none

/-- A message of an agent to a home device has not arrived there yet; what the agent sends there later arrives later (R378). -/
def State.inFlight (s : State) (c k home : Nat) : Bool :=
  s.msgs.any fun m => m.core == c && m.agent == k && m.kind.home == some home

/-- A message of the issuing agent leaves, under the number of an operation; `ev` is the event by which it goes on. -/
def State.sendMsg (s : State) (id : Nat) (k : MsgKind) (evs : List Instr) : State :=
  let m : Msg := { id := id, core := s.cur.core, agent := s.cur.agent, ctx := s.myCtx, kind := k, task := s.myTask }
  { s with msgs := s.msgs ++ [m], pending := s.pending ++ evs }

/-- The checks of an invocation record (R385), which the instruction reads: alignment, R rights, EMPTY lines, earlier copies of a
copy context, requests, and the memory side's refusal. -/
def State.recGate (s : State) (va : W64) : Except State Unit := do
  s.checkEa .r 32 [(0, va)]
  s.faultGate
  s.emptyGate 32 [(0, va)]
  s.copyOrderGate .r 32 [(0, va)]
  s.reqGate .r 32 [(0, va)]
  s.nakGate [(32, [(0, va)])]
  s.roomGate .xc

/-- What a spawn sends (R386). -/
inductive Spawn where
  | here
  | to (dev : Nat)
  | input (h : W64)
  deriving DecidableEq, Repr

/-- Spawn of R386, after its release at SYS: the pair is written at issue, and XC completes when the record is placed or
broken. The LOC of an RINVH's handle is its input handle's, once that is known (R379). -/
def State.spawn (s : State) (how : Spawn) (va : W64) (d : Reg) : State :=
  let c := s.cur.core
  let ctx := s.myCtx
  let bad := s.laneBad c .stream 1 va 32
  let s := if bad then s.metAt c va 32 else s
  let (s, v) := s.lane c .stream 1 32 { lane := 0, va := va, data := 0, data2 := 0 }
  let bs := leBytes v 32
  let job : BitVec 32 := BitVec.ofNat 32 (fieldAt bs 4 4)
  if !bad && (s.ctx ctx).cancel.contains job then (s.setPair d 0 1).advance
  else
    match s.freeEntry with
    | none => (s.setPair d 0 2).advance
    | some idx =>
      let e := s.hrt.getD idx {}
      let h := s.handleOf idx e.gen
      let sig : W64 := if bad then 0 else BitVec.ofNat 64 (fieldAt bs 24 8)
      let (loc, via) : Option Nat × Option Nat := match how with
        | .here => (some s.devNum, none)
        | .to dev => (some dev, none)
        | .input i => (none, some (handleHome i))
      let s := s.putEntry h { st := .pending, owner := ctx, gen := e.gen, loc := loc, via := via, sig := sig }
      let (id, s) := s.fresh
      let s := (s.count .xc id).setPair d h 0
      let arg0 : W64 := BitVec.ofNat 64 (fieldAt bs 16 8)
      let broken := fun (reason detail : BitVec 8) =>
        (s.due (.handleSettle h (.broken reason detail h))).due (.accessComplete c s.cur.agent .xc id)
      let s :=
        if bad then broken 1 7
        else match how with
          | .here => s.sendMsg id (.task (TaskRec.ofBytes bs arg0 h) s.devNum) [.taskEnqueue (.own id)]
          | .to dev =>
            if s.holdsCtx ctx dev then s.sendMsg id (.task (TaskRec.ofBytes bs arg0 h) dev) [.taskEnqueue (.own id)] else broken 3 0
          | .input i =>
            if s.holdsCtx ctx (handleHome i) then
              s.sendMsg id (.invoke { TaskRec.ofBytes bs 0 h with via := i } i) [.invocationArrive (.own id)]
            else broken 3 0
      s.advance

/-- The device RINV to ANY chooses (R387): the one of the context that reported the fewest queued tasks, the lowest
number among equals. -/
def State.anyDevice (s : State) (ctx : Nat) : Nat :=
  let devs := (s.podCtx.getD ctx []).foldl (fun l d => insertNat d l) [s.devNum]
  let len := fun (d : Nat) => if d = s.devNum then (s.ctx ctx).taskQ.length else (s.podQ.getD ctx []).getD d 0
  devs.foldl (fun b d => if len d < len b then d else b) (devs.headD s.devNum)

def execRinv (b a d : BitVec 7) (s : State) : Out :=
  finish do
    s.interlock [(a, 64), (b, 64)] [(d, 128)]
    need (isSz a && isSz b && evenScalar d) s.illegalOperand
    let t := (s.sval a).toNat
    need (decide (t < 1024 ∨ t = 1024)) s.illegalOperand
    s.recGate (s.sval b)
    let s := s.release s.cur.core 4
    .ok (s.spawn (.to (if t = 1024 then s.anyDevice s.myCtx else t)) (s.sval b) d)

def execRinvh (b a d : BitVec 7) (s : State) : Out :=
  finish do
    s.interlock [(a, 64), (b, 64)] [(d, 128)]
    need (isSz a && isSz b && evenScalar d) s.illegalOperand
    s.recGate (s.sval b)
    let s := s.release s.cur.core 4
    .ok (s.spawn (.input (s.sval a)) (s.sval b) d)

def execTspawn (a d : BitVec 7) (s : State) : Out :=
  finish do
    s.interlock [(a, 64)] [(d, 128)]
    need (isSz a && evenScalar d) s.illegalOperand
    s.recGate (s.sval a)
    let s := s.release s.cur.core 4
    .ok (s.spawn .here (s.sval a) d)

-- HRES, HDROP and RRET (R388, R389) ------------------------------------------------------------------------------------------

/-- What HRES writes for a handle that is not null and whose home can be reached (R388). -/
def hresPair : Option HEntry → W64 × W64
  | none => (0, 0)
  | some e =>
    match e.st with
    | .resolved => (e.addr, BitVec.ofNat 64 (2 + e.size * 2 ^ 16))
    | .broken => (e.cause, BitVec.ofNat 64 (3 + e.reason.toNat * 2 ^ 8 + e.detail.toNat * 2 ^ 16))
    | _ => (0, 1)

def execHres (a d : BitVec 7) (s : State) : Out :=
  finish do
    s.interlock [(a, 64)] [(d, 128)]
    need (isSz a && evenScalar d) s.illegalOperand
    let h := s.sval a
    if h = 0 then .ok (s.setPair d 0 4).advance
    else if !(s.holdsCtx s.myCtx (handleHome h)) then .ok (s.setPair d h (BitVec.ofNat 64 (3 + 3 * 2 ^ 8))).advance
    else
      -- it reaches the entry behind what the agent sent there before (R378)
      need (s.myPart.latch.isSome || !(s.inFlight s.cur.core s.cur.agent (handleHome h))) s
      let e := s.hentry s.myCtx h
      if (e.map HEntry.st) = some .pending ∧ !s.myPart.expired ∧ s.me.twh ≠ 0 then
        .ok ((s.park (.hres h)).due (.trywaitExpire s.cur.core s.cur.agent s.cur.part))
      else
        let s := if (e.map HEntry.st) = some .resolved then s.acquire s.cur.core 4 else s
        .ok (s.setPair d (hresPair e).1 (hresPair e).2).advance

/-- An HDROP reaches its handle's entry (R377, R389). -/
def State.dropHandle (s : State) (ctx : Nat) (h : W64) : State :=
  match s.hentry ctx h with
  | some e => s.releaseEntry h { e with dropped := true }
  | none => s

/-- HDROP (R389): it reaches the entry behind what the agent sent there before (R378). -/
def execHdrop (a : BitVec 7) (s : State) : Out :=
  finish do
    s.interlock [(a, 64)] []
    need (isSz a) s.illegalOperand
    let h := s.sval a
    if s.inFlight s.cur.core s.cur.agent (handleHome h) then
      let (id, s) := s.fresh
      .ok (s.sendMsg id (.drop h) [.invocationArrive (.own id)]).advance
    else .ok (s.dropHandle s.myCtx h).advance

/-- RRET (R389): parks until HANDLE_SETTLE has applied the resolution. -/
def execRret (b a : BitVec 7) (s : State) : Out :=
  finish do
    s.interlock [(a, 64), (b, 64)] []
    need (isSz a && isSz b) s.illegalOperand
    let n := (s.sval b).toNat
    match (s.myCore.wgs.find? s.me.wg).bind fun g => g.task.map fun t => (g, t) with
    | none => .error s.illegalOperand
    | some (g, t) =>
      need (decide (n < 2 ^ 48) && !t.returned) s.illegalOperand
      s.faultGate
      let s := s.release s.cur.core 4
      let s := s.modMyCore fun x => { x with wgs := x.wgs.put s.me.wg { g with task := some { t with returned := true } } }
      .ok ((s.park (.rret t.handle)).due (.handleSettle t.handle (.resolved (s.sval a) n s.devNum)))

-- JCAN (R392) --------------------------------------------------------------------------------------------------------------------

/-- The devices of the pod that hold a context. -/
def State.devicesOf (s : State) (ctx : Nat) : List Nat := (s.podCtx.getD ctx []).foldl (fun l d => insertNat d l) [s.devNum]

def execJcan (b a d : BitVec 7) (s : State) : Out :=
  finish do
    s.interlock [(a, 64)] [(d, 64)]
    need (isSz a && isSz d && decide (b.toNat < 2)) s.illegalOperand
    s.roomGate .xc
    let (id, s) := s.fresh
    let s := s.count .xc id
    let ctx := s.myCtx
    let job : BitVec 32 := (s.sval a).setWidth 32
    let devs := s.devicesOf ctx
    let k : MsgKind := .jcan job b.toNat d.toNat devs [] false
    let act : CancelAct := if b = 0 then .reserve else .clear
    .ok ((s.sendMsg id k (devs.map fun v => .cancelArrive v ctx job act)).waitReg d id).advance

-- Signals (R390, R391) ------------------------------------------------------------------------------------------------------------

/-- SIGDEC and SIGADD: releases at SYS that add to VALUE in one step with the status (R224, R391). -/
def State.signalOp (s : State) (b a : Reg) (add status : W64 → Nat) : Out :=
  finish do
    s.trapGate s.parkPoint [(a, 64), (b, 64)]
    need (isSz a && isSz b) s.illegalOperand
    s.memGate
    s.interlock [(a, 64), (b, 64)] []
    let va := s.sval a
    let es : List Ea := [(0, va)]
    s.checkEa .rw 16 es
    s.faultGate
    s.emptyGate 16 es
    s.copyOrderGate .rw 16 es
    s.roomGate .xc
    s.reqGate .rw 16 es
    let s := s.before s.cur.core 2 4
    let v := s.sval b
    .ok (s.issueAccess .xc .signal 16 2 4 none [{ lane := 0, va := va, data := add v, data2 := status v }]).advance

def execSigdec (b a : BitVec 7) (s : State) : Out := s.signalOp b a (fun _ => 2 ^ 64 - 1) fun v => v.toNat % 2 ^ 32
def execSigadd (b a : BitVec 7) (s : State) : Out := s.signalOp b a (fun v => v.toNat) fun _ => 0

/-- SIGWAIT (R391): a try-wait; true, it is an acquire at SYS. -/
def execSigwait (b a d : BitVec 7) (s : State) : Out :=
  finish do
    s.trapGate s.parkPoint [(a, 64), (b, 64)]
    need (isSz a && isSz b && isSz d) s.illegalOperand
    s.memGate
    s.interlock [(a, 64), (b, 64)] [(d, 64)]
    let va := s.sval a
    s.checkEa .rw 16 [(0, va)]
    s.copyOrderGate .r 16 [(0, va)]
    s.readGate [(16, [(0, va)])]
    let (id, s) ← s.partOp
    let (s, v) := s.lane s.cur.core .stream 4 16 { lane := 0, va := va, data := 0, data2 := 0 }
    let value : W64 := BitVec.ofNat 64 v
    let test := value.sle (s.sval b)
    if !test && !s.myPart.expired && s.me.twh != 0 then
      .ok ((s.park (.sig va (s.sval b))).due (.trywaitExpire s.cur.core s.cur.agent s.cur.part))
    else
      let s := if test then s.acquire s.cur.core 4 else s
      let r := (if test then 1 else 0) + (if v / 2 ^ 64 = 0 then 0 else 2)
      .ok ((s.setS d (BitVec.ofNat 64 r)).due (.accessComplete s.cur.core s.cur.agent .xc id)).advance

-- PLNCH (R343) -----------------------------------------------------------------------------------------------------------------------

/-- PLNCH: it is counted and issues; the launching device's controller reads and checks the record later, and D then receives its
answer, for which readers of D wait. -/
def execPlnch (b a d : BitVec 7) (s : State) : Out :=
  finish do
    s.interlock [(a, 64), (b, 64)] [(d, 64)]
    need (isSz a && isSz b && isSz d) s.illegalOperand
    let va := s.sval a
    let prio := (s.sval b).toNat
    need (decide (prio < 4)) s.illegalOperand
    need (decide (va.toNat % 64 = 0)) (s.alignTrap va)
    need (s.mapped s.myCtx .r va 64) (s.memFault va 0)
    s.roomGate .xc
    let (id, s) := s.fresh
    let ev : Instr := .accessComplete s.cur.core s.cur.agent .xc id
    .ok (((s.count .xc id).sendMsg id (.plan va prio) [ev]).waitReg d id).advance

/-- A plan message reaches the controller (R316, R343): it waits for the pager, and while 32 plans are resident; then the record
is read and checked, and the issuer is told. -/
def State.planArrive (s : State) (m : Msg) (a : W64) (prio : Nat) : State :=
  if s.planAwaits m.ctx a m.gone || decide (32 ≤ s.plans.length) then s.due (.accessComplete m.core m.agent .xc m.id)
  else
    let (r, s) := s.launchPlan m.ctx a prio
    (s.answerReg m.core m.agent m.id (BitVec.ofNat 64 r)).endMsg m

end Sys2Proof.Machine
end

