-- ==== Sys2Proof/Machine/Admit.lean ====
section
/-! DEFINITION. Loading a launch record (R20), and admission (R11, R16, R26, R161, R287 to R289, R317 to R324, R373). -/

namespace Sys2Proof.Machine

-- The load (R20) -----------------------------------------------------------------------------------------------------------

/-- An exchange store issued to the core has not landed (R20, step 1). -/
def State.xstTo (s : State) (c : Nat) : Bool := s.cores.any fun p => p.2.xsts.any fun o => o.peers.contains c

/-- A core loads a launch record of a context (R20): its L1 is written back and emptied, the boundaries are loaded, the
pool reads zero with every line FULL and the lower bank live, the Vat is invalid, the baton free, and no entry open. -/
def State.loadRecord (s : State) (c ctx : Nat) (lr : LaunchRec) (run : RunFor) : State :=
  let s := s.flushL1 c
  let s := if (s.core c).ctx = some ctx then s else s.unbind c
  s.modCore c fun (x : Core) =>
    { x with regTop := lr.regTop, scrTop := lr.scrTop, xchTop := lr.xchTop, pool := [], liveHigh := false, emptyLines := [],
             emptier := [], badPool := [], run := run, ctx := some ctx, lr := lr, nomActive := {}, nomShadow := {},
             active := {}, shadow := {}, swaps := 0, vatQ := [], drains := [], baton := none, batonQ := [], rdv := [],
             copies := [], l1 := [], moving := false, lastRun := run }

-- Room (R288, R324) --------------------------------------------------------------------------------------------------------

/-- Waves resident on a core. -/
def Core.waves (x : Core) : List Nat := x.agents.keys.filter fun k => decide (k < 128)

/-- The accumulator slots that operations in Vat order are still to act on (R160; log 61). -/
def Core.slotsInUse (x : Core) : List Nat := x.vatQ.flatMap fun o => o.slotsOf.map Prod.snd

/-- The least base of `n` free accumulator slots (R161). -/
def Core.slotRoom (x : Core) (n : Nat) : Option Nat :=
  if 16 < n then none
  else (List.range (17 - n)).find? fun b =>
    (x.wgs.all fun g => decide (b + n ≤ g.2.slotBase ∨ g.2.slotBase + n ≤ b)) &&
      x.slotsInUse.all fun k => decide (k < b ∨ b + n ≤ k)

/-- The least free residency slot (R10). -/
def Core.wgRoom (x : Core) : Option Nat := (List.range 8).find? fun w => (x.wgs.find? w).isNone

/-- The core has the resources of a workgroup of its launch record (R16, R288). -/
def Core.hasRoom (x : Core) : Bool :=
  let lr := x.lr
  let most := if lr.wgmax = 0 then 8 else min 8 lr.wgmax
  decide (x.wgs.length < most ∧ x.waves.length + lr.nwaves ≤ 128 ∧
    (x.waves.length + lr.nwaves) * lr.vregs * 256 ≤ x.regTop * 65536) && (x.slotRoom lr.slotTotal).isSome

/-- The budgets of a context have room for a projection (R324). -/
def State.budgetRoom (s : State) (ctx p : Nat) : Bool :=
  let x := s.ctx ctx
  (x.cbEnergy == 0 || decide (x.winEnergy + p ≤ x.cbEnergy * 1000000)) && decide (s.winEnergy + p ≤ s.powerLimit * 1000000) &&
    (List.range 4).all fun k => x.cbBw.getD k 0 == 0 || Config.bwUnder s.tick (4 * ctx + k)

-- Admission (R287 to R289) -------------------------------------------------------------------------------------------------

/-- Indices at the levels of a wave (R287, R488): LANE levels read 0, WAVE levels decompose the wave's number, CORE to
DEVICE levels the workgroup's index, and POD is the rank. -/
def LaunchRec.indices (lr : LaunchRec) (wave g rank : Nat) : List (BitVec 32) :=
  (lr.levels.foldl (fun (acc : Nat × Nat × List (BitVec 32)) l =>
    let (w, h, out) := acc
    match l.domain with
    | 0 => (w, h, out ++ [0])
    | 1 => (w / l.extent, h, out ++ [BitVec.ofNat 32 (w % l.extent)])
    | 6 => (w, h, out ++ [BitVec.ofNat 32 rank])
    | _ => (w, h / l.extent, out ++ [BitVec.ofNat 32 (h % l.extent)])) (wave, g, [])).2.2

/-- Where the next wave goes (R11): the least free slot of the quarter with the fewest waves, the lower quarter on a
tie. -/
def placeWave (used : List Nat) : Nat :=
  let count := fun (q : Nat) => (used.filter fun k => k % 4 == q).length
  let q := [1, 2, 3].foldl (fun b q => if count q < count b then q else b) 0
  (((List.range 32).map fun i => q + 4 * i).find? fun k => !(used.contains k)).getD 0

/-- Scalars s0 to s23 from the values of s0 on; the rest read zero (R26). -/
def scalarsOf (vs : List W64) : SMap 64 :=
  ((List.range vs.length).zip vs).foldl (fun (m : SMap 64) p => m.set p.1 p.2) []

/-- The least place in the register region for one more wave of `size` bytes, beside those taken (R16; log 64). -/
def regPlace (taken : List Nat) (size : Nat) : Nat :=
  (((List.range (taken.length + 1)).map fun i => i * size).find? fun b => !(taken.contains b)).getD 0

/-- A wave at its start (R26, R32, R289). -/
def LaunchRec.wave (lr : LaunchRec) (w i age : Nat) (vs : List W64) (lvl : List (BitVec 32)) : Agent :=
  let (x, j) := (lr.sectionOf i).getD ({ entry := 0, count := 0, role := 1, slots := 0, first := 0 }, 0)
  { role := if x.role = 0 then .matrix else .vector, index := i, wg := w, age := age, vregs := lr.vregs, slots := x.slots,
    lvl := lvl, s := scalarsOf vs, slot := x.first + j * x.slots,
    parts := [(0, { lanes := BitVec.allOnes 64, em := BitVec.allOnes 64, pc := lr.code + BitVec.ofNat 64 x.entry })] }

/-- A copy context at its start (R31, R34, R289). -/
def LaunchRec.context (lr : LaunchRec) (w age : Nat) (vs : List W64) (lvl : List (BitVec 32)) : Agent :=
  { role := .copy, index := 32, wg := w, age := age, vregs := 0, slots := 0, lvl := lvl, s := scalarsOf vs, slot := 0,
    parts := [(0, { pc := lr.code + BitVec.ofNat 64 lr.copyOff })] }

/-- Admits a workgroup to a core that has room for it. -/
def State.admitWg (s : State) (c g rank : Nat) (vs : List W64) (task : Option TaskRun) : State :=
  let x := s.core c
  let lr := x.lr
  match x.wgRoom, x.slotRoom lr.slotTotal with
  | some w, some base =>
    let age := s.nextId + 1
    let placed := (List.range lr.nwaves).foldl (fun (acc : AList Agent × List Nat) i =>
      let k := placeWave acc.2
      let taken := (acc.1.filter fun p => decide (p.1 < 128)).map fun p => p.2.regBase
      let wave := { lr.wave w i (age + i) vs (lr.indices i g rank) with regBase := regPlace taken (lr.vregs * 256) }
      (acc.1.put k wave, k :: acc.2)) (x.agents, x.waves)
    let copies := lr.copyOff != 0xFFFFFFFF
    let agents := if copies then placed.1.put (128 + w) (lr.context w (age + lr.nwaves) vs (lr.indices 0 g rank)) else placed.1
    let y : Core := { x with agents := agents, acc := x.acc.clear (base * 8192) (lr.slotTotal * 8192),
                             wgs := x.wgs.put w { uid := s.nextId, g := g, slotBase := base, copyEnded := !copies, task := task } }
    { s.setCore c y with nextId := s.nextId + lr.nwaves + 2 }
  | _, _ => s

/-- What s0 to s9 hold in a workgroup of a plan (R26). -/
def LaunchRec.argsOf (lr : LaunchRec) (g : Nat) : List W64 := lr.args ++ [BitVec.ofNat 64 g, 0]

/-- Rank of this device among those of a stage's launch record (R488). -/
def PlanSt.rankOf (p : PlanSt) (t : StageSt) (dev : Nat) : Nat :=
  (((p.stages.filter fun u => u.lrAddr == t.lrAddr).map StageSt.device).eraseDups.filter fun d => decide (d < dev)).length

/-- The input pipes of a stage are all closed (R320). -/
def PlanSt.inputsClosed (p : PlanSt) (st : Nat) : Bool :=
  (p.pipes.filter fun q => q.consumer == st).all PipeSt.closed
def PlanSt.hasInput (p : PlanSt) (st : Nat) : Bool := p.pipes.any fun q => q.consumer == st

/-- Workgroups of a core that run a stage, the saved ones of a pre-empted core among them. -/
def Core.wgCount (x : Core) : Nat := x.wgs.length + x.image.elim 0 fun y => y.wgs.length

/-- What a stage offers a core next (R317, R320, R339): the workgroup index, the plan as it stands after, or nothing. -/
inductive Offer where
  | nothing
  | other (core : Nat)
  | take (g : Nat) (p : PlanSt)
  deriving DecidableEq, Repr

/-- The next workgroup of a FED stage may run on a core: a placement block that was begun goes on in the cluster, or on the die,
where its last workgroup was admitted (R287; log 63). -/
def StageSt.blockRoom (t : StageSt) (c : Nat) : Bool :=
  t.lr.blocks.all fun g => t.nextG % max 1 g.2 == 0 || match t.admittedOn.getLast? with
    | some k => if g.1 = 3 then clusterOf k == clusterOf c else dieOf k == dieOf c
    | none => true

def State.offerTo (s : State) (c pl st : Nat) (p : PlanSt) (t : StageSt) : Offer :=
  let x := s.core c
  let u := clusterOf c
  let put := fun (t : StageSt) => p.modStage st fun _ => { t with started := t.started + 1 }
  if t.kind = 0 then
    let t := t.steal u
    let mine := x.moving && decide (t.coresAt (5 + u) = 0)
    if !(t.cores.contains c) && !mine then .nothing
    else
      match t.takeIndex u with
      | none => .nothing
      | some (g, t) =>
        let first := if mine then some c
          else (t.cores.filter fun k => clusterOf k == u).find? fun k =>
            (s.core k).run == .stage pl st && (s.core k).pre == .none && (s.core k).hasRoom
        match first with
        | some k => if k = c then .take g (put t) else .other k
        | none => .take g (put t)
  else if x.moving || !(t.cores.contains c) then .nothing
  else
    let wants := if p.hasInput st then !(p.inputsClosed st) && decide (x.wgCount < t.npersist)
      else decide ((t.admittedOn.filter fun k => k == c).length < t.npersist)
    if wants && t.blockRoom c then .take t.nextG (put { t with nextG := t.nextG + 1, admittedOn := t.admittedOn ++ [c] }) else .nothing

/-- WG_ADMIT (R288, R394): the head workgroup is admitted once resources and budgets allow. A head that a budget refuses is
tested again at the next window and at each workgroup end (R324). -/
def execWgAdmit (core : Nat) (s : State) : Out :=
  let x := s.core core
  match x.run with
  | .stage pl st =>
    match (s.plans.find? pl).bind fun p => (p.stages[st]?).map fun t => (p, t) with
    | none => .next s
    | some (p, t) =>
      if !p.running || p.ending.isSome || x.pre != .none || (s.ctx p.ctx).st != .active then .next s
      else
        match s.offerTo core pl st p t with
        | .nothing => .next s
        | .other c => .next (s.due (.wgAdmit c))
        | .take g q =>
          if !(s.budgetRoom p.ctx t.proj) then .next s
          else if !x.hasRoom then .next (s.due (.wgAdmit core))
          else
            let q : PlanSt := { q with move := if (q.move.map Move.core) = some core ∧ !x.moving then none else q.move }
            let s := { s with plans := s.plans.put pl q }
            -- the other cores of a FED stage may have waited for a placement block to end (R287)
            let others := if t.kind = 1 ∧ !t.lr.blocks.isEmpty then t.cores.filter fun k => k != core else []
            .next ((others ++ [core]).foldl (fun (s : State) k => s.due (.wgAdmit k)) (s.admitWg core g (p.rankOf t s.devNum) (x.lr.argsOf g) none))
  | _ => .next s

/-- LAUNCH_LOAD (R20): for a stage the plan has given the core, or for tasks on a core that nothing else holds. -/
def execLaunchLoad (core ctx : Nat) (lr : BitVec 64) (why : LoadFor) (s : State) : Out :=
  let x := s.core core
  if !x.wgs.isEmpty || !(x.pre == .none) then .next s
  else
    match why with
    | .stage pl st =>
      match (s.plans.find? pl).bind fun p => (p.stages[st]?).map fun t => (p, t) with
      | none => .next s
      | some (p, t) =>
        if !p.running || p.ctx != ctx || t.lrAddr != lr || !(t.cores.contains core) ||
            (x.run == .stage pl st && !x.moving) then .next s
        else if s.xstTo core then .next (s.due (.launchLoad core ctx lr why))
        else
          let s := s.loadRecord core ctx t.lr (.stage pl st)
          let loaded := fun (m : Move) => if m.core = core then { m with loaded := true } else m
          .next ((s.modPlan pl fun p => { p with move := p.move.map loaded }).due (.wgAdmit core))
    | .tasks =>
      match x.run, s.launchRec ctx lr with
      | .stage _ _, _ => .next s
      | _, none => .next s
      | _, some r =>
        if (s.ctx ctx).st != .active || s.checkRec ctx r 1 != 0 || x.noNew then .next s
        else if s.xstTo core then .next (s.due (.launchLoad core ctx lr why))
        else .next (s.loadRecord core ctx r .tasks)

end Sys2Proof.Machine
end

