-- ==== Sys2Proof/Machine/CacheOps.lean ====
section
/-! DEFINITION. The CACHE group (R239 to R241) and XFER (R246, R247). -/

namespace Sys2Proof.Machine

/-- PREF (R240): a line asked for in L1; it never traps, and is ignored where it could not be read. -/
def execPref (a : BitVec 7) (s : State) : Out :=
  finish do
    s.trapGate s.parkPoint [(a, 64)]
    need (isSz a) s.illegalOperand
    s.memGate
    s.interlock [(a, 64)] []
    let c := s.cur.core
    match s.place c .r (s.sval a) 1 with
    | some (.mem ia) =>
      let ctx := s.myCtx
      .ok (if s.hit c ctx (ia / 128) || (s.nak ctx ia false).isSome then s else s.fillL1 c ctx (ia / 128) true).advance
    | _ => .ok s.advance

/-- Drops a line everywhere INVL reaches: L1, the cluster buffer, the replica on the die (R240). -/
def State.invalidate (s : State) (c line : Nat) : State :=
  (((s.flushLine c line).dropL1Line c line).dropBufLine (clusterOf c) line).dropReplica (dieOf c) line

/-- WBK and INVL (R240): nothing for own-pool addresses, MEMORY_FAULT without any right and at a fixed-window address that
is not of the own pool (R38). -/
def State.writeBackOp (s : State) (a : Reg) (f : State → Nat → State) : Out :=
  finish do
    s.trapGate s.parkPoint [(a, 64)]
    need (isSz a) s.illegalOperand
    s.memGate
    s.interlock [(a, 64)] []
    let va := s.sval a
    let c := s.cur.core
    if va.toNat / 2 ^ 23 = 0xFE * 2 ^ 33 then .ok s.advance
    else
      let ia := match s.place c .r va 1 with
        | some p => some p
        | none => s.place c .w va 1
      match ia with
      | some (.mem x) =>
        s.roomGate .st
        s.requestGate 1
        let (id, s) := s.fresh
        let s := ((f s (x / 128)).count .st id).modOp c s.cur.agent .st id fun o => { o with reqs := 1 }
        .ok (s.due (.accessComplete c s.cur.agent .st id)).advance
      | _ => .error (s.memFault va 1)

def execWbk (a : BitVec 7) (s : State) : Out := s.writeBackOp a fun s l => s.flushLine s.cur.core l
def execInvl (a : BitVec 7) (s : State) : Out := s.writeBackOp a fun s l => s.invalidate s.cur.core l

/-- The address and the extent of a full/empty operation (R241): `n` lines that must lie in the scratchpad. With no line the
address is still judged (logs 29, 59). -/
def State.lineGate (s : State) (a : W64) (n : Nat) : Except State Nat := do
  let off := a.toNat % 2 ^ 23
  need (decide (off % 128 = 0)) (s.alignTrap (ownPool off))
  need (decide (a.toNat < 2 ^ 23) && (decide (n = 0) || s.myCore.inScratch off (128 * n))) (s.memFault (ownPool off) 0)
  .ok off

/-- SPEMPTY and SPFULL (R241): no barrier count changes, and SPEMPTY leaves a line's emptier. -/
def State.setLines (s : State) (b a : Reg) (f : Core → List Nat → Core) : Out :=
  finish do
    s.trapGate s.parkPoint [(a, 64), (b, 64)]
    need (isSz a && isSz b) s.illegalOperand
    s.memGate
    s.interlock [(a, 64), (b, 64)] []
    let n := (s.sval b).toNat
    let off ← s.lineGate (s.sval a) n
    .ok (s.modMyCore fun x => f x ((List.range n).map fun i => off / 128 + i)).advance

def execSpempty (b a : BitVec 7) (s : State) : Out := s.setLines b a Core.setEmpty
def execSpfull (b a : BitVec 7) (s : State) : Out := s.setLines b a Core.setFull

/-- SPQRY (R241): positions at or above the scratchpad's top read 1. -/
def execSpqry (a d : BitVec 7) (s : State) : Out :=
  finish do
    s.trapGate s.parkPoint [(a, 64)]
    need (isSz a && isSz d) s.illegalOperand
    s.memGate
    s.interlock [(a, 64)] [(d, 64)]
    let off ← s.lineGate (s.sval a) 1
    let x := s.myCore
    let full := fun (i : Nat) => decide (x.scrB ≤ off + 128 * i) || !(x.emptyLines.contains (off / 128 + i))
    .ok (s.setS d (maskOf ((List.range 64).filter full))).advance

-- XFER (R37, R246) ----------------------------------------------------------------------------------------------------

/-- The peer and the offset in its shadow bank of a peer-window address; none takes MEMORY_FAULT (R37). A core runs its stage
until it loads another launch record (R183). -/
def State.peer (s : State) (va : W64) (size : Nat) : Option (Nat × Nat) :=
  let v := va.toNat
  let p := v / 2 ^ 40 % 128
  let off := v % 2 ^ 23
  let c := s.cur.core
  let runs := if (s.core p).run = .idle then (s.core p).lastRun else (s.core p).run
  let same : Bool := match runs, s.myCore.run with
    | .stage a b, .stage x y => decide (a = x ∧ b = y)
    | _, _ => decide (p = c)
  if v / 2 ^ 56 = 0xFD ∧ v / 2 ^ 47 % 512 = 0 ∧ v / 2 ^ 23 % 2 ^ 17 = 0 ∧ clusterOf p = clusterOf c ∧ same ∧
      off + size ≤ (s.core p).bankB then some (p, off)
  else none

/-- XST (R246): counted on XC until it lands in the peers' shadow banks. -/
def State.xst (s : State) (size : Nat) (a d : Reg) : Out :=
  finish do
    s.trapGate s.parkPoint [(a, 64), (d, 8 * size)]
    s.notCopy
    s.legal (storeOk d (8 * size) a && s.streamsOk [(d, 8 * size)]) [d, a]
    s.memGate
    s.interlock [(a, 64), (d, 8 * size)] []
    let per := storePerLane d a
    let es := s.eas per a 0 size
    match es.find? fun e => e.2.toNat % size != 0 with
    | some e => .error (s.alignTrap e.2)
    | none =>
      match es.filter fun e => (s.peer e.2 size).isNone with
      | e :: rest => .error (s.memFault e.2 (eaMask (e :: rest)))
      | [] =>
        if !es.isEmpty then s.roomGate .xc
        let (s, got) ← s.pullAll per [(d, 8 * size)]
        let prs := es.filterMap fun e => (s.peer e.2 size).map fun p => (p, s.val got e.1 (d, 8 * size))
        if es.isEmpty then .ok s.advance
        else
          let (id, s) := s.fresh
          let c := s.cur.core
          let op : XstOp := { id := id, from_ := c, agent := s.cur.agent,
                              writes := prs.map fun p => (p.1.2, size, p.2), peers := prs.map fun p => p.1.1 }
          .ok (((s.modMyCore fun x => { x with xsts := x.xsts ++ [op] }).count .xc id).due (.xstLand c id)).advance

def execXstW (a d : BitVec 7) (s : State) : Out := s.xst 4 a d
def execXstD (a d : BitVec 7) (s : State) : Out := s.xst 8 a d

end Sys2Proof.Machine
end

