-- ==== Sys2Proof/Machine/Control.lean ====
section
/-! DEFINITION. Control flow: branches, divergent branches and their splits, calls and jumps (R293, R298, R299). -/

namespace Sys2Proof.Machine

/-- The target of a branch: the instruction's address plus 4 × offset (R47). -/
def State.target {n : Nat} (s : State) (o : BitVec n) : W64 := s.pc + o.signExtend 64 * 4

/-- Continues at the target where the condition holds, else after the branch. -/
def State.branch {n : Nat} (s : State) (taken : Bool) (o : BitVec n) : State :=
  if taken then s.jump (s.target o) else s.advance

/-- s23, written lk, receives the address after the call (R298, R299). -/
def State.setLink (s : State) : State := s.modMe fun a => a.sset 23 (s.pc + 4)

def execBra (o : BitVec 26) (s : State) : Out := .next (s.jump (s.target o))

def execCall (o : BitVec 26) (s : State) : Out :=
  finish do
    s.interlock [] [(119, 64)]
    .ok (s.setLink.jump (s.target o))

/-- BRC: a signed 64-bit test of a scalar register or zero (R68, R298). -/
def execBrc (c : BitVec 3) (r : BitVec 7) (o : BitVec 16) (s : State) : Out :=
  finish do
    s.interlock [(r, 64)] []
    need (isSz r) s.illegalOperand
    .ok (s.branch (brcCond c (s.sval r)) o)

/-- Slots of the wave that hold a split (R292). -/
def Agent.usedSlots (a : Agent) : List Nat := a.parts.filterMap fun p => p.2.slot

/-- The lowest free split slot (R292). -/
def Agent.freeSlot (a : Agent) : Option Nat := (List.range 4).find? fun k => !(a.usedSlots.contains k)

/-- Entries of the deferred list (R292). -/
def Agent.listed (a : Agent) : Nat := (a.parts.filter fun p => p.2.slot.isNone).length

/-- A divergent branch of the lanes `t` (R293): all fall through, all branch, or `t` leaves the split and becomes a new
split in the lowest free slot, or a runnable entry at the tail of the deferred list. -/
def State.diverge (s : State) (t : BitVec 64) (target : W64) : State :=
  let n := s.em &&& ~~~t
  if t = 0 then s.advance
  else if n = 0 then s.jump target
  else
    let a := s.me
    let slot := a.freeSlot
    if slot.isNone && decide (16 ≤ a.listed) then s.trap 0x0C s.wordInfo
    else
      let (stamp, s) := s.fresh
      let s := (s.modPart fun p => { p with lanes := p.lanes &&& ~~~t, em := n }).advance
      let p : Part := { slot := slot, lanes := t, em := t, pc := target, wait := none, expired := false, stamp := stamp }
      s.modMe fun a => { a with parts := a.parts.put (a.parts.free 0 64) p }

def State.brd (s : State) (r : Reg) (o : BitVec 16) (sense : Bool) : Out :=
  finish do
    s.notCopy
    need (maskOk r) s.illegalOperand
    let m := s.me.mget r.toNat
    .ok (s.diverge (s.em &&& (if sense then m else ~~~m)) (s.target o))

def execBrdT (r : BitVec 7) (o : BitVec 16) (s : State) : Out := s.brd r o true
def execBrdF (r : BitVec 7) (o : BitVec 16) (s : State) : Out := s.brd r o false

/-- A uniform branch on a mask under em (R298). -/
def State.uniform (s : State) (r : Reg) (o : BitVec 16) (f : BitVec 64 → BitVec 64 → Bool) : Out :=
  finish do
    s.notCopy
    need (maskOk r) s.illegalOperand
    .ok (s.branch (f (s.me.mget r.toNat &&& s.em) s.em) o)

def execBany (r : BitVec 7) (o : BitVec 16) (s : State) : Out := s.uniform r o fun x _ => x != 0
def execBall (r : BitVec 7) (o : BitVec 16) (s : State) : Out := s.uniform r o fun x em => x == em
def execBnone (r : BitVec 7) (o : BitVec 16) (s : State) : Out := s.uniform r o fun x _ => x == 0

/-- A branch on an end-of-dimension flag (R298): an unbound stream takes ILLEGAL_OPERAND. -/
def State.beod (s : State) (d q : BitVec 2) (o : BitVec 16) (sense : Bool) : Out :=
  finish do
    s.notCopy
    match s.me.q.find? q.toNat with
    | none => .error s.illegalOperand
    | some st => .ok (s.branch (st.eod.getLsbD d.toNat == sense) o)

def execBeodSet (d q : BitVec 2) (o : BitVec 16) (s : State) : Out := s.beod d q o true
def execBeodClr (d q : BitVec 2) (o : BitVec 16) (s : State) : Out := s.beod d q o false

/-- A transfer to a register-held address: ALIGNMENT when its low bits are not zero (R47). -/
def State.transfer (s : State) (t : W64) (k : State → State) : Except State State :=
  if t.toNat % 4 ≠ 0 then .error (s.alignTrap t) else .ok ((k s).jump t)

def execJmp (a : BitVec 7) (s : State) : Out :=
  finish do
    s.interlock [(a, 64)] []
    need (isScalar a) s.illegalOperand
    s.transfer (s.sval a) id

/-- CALLR reads its target before it writes s23 (R299). -/
def execCallr (a : BitVec 7) (s : State) : Out :=
  finish do
    s.interlock [(a, 64)] [(119, 64)]
    need (isScalar a) s.illegalOperand
    s.transfer (s.sval a) State.setLink

def execRet (s : State) : Out :=
  finish do
    s.interlock [(119, 64)] []
    s.transfer (s.sreg 23) id

end Sys2Proof.Machine
end

