-- ==== Sys2Proof/Machine/Convert.lean ====
section
/-! DEFINITION. Conversions (R133 to R136), with stochastic rounding keyed by sr.ckey and the position (R94, R97). -/

namespace Sys2Proof.Machine

/-- The draw of a stochastic conversion in a lane for element `h` of a packed pair (R97). -/
def State.draw (s : State) (lane h : Nat) : W32 :=
  let a := s.me
  ckg a.ckey (BitVec.ofNat 32 (s.cur.core * 512 + a.wg * 64 + a.index)) (BitVec.ofNat 32 (lane * 2 + h))

/-- The mode of a conversion (R134): RM, or stochastic rounding. -/
def State.cvtMode (s : State) (sr : BitVec 1) (rm : BitVec 2) (lane h : Nat) : RMode :=
  if sr = 0#1 then RMode.ofBits rm else .sr (s.draw lane h)

/-- FP32 to a narrow code, or to E8M0 (R133, R134). -/
def State.cvtNarrow (s : State) (f : Fmt) (sr sat : BitVec 1) (rm : BitVec 2) (a d : Reg) : Out :=
  s.alu (cvtOk sr rm) d 32 [(a, 32)] fun l vs =>
    f.round (s.cvtMode sr rm l 0) (sat == 1#1) (Fmt.f32.decode (vs.getD 0 0))

/-- A pair of FP32 to a packed pair (R133, R134). -/
def State.cvtPack (s : State) (f : Fmt) (sr sat : BitVec 1) (rm : BitVec 2) (a d : Reg) : Out :=
  s.alu (cvtOk sr rm) d 32 [(a, 64)] fun l vs =>
    let r := fun h => f.round (s.cvtMode sr rm l h) (sat == 1#1) (Fmt.f32.decode (vs.getD 0 0 / 2 ^ (32 * h) % 2 ^ 32))
    ((r 0).1 + (r 1).1 * 65536, (r 0).2 ||| (r 1).2)

/-- A packed pair to a pair of FP32, exactly (R95, R133). -/
def State.cvtUnpack (s : State) (f : Fmt) (a d : Reg) : Out :=
  s.alu true d 64 [(a, 32)] fun _ vs =>
    let w := fun h => f.widen .f32 (vs.getD 0 0 / 65536 ^ h % 65536)
    (w 0 + w 1 * 2 ^ 32, 0)

/-- A narrow code to FP32, exactly (R95, R133). -/
def State.cvtWiden (s : State) (f : Fmt) (a d : Reg) : Out :=
  s.alu true d 32 [(a, 32)] fun _ vs => (f.widen .f32 (vs.getD 0 0 % 2 ^ f.width), 0)

/-- A floating-point value to an integer of `dw` bits (R135). -/
def State.cvtToInt (s : State) (f : Fmt) (sw : Nat) (signed : Bool) (dw : Nat) (rm : BitVec 2) (a d : Reg) : Out :=
  s.alu true d dw [(a, sw)] fun _ vs => toInteger signed dw (RMode.ofBits rm) (f.decode (vs.getD 0 0))

/-- An integer to floating point (R134). -/
def State.cvtFromInt (s : State) (f : Fmt) (w : Nat) (signed : Bool) (rm : BitVec 2) (a d : Reg) : Out :=
  s.alu true d w [(a, w)] fun _ vs => f.round (RMode.ofBits rm) false (intVal signed w (vs.getD 0 0))

def execCvtF32S32 (rm : BitVec 2) (a d : Reg) (s : State) : Out := s.cvtToInt .f32 32 true 32 rm a d
def execCvtF32N32 (rm : BitVec 2) (a d : Reg) (s : State) : Out := s.cvtToInt .f32 32 false 32 rm a d
def execCvtS32F32 (rm : BitVec 2) (a d : Reg) (s : State) : Out := s.cvtFromInt .f32 32 true rm a d
def execCvtN32F32 (rm : BitVec 2) (a d : Reg) (s : State) : Out := s.cvtFromInt .f32 32 false rm a d
def execCvtF32F16 (sr sat : BitVec 1) (rm : BitVec 2) (a d : Reg) (s : State) : Out := s.cvtPack .f16 sr sat rm a d
def execCvtF16F32 (a d : Reg) (s : State) : Out := s.cvtUnpack .f16 a d
def execCvtF32Bf16 (sr sat : BitVec 1) (rm : BitVec 2) (a d : Reg) (s : State) : Out := s.cvtPack .bf16 sr sat rm a d
def execCvtBf16F32 (a d : Reg) (s : State) : Out := s.cvtUnpack .bf16 a d
def execCvtF32E4m3 (sr sat : BitVec 1) (rm : BitVec 2) (a d : Reg) (s : State) : Out := s.cvtNarrow .e4m3 sr sat rm a d
def execCvtF32E5m2 (sr sat : BitVec 1) (rm : BitVec 2) (a d : Reg) (s : State) : Out := s.cvtNarrow .e5m2 sr sat rm a d
def execCvtE4m3F32 (a d : Reg) (s : State) : Out := s.cvtWiden .e4m3 a d
def execCvtE5m2F32 (a d : Reg) (s : State) : Out := s.cvtWiden .e5m2 a d
def execCvtF32E2m3 (sr sat : BitVec 1) (rm : BitVec 2) (a d : Reg) (s : State) : Out := s.cvtNarrow .e2m3 sr sat rm a d
def execCvtF32E3m2 (sr sat : BitVec 1) (rm : BitVec 2) (a d : Reg) (s : State) : Out := s.cvtNarrow .e3m2 sr sat rm a d
def execCvtE2m3F32 (a d : Reg) (s : State) : Out := s.cvtWiden .e2m3 a d
def execCvtE3m2F32 (a d : Reg) (s : State) : Out := s.cvtWiden .e3m2 a d
def execCvtF32E2m1 (sr sat : BitVec 1) (rm : BitVec 2) (a d : Reg) (s : State) : Out := s.cvtNarrow .e2m1 sr sat rm a d
def execCvtE2m1F32 (a d : Reg) (s : State) : Out := s.cvtWiden .e2m1 a d
def execCvtE8m0F32 (a d : Reg) (s : State) : Out := s.cvtWiden .e8m0 a d
def execCvtF32E8m0 (sr sat : BitVec 1) (rm : BitVec 2) (a d : Reg) (s : State) : Out := s.cvtNarrow .e8m0 sr sat rm a d

/-- FP32 to an FP64 pair, exactly (R95). -/
def execCvtF32F64 (a d : Reg) (s : State) : Out :=
  s.alu true d 64 [(a, 32)] fun _ vs => (Fmt.f32.widen .f64 (vs.getD 0 0), 0)

/-- FP64 to FP32 (R134). -/
def execCvtF64F32 (sat : BitVec 1) (rm : BitVec 2) (a d : Reg) (s : State) : Out :=
  s.alu true d 32 [(a, 64)] fun _ vs => Fmt.f32.round (RMode.ofBits rm) (sat == 1#1) (Fmt.f64.decode (vs.getD 0 0))

def execCvtF64S64 (rm : BitVec 2) (a d : Reg) (s : State) : Out := s.cvtToInt .f64 64 true 64 rm a d
def execCvtS64F64 (rm : BitVec 2) (a d : Reg) (s : State) : Out := s.cvtFromInt .f64 64 true rm a d
def execCvtF32S64 (rm : BitVec 2) (a d : Reg) (s : State) : Out := s.cvtToInt .f32 32 true 64 rm a d

/-- Clamps a signed 32-bit value to 8 bits, sign-extended to 32 (R135). -/
def execCvtS32S8 (a d : Reg) (s : State) : Out :=
  s.alu true d 32 [(a, 32)] fun _ vs =>
    (((max (-128) (min (sInt 32 (vs.getD 0 0)) 127)) % (2 ^ 32 : Int)).toNat, 0)

end Sys2Proof.Machine
end

