-- ==== Sys2Proof/Machine/EvAttn.lean ====
section
/-! DEFINITION. The events of page-major attention: a pass begins (R349, R350), a batch is assigned (R351 to R356), a
partial reaches the Hoop (R359), and its wait for a buffer ends (R359, R366). -/

namespace Sys2Proof.Machine

/-- PASS_BEGIN (R349, R350, R353): a pass offered again is fetched once more; else the next page of the die's main walk, or
else of its catch-up passes, is fetched with the rows of its subscribers. A Ladle with 8 undelivered pages begins none until it
has delivered one. -/
def execPassBegin (ctx : Nat) (sweep : W64) (die : Nat) (s : State) : Out :=
  match s.sweep? ctx sweep with
  | none => .next s
  | some v =>
    if !(v.st == .running || v.st == .sealed) || decide (8 ≤ s.ladleLoad die) then .next (s.settleSweep ctx sweep)
    else
      let begun := fun (w : Sweep) => .next (((s.putSweep w).offer w).due (.passBegin ctx sweep die))
      match v.passes.findIdx? fun p => p.die == die && !p.fetched, s.nextMain v die, s.nextCatchup v die with
      | some i, _, _ =>
        begun { v with secondFetch := v.secondFetch + 1, passes := v.passes.modify i fun p => { p with fetched := true } }
      | none, some n, _ =>
        let rows := v.slots.filterMap fun (p : Nat × QSlot) => (p.2.pages.findIdx? fun k => k == n).map (p.2.prow p.1)
        begun { v with walk := v.walk.put die (n + 1), begun := v.begun ++ [n], mainFetch := v.mainFetch + 1,
                       passes := v.passes ++ [{ page := n, die := die, catchup := false, rows := rows }] }
      | none, none, some n =>
        let rows := (v.catchups.filter fun p => p.1 == n).foldl (fun l p => insertRow p.2 l) []
        begun { v with catchups := v.catchups.filter (fun p => p.1 != n), secondFetch := v.secondFetch + 1,
                       passes := v.passes ++ [{ page := n, die := die, catchup := true, rows := rows }] }
      | none, none, none => .next (s.settleSweep ctx sweep)

/-- The die whose LPASSes take batch 0 of a page's pass (R352). -/
def State.targetDie (s : State) (v : Sweep) (page : Nat) : Nat :=
  let dies := (((s.plans.find? v.plan).bind fun p => p.stages[v.stage]?).elim [] StageSt.cores).map dieOf
  let d := s.pageDie v page
  if dies.contains d then d else dies.foldl min 3

/-- The pass whose batch a waiting LPASS takes (R352): the next one of a pass its context holds, else the oldest fetched
pass not yet given to a context, if the LPASS has waited longest on the target die. -/
def State.passFor (s : State) (v : Sweep) (w : LpassWait) : Option Nat :=
  let uid := fun (x : LpassWait) => s.uidOf x.at_.core x.at_.agent
  let holds := fun (x : LpassWait) => v.passes.any fun p => p.holder == some (uid x)
  if holds w then v.passes.findIdx? fun p => p.holder == some (uid w)
  else
    let die := dieOf w.at_.core
    let first := v.waiting.find? fun x => dieOf x.at_.core == die && !((s.core x.at_.core).moving) && !(holds x)
    if first.map LpassWait.at_ = some w.at_ then
      v.passes.findIdx? fun p => p.holder.isNone && p.fetched && s.targetDie v p.page == die
    else none

/-- A destination range cut into units of one line each (R268). -/
def cutLines (off : Nat) (bs : List Byte) : List (Nat × List Byte) :=
  (List.range ((off % 128 + bs.length + 127) / 128)).map fun i =>
    let lo := max off ((off / 128 + i) * 128)
    let hi := min (off + bs.length) ((off / 128 + i + 1) * 128)
    (lo, (bs.drop (lo - off)).take (hi - lo))

/-- A row of bytes filled with zero codes. -/
def padTo (n : Nat) (bs : List Byte) : List Byte := bs ++ List.replicate (n - bs.length) 0

/-- What a batch lands (R355): the tiles where given, the query rows and the row information. -/
def batchPieces (hdim e : Nat) (l : LandDesc) (tiles : Option (List Byte × List Byte)) (rows : List PRow) : List (Nat × List Byte) :=
  let tile := match tiles with
    | none => []
    | some (k, v) =>
      let krow := fun (n : Nat) => if n < hdim then (List.range 128).flatMap fun t => (k.drop ((t * hdim + n) * e)).take e else []
      let vrow := fun (t : Nat) => (v.drop (t * hdim * e)).take (hdim * e)
      ((List.range 128).flatMap fun n => cutLines (l.koff + n * 128 * e) (padTo (128 * e) (krow n))) ++
        (List.range 128).flatMap fun t => cutLines (l.voff + t * 128 * e) (padTo (128 * e) (vrow t))
  let nth := (List.range rows.length).zip rows
  let q := nth.flatMap fun p =>
    let w := 128 * kvBytes p.2.qfmt
    cutLines (l.qoff + p.1 * w) (padTo w p.2.row)
  let info := nth.flatMap fun p =>
    cutLines (l.ioff + 16 * p.1) (leBytes p.2.slot 2 ++ leBytes p.2.valid 2 ++ leBytes p.2.ord 4 ++ leBytes p.2.tag.toNat 8)
  tile ++ q ++ info

/-- The box of a landing, which holds the sweep it belongs to. -/
def landBox (sweep : W64) : Box :=
  { gaddr := sweep, key := 0, soff := 0, spitch := 0, ndim := 0, esize := 0, pipe := 0, n := [], strides := [], reserved := true }

/-- A batch goes to an LPASS (R356, R365): its bytes are posted, its lines marked, the pair written, and the landing
begins. The Ladle of the page's die has room for another page (R349), and the LPASSes that wait ask again (R352). -/
def State.deliverBatch (s : State) (v : Sweep) (w : LpassWait) (i : Nat) (p : Pass) (tiles : Option (List Byte × List Byte)) : State :=
  let c := w.at_.core
  let k := w.at_.agent
  let rows := p.rows.take 384
  let rest := p.rows.drop 384
  let land := batchPieces v.hdim (kvBytes v.kvfmt) w.desc tiles rows
  let n := land.foldl (fun t x => t + x.2.length) 0
  let info : W64 := BitVec.ofNat 64 (p.page + rows.length * 2 ^ 24 + (if p.batch = 0 then 0 else 2 ^ 33) +
    (if rest.isEmpty then 2 ^ 34 else 0) + (if p.catchup then 2 ^ 35 else 0) + p.batch % 256 * 2 ^ 40)
  let q : Pass := { p with rows := rest, batch := p.batch + 1, holder := some (s.uidOf c k) }
  let v : Sweep := { v with batches := v.batches + 1, waiting := v.waiting.filter fun x => !(x.at_.same w.at_),
                            passes := if rest.isEmpty then v.passes.eraseIdx i else v.passes.set i q }
  let a := s.agentD c k
  let part := (a.parts.find? w.at_.part).getD {}
  let (id, s) := (s.putSweep v).fresh
  let o : CopyOp := { id := id, agent := k, fn := 8, cmd := 0, box := landBox v.addr, land := land, slots := rows.map PRow.slot,
                      bar := w.desc.bar, sig := none, due := n, word := (part.latch.map Latch.word).getD 0xF4400000, pc := part.pc }
  let s := s.modAgent c k fun a =>
    let r := w.at_.d - 96
    ((a.countOp .eng id).sset r 0).sset (r + 1) info
  let s := s.resumePart c k w.at_.part
  let s := match o.bar with | some name => s.barExpect c (barAt name) n | none => s
  let ls := land.foldl (fun l x => (linesOf x.1 x.2.length).foldl (fun l y => insertNat y l) l) []
  let s := s.modCore c fun x => { (if w.desc.mark then x.mark id ls else x) with copies := x.copies ++ [o] }
  let s := (s.due (.copyLand c id)).offer v
  (if p.batch = 0 then s.walkOn p.die else s).settleSweep v.ctx v.addr

/-- The second check of an LPASS's expectation fails (R253): the batch stays for another, and the LPASS takes ILLEGAL_OPERAND. -/
def State.refuseLpass (s : State) (v : Sweep) (w : LpassWait) : State :=
  let c := w.at_.core
  let k := w.at_.agent
  let v : Sweep := { v with waiting := v.waiting.filter fun x => !(x.at_.same w.at_) }
  let part := ((s.agentD c k).parts.find? w.at_.part).getD {}
  let word := (part.latch.map Latch.word).getD 0xF4400000
  ((s.putSweep v).takeTrap c k w.at_.part { code := 0x02, einfo := word.setWidth 64, eaddr := 0, fmask := 0 } part.pc).offer v

/-- BATCH_ASSIGN (R351 to R354). A page that cannot be fetched is not delivered: the slots of its rows break. -/
def execBatchAssign (ctx : Nat) (sweep : W64) (core agent : Nat) (s : State) : Out :=
  match s.sweep? ctx sweep with
  | none => .next s
  | some v =>
    match v.waiting.find? fun w => w.at_.core == core && w.at_.agent == agent with
    | none => .next s
    | some w =>
      match (s.passFor v w).bind fun i => (v.passes[i]?).map fun p => (i, p) with
      | none => .next s
      | some (i, p) =>
        let rows := p.rows.take 384
        let e := kvBytes v.kvfmt
        let n := (if p.batch = 0 then 2 * 128 * 128 * e else 0) + rows.foldl (fun t r => t + 128 * kvBytes r.qfmt + 16) 0
        if w.desc.bar.any fun name => !(s.barFits core (barAt name) n) then .next (s.refuseLpass v w)
        else if !((s.agentD core agent).room .eng) then s.notYet (.batchAssign ctx sweep core agent)
        else if p.batch ≠ 0 then .next (s.deliverBatch v w i p none)
        else
          let k := v.ktile p.page
          let u := v.vtile p.page
          let codes := [s.stopCode ctx .r k v.tileBytes, s.stopCode ctx .r u v.tileBytes].filterMap id
          if codes.any resolvable && !(codes.any fun c => !(resolvable c)) then s.notYet (.batchAssign ctx sweep core agent)
          else
            match s.homeBytes ctx k v.tileBytes, s.homeBytes ctx u v.tileBytes with
            | some kb, some vb => .next (s.deliverBatch v w i p (some (kb, vb)))
            | _, _ =>
              let v := ({ v with passes := v.passes.eraseIdx i }).breakSlots (p.rows.map PRow.slot) 4
              let s := (s.metRange ctx u v.tileBytes).metRange ctx k v.tileBytes
              .next ((((s.putSweep v).offer v).walkOn p.die).settleSweep ctx sweep)

/-- PARTIAL_ARRIVE (R359). -/
def execPartialArrive (op : Nat) (s : State) : Out :=
  match s.msgs.find? fun m => m.id == op with
  | none => .next s
  | some m =>
    match m.kind with
    | .partial_ sweep x p _ =>
      match s.hoopTry m with
      | some t => .next (t.hoopAfter m.ctx sweep)
      | none =>
        -- the run of held partials cannot be read yet, or the partial waits for a buffer
        match (s.sweep? m.ctx sweep).bind fun v => v.slots.find? x with
        | some q =>
          if p.ord = q.next then s.notYet (.partialArrive op)
          else .next ({ s with hoopWait := s.hoopWait ++ [op] }.due (.hoopWaitExpire op))
        | none => .next s
    | _ => .next s

/-- The Whey slots that partials on their way to a sweep are to be held in (R359). -/
def State.boundWhey (s : State) (v : Sweep) : List Nat :=
  s.msgs.filterMap fun m => match m.kind with
    | .partial_ sweep _ _ whey => if m.ctx = v.ctx ∧ sweep = v.addr then whey else none
    | _ => none

/-- The least Whey slot of a sweep that holds nothing and is to hold nothing. -/
def State.freeWhey (s : State) (v : Sweep) : Option Nat :=
  let used := s.boundWhey v ++ v.slots.flatMap fun (p : Nat × QSlot) => p.2.held.filterMap Held.whey
  (List.range (min v.wheySlots (used.length + 1))).find? fun k => !(used.contains k)

/-- HOOP_WAIT_EXPIRE (R359): what can be handled otherwise by now is; else a Whey slot holds the partial, or its slot breaks and
its submitter takes HOOP_OVERFLOW (R366). A write the pager has not yet resolved is sent again to the same Whey slot. A partial
of the next ordinal waits for what it is to be merged with (R361). -/
def execHoopWaitExpire (op : Nat) (s : State) : Out :=
  match (s.msgs.find? fun m => m.id == op), s.hoopWait.contains op with
  | some m, true =>
    match m.kind, s.hoopTry m with
    | .partial_ sweep _ _ _, some t => .next (t.hoopAfter m.ctx sweep)
    | .partial_ sweep x p whey, none =>
      match s.sweep? m.ctx sweep, (s.sweep? m.ctx sweep).bind fun v => v.slots.find? x with
      | some v, some q =>
        let lose := fun (s : State) (reason : Nat) =>
          (s.putSweep { v with discarded := v.discarded + 1, slots := v.slots.put x { q with st := .broken reason } }).msgDone m
        match (if p.ord = q.next then none else whey.or (s.freeWhey v)) with
        | none =>
          if p.ord = q.next then s.notYet (.hoopWaitExpire op)
          else
          let info : TrapInfo := { code := 0x10, einfo := BitVec.ofNat 64 (x % 1024 + p.ord * 2 ^ 32), eaddr := 0, fmask := 0 }
          let s := s.modAgent m.core m.agent fun a => a.defer .xc op .hoop info
          .next ((lose s 1).hoopAfter m.ctx sweep)
        | some k =>
          match s.stopCode v.ctx .w (v.whey k) 528 with
          | some code =>
            if resolvable code then
              let held : Msg := { m with kind := .partial_ sweep x p (some k) }
              { s with msgs := updateFirst (fun (n : Msg) => n.id == op) (fun _ => held) s.msgs }.notYet (.hoopWaitExpire op)
            else .next ((lose s 4).hoopAfter m.ctx sweep)
          | none =>
            let t := (s.sysWrite v.ctx (v.whey k) (p.toBytes x)).getD s
            let kept := q.held ++ [{ p := p, whey := some k }]
            let w : Sweep := { v with spills := v.spills + 1, slots := v.slots.put x { q with held := kept } }
            .next (((t.putSweep w).msgDone m).hoopAfter m.ctx sweep)
      | _, _ => .next s
    | _, _ => .next s
  | _, _ => .next s

-- The pager refuses (R354, R359) ------------------------------------------------------------------------------------------------

/-- A range touches a page of memory. -/
def State.touches (s : State) (ctx : Nat) (va : W64) (n page : Nat) : Bool :=
  (s.pieces ctx .r (.va va) n).any fun p => match p.2.1 with | some ia => s.home ia / 65536 == page | none => false

/-- A sweep's part in a refusal: passes that wait for the page are not delivered, and a held partial there is lost. -/
def State.sweepRefused (s : State) (v : Sweep) (page : Nat) : Sweep :=
  let lost := v.passes.filter fun p => p.batch == 0 && p.fetched && p.holder.isNone &&
    (s.touches v.ctx (v.ktile p.page) v.tileBytes page || s.touches v.ctx (v.vtile p.page) v.tileBytes page)
  let held := fun (h : Held) => match h.whey with
    | some k => if s.touches v.ctx (v.whey k) 528 page then { h with bad := true } else h
    | none => h
  let slots := v.slots.map fun (p : Nat × QSlot) => (p.1, { p.2 with held := p.2.held.map held })
  let passes := v.passes.filter fun p => !(lost.contains p)
  Sweep.breakSlots { v with passes := passes, slots := slots } (lost.flatMap fun p => p.rows.map PRow.slot) 4

/-- A partial whose Whey slot lies in the page is discarded and its slot breaks (R359). -/
def State.partialRefused (s : State) (page : Nat) (m : Msg) : State :=
  match m.kind with
  | .partial_ sweep x _ (some k) =>
    match s.sweep? m.ctx sweep with
    | some v =>
      match v.slots.find? x with
      | some q =>
        if s.touches v.ctx (v.whey k) 528 page then
          (s.putSweep { v with discarded := v.discarded + 1, slots := v.slots.put x { q with st := .broken 4 } }).msgDone m
        else s
      | none => s
    | none => s
  | _ => s

/-- The pager refuses a page that the Ladle or the Hoop needs. -/
def State.attnRefused (s : State) (page : Nat) : State :=
  let t := s.msgs.foldl (fun (t : State) m => t.partialRefused page m) s
  let t := { t with sweeps := t.sweeps.map fun v => t.sweepRefused v page }
  t.sweeps.foldl (fun (u : State) (v : Sweep) => (((u.hoopAfter v.ctx v.addr).ladles v).offer v).settleSweep v.ctx v.addr) t

end Sys2Proof.Machine
end

