-- ==== Sys2Proof/Machine/Matrix.lean ====
section
/-! DEFINITION. The MTX group (R145 to R177, R487): gangs and the rendezvous, the baton, the checks at issue, the
places in the Vat order, and MQRY. What an operation does to the banks and slots is in EvVat.lean. -/

namespace Sys2Proof.Machine

-- Formats (R148 to R151) ------------------------------------------------------------------------------------------

/-- Bits of an element in the scratchpad. -/
def vatBits (code : Nat) : Nat :=
  match code with
  | 4 | 8 => 4
  | 6 | 7 => 16
  | 10 | 11 => 32
  | _ => 8

/-- Row bytes in the scratchpad. -/
def vatRow (code : Nat) : Nat := 16 * vatBits code

def actOk (code : Nat) : Bool := decide (code < 8)
def weightOk (code : Nat) : Bool := decide (code < 9)
def drainOk (code : Nat) : Bool := decide (code < 5) || code == 6 || code == 7 || code == 10 || code == 11

/-- The floating-point format of a code; INT8, CB4, FP32 and RAW32 are handled apart. -/
def vatFmt (code : Nat) : Fmt :=
  match code with
  | 0 => .e4m3 | 1 => .e5m2 | 2 => .e2m3 | 3 => .e3m2 | 4 => .e2m1 | 6 => .f16 | 7 => .bf16
  | _ => .f32

/-- Element `j` of a row of the pool. -/
def Core.elem (x : Core) (off bits j : Nat) : Nat :=
  if bits = 4 then (x.pool.get (off + j / 2)).toNat / 16 ^ (j % 2) % 16
  else x.pool.readLE (off + j * (bits / 8)) (bits / 8)

/-- Entry `i` of a codebook of 16 BF16 values (R83). -/
def bookEntry (book i : Nat) : Nat := book / 65536 ^ i % 65536

/-- The E4M3-exact test of R83. -/
def bookExact (book : Nat) : Bool :=
  (List.range 16).all fun i =>
    let v := Fmt.bf16.decode (bookEntry book i)
    v.isNan || (List.range 256).any fun c =>
      let w := Fmt.e4m3.decode c
      !w.isNan && Val.eq v w

/-- Width class of a bank as MQRY shows it (R148, R151, R177): 0 four bits, 1 eight, 2 sixteen. -/
def BankInfo.width (b : BankInfo) : Nat :=
  let c := b.fmt.toNat
  if c = 8 then (if b.exact then 1 else 2) else if c = 4 then 0 else if c = 6 ∨ c = 7 then 2 else 1

-- Gangs (R152, R158) -----------------------------------------------------------------------------------------------

def gangBase (g : BitVec 16) : Nat := g.toNat / 2 ^ 11
def gangCount (g : BitVec 16) : Nat := g.toNat / 2 ^ 8 % 8

/-- Two gang values share a wave. -/
def gangsMeet (g h : BitVec 16) : Bool :=
  decide (gangBase g < gangBase h + gangCount h ∧ gangBase h < gangBase g + gangCount g)

/-- The role of wave `i` by the sections of the launch record (R284). -/
def LaunchRec.waveRole (l : LaunchRec) (i : Nat) : Option Nat :=
  (l.sectionOf i).map fun x => x.1.role

/-- The issuing wave's gang holds the baton, or has a request in its queue (R158, R159). -/
def State.holdsBaton (s : State) : Bool := s.me.gng != 0 && s.myCore.baton == some (s.me.wg, s.me.gng)
def State.batonPending (s : State) : Bool := s.me.gng != 0 && s.myCore.batonQ.contains (s.me.wg, s.me.gng)

/-- GANG_MISMATCH or RENDEZVOUS_TIMEOUT shows a gang value and an FN (R154, R155). -/
def gangInfo (g : BitVec 16) (fn : Nat) : W64 := BitVec.ofNat 64 (g.toNat + fn * 2 ^ 16)

-- Checks at issue (R487) --------------------------------------------------------------------------------------------

/-- Deferred traps of the Vat are taken at the next MTX instruction (R170, R428); then the decode traps of R44, and the
interlocks. -/
def State.mtxHead (s : State) (reads writes : List Opnd) (ok : Bool) : Except State Unit := do
  s.trapGate (fun t => t.at_ == .vat) reads
  s.onlyMatrix
  need ok s.illegalOperand
  s.interlock reads writes

/-- A joint instruction of a wave in no gang (R487 step 1). There is no broken entry to show: sr.einfo holds the wave's own
sr.gng and the instruction's FN (R154; log 59). -/
def State.gangGate (s : State) (fn : Nat) : Except State Unit :=
  need (gangCount s.me.gng != 0) (s.trap 0x0A (gangInfo s.me.gng fn))

/-- Only a wave with one split in a slot issues to the Vat (R156). -/
def State.splitGate (s : State) : Except State Unit := need (decide (s.me.usedSlots.length ≤ 1)) s.illegalOperand

/-- A slot offset of SLOTS or more (R162). -/
def State.slotGate (s : State) (n : Nat) : Except State Unit := need (decide (n < s.me.slots)) s.illegalOperand

/-- The baton must be held, or, for VACQ, not held (R158). -/
def State.batonGate (s : State) (held : Bool) : Except State Unit := need (s.holdsBaton == held) s.illegalOperand

/-- An extent of the scratchpad, with the operand's offset as the address (R174). -/
def State.extentGate (s : State) (off n : Nat) : Except State Unit :=
  need (s.myCore.inScratch off n) (s.memFault (ownPool off) 0)

def State.alignGate (s : State) (off n : Nat) : Except State Unit := need (decide (off % n = 0)) (s.alignTrap (ownPool off))

/-- The physical accumulator slot of an owned slot (R161, R162). -/
def State.accSlot (s : State) (n : Nat) : Nat := (s.myCore.wgs.find? s.me.wg).elim 0 Wg.slotBase + s.me.slot + n

-- The rendezvous (R153 to R155) ------------------------------------------------------------------------------------

/-- An entry closes without effect, and every member parked at it traps (R154, R155). -/
def State.breakRdv (s : State) (c : Nat) (r : Rdv) (code : BitVec 8) : State :=
  let s := s.modCore c fun (x : Core) => { x with rdv := x.rdv.erase r }
  let info : TrapInfo := { code := code, einfo := gangInfo r.gng r.fn, eaddr := 0, fmask := 0 }
  r.arrived.foldl (fun (s : State) (a : Arrival) =>
    let pc := ((s.agentD c a.agent).parts.find? a.part).elim 0 Part.pc
    s.takeTrap c a.agent a.part info pc) s

/-- An operation takes its place in the Vat order (R146). -/
def State.vatPush (s : State) (c : Nat) (o : VatOp) : State := s.modCore c fun (x : Core) => { x with vatQ := x.vatQ ++ [o] }

/-- Every member counts a joint MMA or MMAC when it closes (R147). -/
def State.countMember (s : State) (c : Nat) (a : Arrival) : State × Arrival :=
  let (id, s) := s.fresh
  (s.modAgent c a.agent fun x => x.countOp .eng id, { a with op := id })

/-- A closed entry takes its place in the Vat order once for the gang (R146, R153, R159, R173). -/
def State.closeRdv (s : State) (c : Nat) (r : Rdv) : State :=
  let s := s.modCore c fun (x : Core) => { x with rdv := x.rdv.erase r }
  let resume := fun (s : State) => r.arrived.foldl (fun (s : State) (a : Arrival) => s.resumePart c a.agent a.part) s
  match r.fn with
  | 1 =>
    let s := r.arrived.foldl (fun (s : State) (a : Arrival) => s.modAgent c a.agent fun x =>
      match x.parts.find? a.part with
      | some p => { x with parts := x.parts.put a.part { p with wait := some .baton } }
      | none => x) s
    s.modCore c fun (x : Core) => Core.grantBaton { x with batonQ := x.batonQ ++ [(r.wg, r.gng)] }
  | 2 => resume (s.modCore c fun (x : Core) => Core.grantBaton { x with baton := none })
  | 4 =>
    let (id, s) := s.fresh
    let s := s.modCore c fun (x : Core) =>
      { x with nomActive := x.nomShadow, nomShadow := x.nomActive, swaps := (x.swaps + 1) % 2 ^ 32 }
    resume ((s.vatPush c { id := id, agent := s.cur.agent, kind := .wswap }).due (.wswapEffect c))
  | fn =>
    let (id, s) := s.fresh
    let (s, ms) := r.arrived.foldl (fun (acc : State × List Arrival) (a : Arrival) =>
      let p := acc.1.countMember c a
      (p.1, acc.2 ++ [p.2])) (s, [])
    resume ((s.vatPush c { id := id, agent := s.cur.agent, kind := .mma (fn == 6) ms }).due (.vatComplete c id))

/-- The arrival of a member at the entry of its gang value; it parks, and the last arrival closes the entry (R153,
R154). -/
def State.arriveRdv (s : State) (fn d a : Nat) (ctl : W64) : State :=
  let c := s.cur.core
  let me := s.me
  let g := me.gng
  let clash := s.myCore.rdv.filter fun r =>
    r.wg == me.wg && (if r.gng = g then r.fn != fn else gangsMeet r.gng g)
  match clash with
  | r :: rs =>
    let s := (r :: rs).foldl (fun (s : State) r => s.breakRdv c r 0x0A) s
    s.trap 0x0A (gangInfo r.gng r.fn)
  | [] =>
    let arr : Arrival := { agent := s.cur.agent, part := s.cur.part, slot := s.accSlot d, d := d, a := a, ctl := ctl }
    let old := (s.myCore.rdv.find? fun r => r.wg == me.wg && r.gng == g).getD { wg := me.wg, gng := g, fn := fn, arrived := [] }
    let new : Rdv := { old with arrived := old.arrived ++ [arr] }
    let s := s.park .rdv
    let s := s.modMyCore fun (x : Core) => { x with rdv := x.rdv.erase old ++ [new] }
    if new.arrived.length = gangCount g then s.closeRdv c new else s

-- The instructions (R171 to R177) -----------------------------------------------------------------------------------

/-- GANG (R172). -/
def execGang (a : BitVec 7) (s : State) : Out :=
  finish do
    s.mtxHead [(a, 64)] [] (isSz a)
    s.splitGate
    let v := s.sval a
    let g : BitVec 16 := v.setWidth 16
    let n := gangCount g
    let base := gangBase g
    let me := s.me
    let lr := s.myCore.lr
    need (decide (v.toNat < 2 ^ 16 ∧ v.toNat % 256 = 0) && n != 1 && n != 7 && (n != 0 || g == 0)) s.illegalOperand
    need (n == 0 || (decide (base + n ≤ lr.nwaves) && ((List.range n).all fun i => lr.waveRole (base + i) == some 0) &&
      decide (base ≤ me.index ∧ me.index < base + n))) s.illegalOperand
    need (!(s.holdsBaton || s.batonPending)) s.illegalOperand
    need (!(me.gng != 0 && s.myCore.rdv.any fun r =>
      r.wg == me.wg && r.gng == me.gng && r.arrived.any fun x => x.agent != s.cur.agent)) s.illegalOperand
    .ok (s.modMe fun x => { x with gng := g }).advance

/-- The runner of VACQ, VREL and WSWAP (R158, R171, R173). -/
def State.joint (s : State) (fn : Nat) (held : Bool) : Out :=
  finish do
    s.mtxHead [] [] true
    s.gangGate fn
    s.splitGate
    s.batonGate held
    .ok (s.arriveRdv fn 0 0 0)

def execVacq (s : State) : Out := s.joint 1 false
def execVrel (s : State) : Out := s.joint 2 true
def execWswap (s : State) : Out := s.joint 4 true

/-- The activation control word (R174). -/
def ctlFmt (w : W64) : Nat := w.toNat % 16
def ctlSc (w : W64) : Bool := w.getLsbD 8
def ctlScaleOff (w : W64) : Nat := w.toNat / 2 ^ 16 % 2 ^ 23
def ctlStride (w : W64) : Nat := w.toNat / 2 ^ 40 % 256 * 64
def ctlOk (w : W64) : Bool :=
  (w &&& 0xFFFF00800000FEF0) == 0 && actOk (ctlFmt w) && decide (64 ≤ ctlStride w ∧ vatRow (ctlFmt w) ≤ ctlStride w)

/-- The checks of MMA and MMAC (R174, R487): the activation rows and the control word when all hold. -/
def State.mmaChecks (s : State) (fn : Nat) (b a d : Reg) : Except State (Nat × W64) := do
  s.mtxHead [(a, 64), (b, 64)] [] (isSz a && isSz b && decide (d.toNat < 16))
  s.gangGate fn
  s.splitGate
  s.slotGate d.toNat
  s.batonGate true
  let bank := s.myCore.nomActive
  need bank.valid s.illegalOperand
  let w := s.sval b
  need (ctlOk w && ((ctlFmt w == 5) == (bank.fmt == 5)) && !(ctlSc w && ctlFmt w == 5)) s.illegalOperand
  let va := s.sval a
  let off := va.toNat % 2 ^ 23
  s.alignGate off 64
  if ctlSc w then s.alignGate (ctlScaleOff w) 4
  need (decide (va.toNat < 2 ^ 23)) (s.memFault (ownPool off) 0)
  s.extentGate off (63 * ctlStride w + vatRow (ctlFmt w))
  if ctlSc w then s.extentGate (ctlScaleOff w) 256
  s.roomGate .eng
  .ok (off, w)

/-- The runner of MMA and MMAC up to the arrival (R153). -/
def State.mma (s : State) (fn : Nat) (b a d : Reg) : Out :=
  finish do
    let p ← s.mmaChecks fn b a d
    .ok (s.arriveRdv fn d.toNat p.1 p.2)

def execMma (b a d : BitVec 7) (s : State) : Out := s.mma 5 b a d
def execMmac (b a d : BitVec 7) (s : State) : Out := s.mma 6 b a d

/-- A tile that WLOAD reads: its offsets, row stride, format and scale flag, and its codebook. -/
structure TileDesc where
  tile : Nat
  scales : Nat
  stride : Nat
  fmt : BitVec 4
  sc : Bool
  book : Nat
  deriving DecidableEq, Repr

/-- The checks of WLOAD (R175, R487): the tile when all hold. Bits [31:23] of SCALES and CODEBOOK must be zero, as those of TILE,
where the field is used (log 59). -/
def State.wloadChecks (s : State) (a : Reg) : Except State TileDesc := do
  s.mtxHead [(a, 64)] [] (isSz a)
  s.splitGate
  s.batonGate true
  let off ← s.descPlace (s.sval a) 16 16
  let bs ← s.poolBytes off 16
  let tile := fieldAt bs 0 4
  let scales := fieldAt bs 4 4
  let cb := fieldAt bs 8 4
  let stride := fieldAt bs 12 2
  let f := fieldAt bs 14 1
  let flags := fieldAt bs 15 1
  let sc := flags == 1
  need (decide (tile < 2 ^ 23 ∧ flags < 2) && weightOk f && !(sc && f == 5) && decide (stride % 64 = 0 ∧ vatRow f ≤ stride) &&
    (!sc || decide (scales < 2 ^ 23)) && (f != 8 || decide (cb < 2 ^ 23))) s.illegalOperand
  let book ← (if f = 8 then (s.poolBytes cb 32).map leNat else .ok 0)
  s.alignGate tile 64
  if sc then s.alignGate scales 64
  if f = 8 then s.alignGate cb 32
  s.extentGate tile (127 * stride + vatRow f)
  if sc then s.extentGate scales 512
  if f = 8 then s.extentGate cb 32
  s.roomGate .eng
  .ok { tile := tile, scales := scales, stride := stride, fmt := BitVec.ofNat 4 f, sc := sc, book := book }

/-- WLOAD (R146, R147, R175): the shadow bank is named at issue. -/
def execWload (a : BitVec 7) (s : State) : Out :=
  finish do
    let x ← s.wloadChecks a
    let (id, s) := s.fresh
    let c := s.cur.core
    let info : BankInfo := { fmt := x.fmt, sc := x.sc, exact := x.fmt == 8 && bookExact x.book, valid := true, load := some id }
    let s := (s.count .eng id).modMyCore fun (y : Core) => { y with nomShadow := info }
    let s := s.vatPush c { id := id, agent := s.cur.agent, kind := .wload x.tile x.scales x.book x.stride x.fmt x.sc }
    .ok (s.due (.vatComplete c id)).advance

/-- MZERO (R176). -/
def execMzero (d : BitVec 7) (s : State) : Out :=
  finish do
    s.mtxHead [] [] (decide (d.toNat < 16))
    s.splitGate
    s.slotGate d.toNat
    s.roomGate .eng
    let (id, s) := s.fresh
    let c := s.cur.core
    let s := (s.count .eng id).vatPush c { id := id, agent := s.cur.agent, kind := .mzero (s.accSlot d.toNat) }
    .ok (s.due (.vatComplete c id)).advance

/-- A drain descriptor (R166). -/
def DrainDesc.ofBytes (bs : List Byte) : DrainDesc :=
  let f := fieldAt bs
  { out := f 0 4, bias := f 4 4, res := f 8 4, ostride := f 12 2, rstride := f 14 2, ofmt := f 16 1, resfmt := f 17 1,
    ctrl := f 18 1, flags := f 19 1, thresh := f 20 4, dscale := f 24 4, row0 := f 28 4, col0 := f 32 4, bar := f 36 4,
    key := BitVec.ofNat 64 (f 40 8), srkey := BitVec.ofNat 64 (f 48 8), reserved := f 56 8 == 0 }

def DrainDesc.hasBias (x : DrainDesc) : Bool := x.flags % 2 == 1
def DrainDesc.hasRes (x : DrainDesc) : Bool := x.flags / 2 % 2 == 1
def DrainDesc.drops (x : DrainDesc) : Bool := x.flags / 4 % 2 == 1
def DrainDesc.hasBar (x : DrainDesc) : Bool := decide (2 ^ 31 ≤ x.bar)

/-- The stated values of every field that FLAGS and OFMT leave in use (R166 to R168, R67): BAR is, whatever its enable bit
holds. -/
def DrainDesc.ok (x : DrainDesc) : Bool :=
  x.reserved && drainOk x.ofmt && decide (x.out < 2 ^ 23 ∧ x.flags < 8 ∧ x.ctrl < 32 ∧ x.ctrl / 8 % 2 = 0) &&
  decide (x.ctrl < 16 ∨ x.ctrl % 4 = 0) &&
  (x.ofmt != 11 || (x.flags == 0 && x.ctrl == 0)) && (x.ofmt != 10 || x.ctrl == 0) &&
  decide (x.ostride % 64 = 0 ∧ vatRow x.ofmt ≤ x.ostride) &&
  (!x.hasBias || decide (x.bias < 2 ^ 23)) &&
  (!x.hasRes || (decide (x.res < 2 ^ 23 ∧ x.rstride % 64 = 0 ∧ vatRow x.resfmt ≤ x.rstride) &&
    (x.resfmt == 6 || x.resfmt == 7 || x.resfmt == 10))) &&
  decide (x.bar % 2 ^ 31 < 2 ^ 23) && (!x.hasBar || x.ostride == vatRow x.ofmt)

/-- The barrier of a drain. -/
def DrainDesc.barName (x : DrainDesc) : Option W64 := if x.hasBar then some (BitVec.ofNat 64 (x.bar % 2 ^ 23)) else none

/-- The checks of MDRAIN (R166, R176, R487): the descriptor when all hold. Its offset must be a multiple of its 64 bytes
(log 29). -/
def State.mdrainChecks (s : State) (a d : Reg) : Except State DrainDesc := do
  s.mtxHead [(a, 64)] [] (isSz a && decide (d.toNat < 16))
  s.splitGate
  s.slotGate d.toNat
  let off ← s.descPlace (s.sval a) 64 64
  let bs ← s.poolBytes off 64
  let x := DrainDesc.ofBytes bs
  need x.ok s.illegalOperand
  if x.hasBias then s.alignGate x.bias 64
  if x.hasRes then s.alignGate x.res 64
  if x.hasBar then s.alignGate x.out 128
  s.extentGate x.out (63 * x.ostride + vatRow x.ofmt)
  if x.hasBias then s.extentGate x.bias 512
  if x.hasRes then s.extentGate x.res (63 * x.rstride + vatRow x.resfmt)
  let bar := x.barName
  let n := 64 * vatRow x.ofmt
  s.barNameGate bar
  s.barRangeGate bar n
  s.roomGate .eng
  .ok x

/-- MDRAIN (R166 to R168, R176): with a barrier its bytes are posted and its lines marked at issue. -/
def execMdrain (a d : BitVec 7) (s : State) : Out :=
  finish do
    let x ← s.mdrainChecks a d
    let n := 64 * vatRow x.ofmt
    let (id, s) := s.fresh
    let c := s.cur.core
    let s := (s.count .eng id).post x.barName n
    let s := if x.hasBar then s.modMyCore fun y => y.mark id (linesOf x.out n) else s
    let s := s.vatPush c { id := id, agent := s.cur.agent, kind := .mdrain (s.accSlot d.toNat) d.toNat x }
    .ok (s.due (.vatComplete c id)).advance

/-- A bank as MQRY shows it (R177). -/
def Core.bankWord (x : Core) (b : BankInfo) : Nat :=
  b.fmt.toNat + (if b.sc then 2 ^ 4 else 0) + (if b.exact then 2 ^ 5 else 0) + b.width * 2 ^ 6 + (if b.valid then 2 ^ 8 else 0) +
    (if b.load.isSome then 2 ^ 9 else 0) + x.swaps * 2 ^ 32

/-- MQRY (R177). -/
def execMqry (a d : BitVec 7) (s : State) : Out :=
  finish do
    s.mtxHead [] [(d, 64)] (isSz d && decide (a.toNat < 4))
    s.splitGate
    let x := s.myCore
    let me := s.me
    let v : Nat := match a.toNat with
      | 0 => (if s.holdsBaton then 1 else 0) + (if s.batonPending then 2 else 0) + x.batonQ.length % 256 * 2 ^ 8
      | 1 => x.bankWord x.nomActive
      | 2 => x.bankWord x.nomShadow
      | _ => x.lr.slotTotal + me.slots * 2 ^ 5 + me.slot * 2 ^ 10
    .ok (s.setS d (BitVec.ofNat 64 v)).advance

end Sys2Proof.Machine
end

