-- ==== Sys2Proof/Machine/EvPipe.lean ====
section
/-! DEFINITION. The events at the ends of a pipe (R326 to R329, R336, R337): a blocked reservation is served; commits,
releases and seals arrive; the occupancy is sampled. An end that another device holds acts by the same events. -/

namespace Sys2Proof.Machine

/-- A pipe of a resident plan. -/
def State.pipe? (s : State) (pl n : Nat) : Option (PlanSt × PipeSt) :=
  (s.plans.find? pl).bind fun p => (p.pipes[n]?).map fun q => (p, q)

/-- Whether this device holds the producer end, and the home (R325). -/
def State.holdsEnd (s : State) (p : PlanSt) (stage : Nat) : Bool :=
  (p.stages[stage]?).any fun (t : StageSt) => t.device == s.devNum

/-- A commit or a release takes effect (R341). -/
def State.countCommit (s : State) (pl : Nat) : State := s.modPlan pl fun p => { p with commits := p.commits + 1 }

/-- The workgroup that reserves on another device. -/
def remoteWg : Nat := 2 ^ 64

/-- RESERVE_SERVED (R326): the reservation first in order takes a slot and the next ticket. -/
def execReserveServed (plan pipe : Nat) (s : State) : Out :=
  match s.pipe? plan pipe with
  | none => .next s
  | some (p, q) =>
    if !(s.holdsEnd p q.producer) then
      match q.reserve remoteWg with
      | some (_, q) => .next (s.setPipe plan pipe q)
      | none => .next s
    else
      match q.waitP with
      | [] => .next s
      | w :: rest =>
        let a := s.agentD w.core w.agent
        let uid := (((s.core w.core).wgs.find? a.wg).map Wg.uid).getD 0
        match q.reserve uid with
        | none => .next s
        | some (t, q) =>
          let s := s.setPipe plan pipe { q with waitP := rest }
          let s := s.modAgent w.core w.agent fun (a : Agent) =>
            if 96 ≤ w.d ∧ w.d < 120 then a.sset (w.d - 96) (BitVec.ofNat 64 t) else a
          let s := s.resumePart w.core w.agent w.part
          .next (if rest.isEmpty then s else s.due (.reserveServed plan pipe))

/-- COMMIT_ARRIVE (R327): the ticket enters the committed set at the home, and H passes void tickets. -/
def execCommitArrive (plan pipe ticket : Nat) (s : State) : Out :=
  match s.pipe? plan pipe with
  | none => .next s
  | some (_, q) =>
    if q.tickets.any fun t => t.t == ticket && !t.atHome && (t.st == .committed || (t.st == .reserved && t.wg == remoteWg)) then
      let q := q.setTicket ticket fun t => { t with st := .committed, atHome := true }
      .next ((s.setPipe plan pipe (q.skip (q.tickets.length + 1))).countCommit plan)
    else .next s

/-- A PPULL of the ticket that has not read its whole source (R276). -/
def State.pulling (s : State) (pl n t : Nat) : Bool :=
  s.cores.any fun x => x.2.copies.any fun o => o.fn == 4 && o.plan == pl && o.box.pipe == n && o.ticket == t && !o.moved

/-- RELEASE_ARRIVE (R328): the slot returns to the tail of its free list. Another device's consumer releases tickets in
its own order; each was delivered after every one below it (R327). -/
def execReleaseArrive (plan pipe ticket : Nat) (s : State) : Out :=
  match s.pipe? plan pipe with
  | none => .next s
  | some (p, q) =>
    match q.tickets.find? fun t => t.t == ticket with
    | none => .next s
    | some t =>
      let away := !(s.holdsEnd p q.consumer)
      if !(q.flying.any fun f => f.1 == ticket) && !(away && t.st == .committed) then .next s
      else if s.pulling plan pipe ticket then s.notYet (.releaseArrive plan pipe ticket)
      else
        let q := q.freeSlot t.at_
        let q : PipeSt := { q with tickets := q.tickets.filter fun u => u.t != ticket, flying := q.flying.filter fun f => f.1 != ticket,
                                   h := if away then max q.h (ticket + 1) else q.h }
        .next (((s.setPipe plan pipe q).countCommit plan).due (.reserveServed plan pipe))

/-- A part of a wave waits in PCMT at the pipe; a seal takes effect after its commit (R333). -/
def State.committing (s : State) (pl n : Nat) : Bool :=
  s.cores.any fun x => x.2.agents.any fun a => a.2.parts.any fun p =>
    match p.2.wait with
    | some (.pcmt x y _) => x == pl && y == n
    | _ => false

/-- SEAL_ARRIVE (R329): the seal takes effect at the producer end, and then at the home. -/
def execSealArrive (plan pipe : Nat) (home : Bool) (s : State) : Out :=
  match s.pipe? plan pipe with
  | none => .next s
  | some (p, q) =>
    if home then
      if q.sealedP || !(s.holdsEnd p q.producer) then .next (s.setPipe plan pipe { q with sealedP := true, sealedH := true })
      else .next s
    else if s.committing plan pipe then s.notYet (.sealArrive plan pipe false)
    else .next ((s.setPipe plan pipe { q with sealedP := true }).due (.sealArrive plan pipe true))

/-- The occupancy of a pipe (R337). -/
def PipeSt.occupancy (q : PipeSt) : Nat :=
  if q.wfree.size < q.spill then 256 else (q.depth - q.vfree.size) * 256 / (max 1 q.depth)

/-- One sample of a pipe. -/
def PipeSt.sample (q : PipeSt) : PipeSt := { q with occSum := q.occSum + q.occupancy, occN := q.occN + 1 }

/-- OCCUPANCY_SAMPLE (R337): one sample of each pipe at its producer end. -/
def execOccupancySample (plan : Nat) (s : State) : Out :=
  .next (s.modPlan plan fun (p : PlanSt) =>
    let qs := p.pipes.map fun (q : PipeSt) => if s.holdsEnd p q.producer then q.sample else q
    { p with pipes := qs })

end Sys2Proof.Machine
end

