-- ==== Sys2Proof/Machine/EvVat.lean ====
section
/-! DEFINITION. The events of the Vat (R146, R147, R155, R163 to R170, R173, R175): an operation completes, the banks
exchange, an operation ends on a fault, a line of a drain lands, an entry of the rendezvous times out. -/

namespace Sys2Proof.Machine

-- Order (R146, R163, R173) -----------------------------------------------------------------------------------------

def VatOp.isLoad (o : VatOp) : Bool := match o.kind with | .wload .. => true | _ => false
def VatOp.isSwap (o : VatOp) : Bool := match o.kind with | .wswap => true | _ => false
def VatOp.isMma (o : VatOp) : Bool := match o.kind with | .mma .. => true | _ => false

/-- Whether an operation waits for an earlier one: loads and swaps follow each other, a swap follows earlier MMAs, an
MMA follows earlier MMAs and swaps, and operations of one wave on one slot follow each other. -/
def VatOp.after (o e : VatOp) : Bool :=
  ((o.isLoad || o.isSwap || o.isMma) && e.isSwap) || ((o.isLoad || o.isSwap) && e.isLoad) ||
  ((o.isSwap || o.isMma) && e.isMma) || (o.slotsOf.any fun x => e.slotsOf.contains x)

/-- The operations that may run, in Vat order. -/
def vatReady : List VatOp → List VatOp → List VatOp
  | _, [] => []
  | before, o :: rest =>
    let more := vatReady (before ++ [o]) rest
    if before.any fun e => o.after e then more else o :: more

-- Reads (R169, R170) ------------------------------------------------------------------------------------------------

def rowRanges (off stride n rows : Nat) : List (Nat × Nat) := (List.range rows).map fun i => (off + i * stride, n)

/-- The ranges of the scratchpad an operation reads. -/
def VatOp.reads (o : VatOp) : List (Nat × Nat) :=
  match o.kind with
  | .wload tile scales _ stride f sc => rowRanges tile stride (vatRow f.toNat) 128 ++ (if sc then [(scales, 512)] else [])
  | .mma _ ms => ms.flatMap fun a =>
      rowRanges a.a (ctlStride a.ctl) (vatRow (ctlFmt a.ctl)) 64 ++ (if ctlSc a.ctl then [(ctlScaleOff a.ctl, 256)] else [])
  | .mdrain _ _ x => (if x.hasBias then [(x.bias, 512)] else []) ++
      (if x.hasRes then rowRanges x.res x.rstride (vatRow x.resfmt) 64 else [])
  | _ => []

/-- The lowest EMPTY line it waits on, by the offset of its first byte; the lowest uncorrectable byte it reads. -/
def Core.vatEmpty (x : Core) (o : VatOp) : Option Nat :=
  (x.emptyOf (o.reads.flatMap fun r => linesOf r.1 r.2)).foldl (fun m l => some (min (m.getD l) l)) none |>.map (· * 128)
def Core.vatBad (x : Core) (o : VatOp) : Option Nat :=
  (o.reads.filterMap fun r => x.firstBad r.1 r.2).foldl (fun m b => some (min (m.getD b) b)) none

-- Arithmetic (R164, R165, R167) -----------------------------------------------------------------------------------

/-- The value of an element of a format that is not INT8 (R81, R83). -/
def vatVal (f book c : Nat) : Val :=
  if f = 8 then Fmt.bf16.decode (bookEntry book c)
  else (vatFmt f).decode (if f = 2 ∨ f = 3 then c % 64 else c)

/-- Signed value of an INT8 code. -/
def int8 (c : Nat) : Int := if 128 ≤ c then (c : Int) - 256 else c

/-- A bank's scale of block b and column n (R87). -/
def Bank.scale (k : Bank) (b n : Nat) : Val := if k.sc then Fmt.e8m0.decode (k.scales.get (128 * b + n)).toNat else .fin false 1 0

/-- BlockSum of R164: the exact sum of 32 products under their scales. -/
def blockSum (x : Core) (k : Bank) (m : Arrival) (i n b : Nat) : Val :=
  let f := ctlFmt m.ctl
  let row := m.a + i * ctlStride m.ctl
  let sa : Val := if ctlSc m.ctl then Fmt.e8m0.decode (x.pool.get (ctlScaleOff m.ctl + 4 * i + b)).toNat else .fin false 1 0
  let sw := k.scale b n
  (List.range 32).foldl (fun s j =>
    let kk := 32 * b + j
    let act := vatVal f 0 (x.elem row (vatBits f) kk)
    let w := vatVal k.fmt.toNat k.book (k.tile.get (128 * kk + n)).toNat
    (Val.add .rne s (Val.mul (Val.mul (Val.mul act sa).1 w).1 sw).1).1) (.fin true 0 0)

/-- The sum of 32 products of INT8 codes (R164). -/
def blockInt (x : Core) (k : Bank) (m : Arrival) (i n b : Nat) : Int :=
  (List.range 32).foldl (fun (s : Int) j =>
    let kk := 32 * b + j
    s + int8 (x.elem (m.a + i * ctlStride m.ctl) 8 kk) * int8 (k.tile.get (128 * kk + n)).toNat) 0

/-- MmaElement of R164. -/
def mmaElement (x : Core) (k : Bank) (acc : Bool) (m : Arrival) (i n : Nat) : W32 :=
  let old := (x.acc.get (m.slot * 8192 + i * 128 + n)).toNat
  if ctlFmt m.ctl = 5 then
    BitVec.ofInt 32 ((List.range 4).foldl (fun (s : Int) b => s + blockInt x k m i n b) (if acc then (old : Int) else 0))
  else
    BitVec.ofNat 32 ((List.range 4).foldl (fun s b =>
      (Fmt.f32.round .rne false (Val.add .rne (Fmt.f32.decode s) (blockSum x k m i n b)).1).1) (if acc then old else 0x80000000))

/-- Writes every element of a slot. -/
def Core.fillSlot (x : Core) (slot : Nat) (f : Nat → Nat → W32) : Core :=
  { x with acc := (List.range 64).foldl (fun (m : SMap 32) i =>
      (List.range 128).foldl (fun (m : SMap 32) j => m.set (slot * 8192 + i * 128 + j) (f i j)) m) x.acc }

/-- One element of a drain before packing (R167). -/
def drainElem (x : Core) (slot : Nat) (d : DrainDesc) (i j : Nat) : Nat :=
  let v := (x.acc.get (slot * 8192 + i * 128 + j)).toNat
  if d.ofmt = 11 then v
  else
    let v := if d.hasBias then (Fmt.f32.addOp .rne v (x.elem d.bias 32 j)).1 else v
    let v := if d.hasRes then
        let r := x.elem (d.res + i * d.rstride) (vatBits d.resfmt) j
        (Fmt.f32.addOp .rne v ((vatFmt d.resfmt).widen .f32 r)).1
      else v
    let r0 : W32 := BitVec.ofNat 32 (d.row0 + i)
    let c0 : W32 := BitVec.ofNat 32 (d.col0 + j)
    let v := if d.drops then
        (if d.thresh ≤ (ckg d.key r0 c0).toNat then (Fmt.f32.mulOp .rne v d.dscale).1 else 0)
      else v
    if d.ofmt = 10 then v
    else
      let mode := if d.ctrl / 16 % 2 = 1 then RMode.sr (ckg d.srkey r0 c0) else RMode.ofBits (BitVec.ofNat 2 d.ctrl)
      ((vatFmt d.ofmt).round mode (d.ctrl / 4 % 2 == 1) (Fmt.f32.decode v)).1

/-- The bytes of an output row (R84). -/
def drainRow (x : Core) (slot : Nat) (d : DrainDesc) (i : Nat) : List Byte :=
  let e := fun (j : Nat) => drainElem x slot d i j
  let bits := vatBits d.ofmt
  if bits = 4 then (List.range 64).map fun j => BitVec.ofNat 8 (e (2 * j) % 16 + e (2 * j + 1) % 16 * 16)
  else (List.range 128).flatMap fun j => leBytes (e j) (bits / 8)

-- Completion ----------------------------------------------------------------------------------------------------------

def Core.vatDrop (x : Core) (op : Nat) : Core := { x with vatQ := x.vatQ.filter fun o => o.id != op }

/-- A WLOAD is no longer in progress, or leaves its bank invalid (R170, R175, R177). -/
def BankInfo.settle (b : BankInfo) (op : Nat) (ok : Bool) : BankInfo :=
  if b.load = some op then { b with load := none, valid := b.valid && ok } else b
def Core.settleLoad (x : Core) (op : Nat) (ok : Bool) : Core :=
  { x with nomActive := x.nomActive.settle op ok, nomShadow := x.nomShadow.settle op ok }

/-- The tile, the scales and the codebook as WLOAD copies them (R145, R175). -/
def Core.loadBank (x : Core) (tile scales book stride : Nat) (f : BitVec 4) (sc : Bool) : Bank :=
  { fmt := f, sc := sc, book := book,
    tile := (List.range 128).foldl (fun (m : SMap 16) k => (List.range 128).foldl (fun (m : SMap 16) n =>
      m.set (128 * k + n) (BitVec.ofNat 16 (x.elem (tile + k * stride) (vatBits f.toNat) n))) m) [],
    scales := if sc then (List.range 512).foldl (fun (m : SMap 8) i => m.set i (x.pool.get (scales + i))) [] else [] }

/-- A deferred trap of a Vat operation (R170). -/
def vatTrap (code : BitVec 8) (fn d : Nat) (eaddr : W64) : TrapInfo :=
  { code := code, einfo := BitVec.ofNat 64 (fn + d * 2 ^ 8), eaddr := eaddr, fmask := 0 }

/-- Members of an MMA take a trap, and their slots hold NaN in every element (R170, R175). -/
def State.mmaFail (s : State) (c : Nat) (acc : Bool) (ms : List Arrival) (code : BitVec 8) (eaddr : W64) : State :=
  ms.foldl (fun (s : State) (m : Arrival) =>
    let s := s.modCore c fun x => x.fillSlot m.slot fun _ _ => 0x7FC00000
    let s := s.modAgent c m.agent fun a => a.defer .eng m.op .vat (vatTrap code (if acc then 6 else 5) m.d eaddr)
    s.complete c m.agent .eng m.op) s

/-- The effect of an operation whose reads are ready (R164, R167, R168, R175, R176). -/
def State.vatRun (s : State) (c : Nat) (o : VatOp) : State :=
  let x := s.core c
  match o.kind with
  | .wload tile scales book stride f sc =>
    let bank := x.loadBank tile scales book stride f sc
    (s.setCore c ((({ x with shadow := bank } : Core).settleLoad o.id true).vatDrop o.id)).complete c o.agent .eng o.id
  | .wswap => s
  | .mma acc ms =>
    let s := s.modCore c fun y => y.vatDrop o.id
    match x.active.bad with
    | some (code, eaddr) => s.mmaFail c acc ms code eaddr
    | none =>
      ms.foldl (fun (s : State) (m : Arrival) =>
        (s.modCore c fun y => y.fillSlot m.slot (mmaElement y y.active acc m)).complete c m.agent .eng m.op) s
  | .mzero n => ((s.modCore c fun y => (y.fillSlot n fun _ _ => 0).vatDrop o.id)).complete c o.agent .eng o.id
  | .mdrain n _ d =>
    let rows := (List.range 64).map fun i => (d.out + i * d.ostride, drainRow x n d i)
    match d.barName with
    | none =>
      (s.modCore c fun y => (rows.foldl (fun (y : Core) r => y.poolPut r.1 r.2) y).vatDrop o.id).complete c o.agent .eng o.id
    | some bar =>
      let all := rows.flatMap Prod.snd
      let lines := (List.range (all.length / 128)).map fun i => (d.out + 128 * i, (all.drop (128 * i)).take 128)
      let dr : Drain := { id := o.id, agent := o.agent, bar := bar, lines := lines }
      (s.modCore c fun y => ({ y with drains := y.drains ++ [dr] } : Core).vatDrop o.id).due (.drainLineLand c o.id)

/-- VAT_COMPLETE (R147). -/
def execVatComplete (core op : Nat) (s : State) : Out :=
  let x := s.core core
  match x.vatQ.find? fun o => o.id == op with
  | none => .next s
  | some o =>
    if !((vatReady [] x.vatQ).contains o) || (x.vatEmpty o).isSome then s.notYet (.vatComplete core op)
    else if (x.vatBad o).isSome then .next (s.due (.vatFault core 0x07))
    else .next (s.vatRun core o)

/-- WSWAP_EFFECT (R173): the banks exchange with all they hold. -/
def execWswapEffect (core : Nat) (s : State) : Out :=
  let x := s.core core
  match (vatReady [] x.vatQ).find? VatOp.isSwap with
  | some o => .next (s.setCore core (({ x with active := x.shadow, shadow := x.active } : Core).vatDrop o.id))
  | none => if x.vatQ.any VatOp.isSwap then s.notYet (.wswapEffect core) else .next s

/-- What VAT_FAULT does to an operation (R170). A WLOAD has no slot offset: it shows 0 (log 59). -/
def State.vatEnd (s : State) (c : Nat) (o : VatOp) (code : BitVec 8) (eaddr : W64) : State :=
  let s := s.modCore c fun (y : Core) => y.vatDrop o.id
  match o.kind with
  | .wload .. =>
    let s := s.modCore c fun (y : Core) => Core.settleLoad { y with shadow := { y.shadow with bad := some (code, eaddr) } } o.id false
    let s := s.modAgent c o.agent fun a => a.defer .eng o.id .vat (vatTrap code 3 0 eaddr)
    s.complete c o.agent .eng o.id
  | .mma acc ms => s.mmaFail c acc ms code eaddr
  | .mdrain _ d desc =>
    let s := s.landed c desc.barName (64 * vatRow desc.ofmt) true
    let s := s.modCore c fun (y : Core) => y.fullAll o.id
    let s := s.modAgent c o.agent fun a => a.defer .eng o.id .vat (vatTrap code 8 d eaddr)
    s.complete c o.agent .eng o.id
  | _ => s

/-- VAT_FAULT (R170): the first operation that may run and whose reads wait on an EMPTY line (code 0x08) or are
uncorrectable (0x07) ends with its trap deferred. -/
def execVatFault (core : Nat) (code : BitVec 8) (s : State) : Out :=
  let x := s.core core
  let hit := fun (o : VatOp) => if code = 0x08 then x.vatEmpty o else if (x.vatEmpty o).isSome then none else x.vatBad o
  match (vatReady [] x.vatQ).find? fun o => (hit o).isSome with
  | some o =>
    let s := if code = 0x07 then s.metPool core ((hit o).getD 0) else s
    .next (s.vatEnd core o code (ownPool ((hit o).getD 0)))
  | none => .next s

/-- DRAIN_LINE_LAND (R168): the next line of a drain is written, turns FULL and counts down; the last one completes the
drain. -/
def execDrainLineLand (core op : Nat) (s : State) : Out :=
  match (s.core core).drains.find? fun d => d.id == op with
  | none => .next s
  | some d =>
    let put := fun (s : State) (ls : List (Nat × List Byte)) => s.modCore core fun (x : Core) =>
      { x with drains := updateFirst (fun (y : Drain) => y.id == op) (fun y => { y with lines := ls }) x.drains }
    match d.lines with
    | [] => .next ((s.modCore core fun (x : Core) => { x with drains := x.drains.filter fun y => y.id != op }).complete core d.agent .eng op)
    | (off, bs) :: rest =>
      let s := s.modCore core fun x => (x.poolPut off bs).lineLanded op (off / 128)
      let s := (put s rest).landed core (some d.bar) bs.length false
      if rest.isEmpty then
        .next ((s.modCore core fun (x : Core) => { x with drains := x.drains.filter fun y => y.id != op }).complete core d.agent .eng op)
      else .next (s.due (.drainLineLand core op))

/-- RENDEZVOUS_TIMEOUT (R155). -/
def execRendezvousTimeout (core : Nat) (gng : RdvRef) (s : State) : Out :=
  match (s.core core).rdv.find? fun r => r.wg == gng.wg && r.gng == gng.gng with
  | some r => .next (s.breakRdv core r 0x0B)
  | none => .next s

end Sys2Proof.Machine
end

