-- ==== Sys2Proof/Decode.lean ====
section
/-! DEFINITION. Instruction words (R46 to R69): what every 32-bit word decodes to, by the function-code tables of
R61 to R68, and the word of every instruction. A decoded instruction keeps its raw fields; whether its operands are
legal (R49, R53 to R59) is judged by the predicates of Machine/Fields.lean and by the meanings, but a bit that the
table fixes and a word breaks is rejected here. The decoder is marked noncomputable because Lean's code generator
has no constructor tags above 244 and the table has more rows than that; the kernel evaluates it. -/

namespace Sys2Proof

/-- Why a word is no instruction: ILLEGAL_OPCODE (R60 to R66), or a fixed field broken, ILLEGAL_OPERAND (R49, R64,
R67). ZTRAP (R63) decodes to an instruction of its own, whose effect is to take ILLEGAL_OPCODE. -/
inductive Reject where
  | illegalOpcode | illegalOperand
  deriving DecidableEq, Repr

/-- Bits [lo + n − 1 : lo] of a word as a number (R3). -/
def bits (w : W32) (lo n : Nat) : Nat := w.toNat / 2 ^ lo % 2 ^ n

/-- The same bits as a field. -/
def fld (w : W32) (lo n : Nat) : BitVec n := BitVec.ofNat n (w.toNat / 2 ^ lo)

/-- Major 0x00: the function field FN chooses the row (R61 to R68). -/
noncomputable def decodeMisc (w : W32) : Except Reject Instr :=
  match bits w 21 5 with
  | 0 => .ok (.ztrap (fld w 0 21))
  | 1 => if bits w 0 21 = 2064125 then .ok (.nop) else .error .illegalOperand
  | 2 => if bits w 0 21 = 2064125 then .ok (.exit) else .error .illegalOperand
  | 3 => if bits w 0 21 = 2064125 then .ok (.wsync) else .error .illegalOperand
  | 4 => if bits w 14 7 = 125 then .ok (.srd (fld w 7 7) (fld w 0 7)) else .error .illegalOperand
  | 5 => if bits w 14 7 = 125 then .ok (.swr (fld w 7 7) (fld w 0 7)) else .error .illegalOperand
  | 6 => if bits w 0 21 = 2064125 then .ok (.rft) else .error .illegalOperand
  | 7 => if bits w 7 14 = 16125 then .ok (.clkrd (fld w 0 7)) else .error .illegalOperand
  | 8 => if bits w 0 7 = 125 ∧ bits w 14 7 = 125 then .ok (.tmark (fld w 7 7)) else .error .illegalOperand
  | 9 => if bits w 14 7 = 125 then .ok (.erd (fld w 7 7) (fld w 0 7)) else .error .illegalOperand
  | 10 => if bits w 0 7 = 125 ∧ bits w 14 7 = 125 then .ok (.winb (fld w 7 7)) else .error .illegalOperand
  | 11 => if bits w 0 21 = 2064125 then .ok (.yield) else .error .illegalOperand
  | 12 => if bits w 0 21 = 2064125 then .ok (.bkpt) else .error .illegalOperand
  | _ => .error .illegalOpcode

/-- Major 0x04: the function field FN chooses the row (R61 to R68). -/
noncomputable def decodeIalu (w : W32) : Except Reject Instr :=
  match bits w 21 5 with
  | 0 => .ok (.iadd (fld w 26 1) (fld w 14 7) (fld w 7 7) (fld w 0 7))
  | 1 => .ok (.isub (fld w 26 1) (fld w 14 7) (fld w 7 7) (fld w 0 7))
  | 2 => .ok (.imul (fld w 26 1) (fld w 14 7) (fld w 7 7) (fld w 0 7))
  | 3 => .ok (.imulhs (fld w 26 1) (fld w 14 7) (fld w 7 7) (fld w 0 7))
  | 4 => .ok (.imulhn (fld w 26 1) (fld w 14 7) (fld w 7 7) (fld w 0 7))
  | 5 => .ok (.imad (fld w 26 1) (fld w 14 7) (fld w 7 7) (fld w 0 7))
  | 6 => .ok (.imins (fld w 26 1) (fld w 14 7) (fld w 7 7) (fld w 0 7))
  | 7 => .ok (.iminn (fld w 26 1) (fld w 14 7) (fld w 7 7) (fld w 0 7))
  | 8 => .ok (.imaxs (fld w 26 1) (fld w 14 7) (fld w 7 7) (fld w 0 7))
  | 9 => .ok (.imaxn (fld w 26 1) (fld w 14 7) (fld w 7 7) (fld w 0 7))
  | 10 => if bits w 14 7 = 125 then .ok (.iabs (fld w 26 1) (fld w 7 7) (fld w 0 7)) else .error .illegalOperand
  | 11 => if bits w 14 7 = 125 then .ok (.ineg (fld w 26 1) (fld w 7 7) (fld w 0 7)) else .error .illegalOperand
  | 12 => .ok (.and (fld w 26 1) (fld w 14 7) (fld w 7 7) (fld w 0 7))
  | 13 => .ok (.or (fld w 26 1) (fld w 14 7) (fld w 7 7) (fld w 0 7))
  | 14 => .ok (.xor (fld w 26 1) (fld w 14 7) (fld w 7 7) (fld w 0 7))
  | 15 => .ok (.andn (fld w 26 1) (fld w 14 7) (fld w 7 7) (fld w 0 7))
  | 16 => .ok (.shl (fld w 26 1) (fld w 14 7) (fld w 7 7) (fld w 0 7))
  | 17 => .ok (.shr (fld w 26 1) (fld w 14 7) (fld w 7 7) (fld w 0 7))
  | 18 => .ok (.sra (fld w 26 1) (fld w 14 7) (fld w 7 7) (fld w 0 7))
  | 19 => .ok (.rotl (fld w 26 1) (fld w 14 7) (fld w 7 7) (fld w 0 7))
  | 20 => if bits w 14 7 = 125 then .ok (.popc (fld w 26 1) (fld w 7 7) (fld w 0 7)) else .error .illegalOperand
  | 21 => if bits w 14 7 = 125 then .ok (.clz (fld w 26 1) (fld w 7 7) (fld w 0 7)) else .error .illegalOperand
  | 22 => if bits w 14 7 = 125 then .ok (.brev (fld w 26 1) (fld w 7 7) (fld w 0 7)) else .error .illegalOperand
  | 23 => .ok (.iaddss (fld w 26 1) (fld w 14 7) (fld w 7 7) (fld w 0 7))
  | 24 => .ok (.iaddsn (fld w 26 1) (fld w 14 7) (fld w 7 7) (fld w 0 7))
  | 25 => .ok (.isubss (fld w 26 1) (fld w 14 7) (fld w 7 7) (fld w 0 7))
  | 26 => .ok (.isubsn (fld w 26 1) (fld w 14 7) (fld w 7 7) (fld w 0 7))
  | 27 => if bits w 14 7 = 125 then .ok (.mov (fld w 26 1) (fld w 7 7) (fld w 0 7)) else .error .illegalOperand
  | 28 | 29 | 30 | 31 => .ok (.sel (fld w 26 1) (fld w 21 2) (fld w 14 7) (fld w 7 7) (fld w 0 7))
  | _ => .error .illegalOpcode

/-- Major 0x06: the function field FN chooses the row (R61 to R68). -/
noncomputable def decodeIcmp (w : W32) : Except Reject Instr :=
  match bits w 21 5 with
  | 0 | 8 | 16 | 24 => .ok (.icmpEq (fld w 25 1) (fld w 24 1) (fld w 14 7) (fld w 7 7) (fld w 0 7))
  | 1 | 9 | 17 | 25 => .ok (.icmpNe (fld w 25 1) (fld w 24 1) (fld w 14 7) (fld w 7 7) (fld w 0 7))
  | 2 | 10 | 18 | 26 => .ok (.icmpLtS (fld w 25 1) (fld w 24 1) (fld w 14 7) (fld w 7 7) (fld w 0 7))
  | 3 | 11 | 19 | 27 => .ok (.icmpLeS (fld w 25 1) (fld w 24 1) (fld w 14 7) (fld w 7 7) (fld w 0 7))
  | 4 | 12 | 20 | 28 => .ok (.icmpLtN (fld w 25 1) (fld w 24 1) (fld w 14 7) (fld w 7 7) (fld w 0 7))
  | 5 | 13 | 21 | 29 => .ok (.icmpLeN (fld w 25 1) (fld w 24 1) (fld w 14 7) (fld w 7 7) (fld w 0 7))
  | 6 | 14 | 22 | 30 => .ok (.icmpTst (fld w 25 1) (fld w 24 1) (fld w 14 7) (fld w 7 7) (fld w 0 7))
  | _ => .error .illegalOpcode

/-- Major 0x0D: the function field kind chooses the row (R61 to R68). -/
noncomputable def decodeShfi (w : W32) : Except Reject Instr :=
  match bits w 24 2 with
  | 0 => if bits w 20 3 = 0 then .ok (.shfiShl (fld w 23 1) (fld w 14 6) (fld w 7 7) (fld w 0 7)) else .error .illegalOperand
  | 1 => if bits w 20 3 = 0 then .ok (.shfiShr (fld w 23 1) (fld w 14 6) (fld w 7 7) (fld w 0 7)) else .error .illegalOperand
  | 2 => if bits w 20 3 = 0 then .ok (.shfiSra (fld w 23 1) (fld w 14 6) (fld w 7 7) (fld w 0 7)) else .error .illegalOperand
  | 3 => if bits w 20 3 = 0 then .ok (.shfiRotl (fld w 23 1) (fld w 14 6) (fld w 7 7) (fld w 0 7)) else .error .illegalOperand
  | _ => .error .illegalOpcode

/-- Major 0x10: the function field FN chooses the row (R61 to R68). -/
noncomputable def decodeFalu (w : W32) : Except Reject Instr :=
  match bits w 21 5 with
  | 0 => .ok (.fadd (fld w 14 7) (fld w 7 7) (fld w 0 7))
  | 1 => .ok (.fsub (fld w 14 7) (fld w 7 7) (fld w 0 7))
  | 2 => .ok (.fmul (fld w 14 7) (fld w 7 7) (fld w 0 7))
  | 3 => .ok (.fmin (fld w 14 7) (fld w 7 7) (fld w 0 7))
  | 4 => .ok (.fmax (fld w 14 7) (fld w 7 7) (fld w 0 7))
  | 5 => if bits w 14 7 = 125 then .ok (.fabs (fld w 7 7) (fld w 0 7)) else .error .illegalOperand
  | 6 => if bits w 14 7 = 125 then .ok (.fneg (fld w 7 7) (fld w 0 7)) else .error .illegalOperand
  | 7 => .ok (.fcpys (fld w 14 7) (fld w 7 7) (fld w 0 7))
  | 8 => .ok (.fminm (fld w 14 7) (fld w 7 7) (fld w 0 7))
  | 9 => .ok (.fmaxm (fld w 14 7) (fld w 7 7) (fld w 0 7))
  | 10 => if bits w 14 7 = 125 then .ok (.ffloor (fld w 7 7) (fld w 0 7)) else .error .illegalOperand
  | 11 => if bits w 14 7 = 125 then .ok (.fceil (fld w 7 7) (fld w 0 7)) else .error .illegalOperand
  | 12 => if bits w 14 7 = 125 then .ok (.ftrunc (fld w 7 7) (fld w 0 7)) else .error .illegalOperand
  | 13 => if bits w 14 7 = 125 then .ok (.frint (fld w 7 7) (fld w 0 7)) else .error .illegalOperand
  | 14 => if bits w 14 7 = 125 then .ok (.fclass (fld w 7 7) (fld w 0 7)) else .error .illegalOperand
  | _ => .error .illegalOpcode

/-- Major 0x11: the function field FN chooses the row (R61 to R68). -/
noncomputable def decodeFfma (w : W32) : Except Reject Instr :=
  match bits w 21 5 with
  | 0 | 4 | 8 | 12 => .ok (.fma (fld w 23 3) (fld w 14 7) (fld w 7 7) (fld w 0 7))
  | 1 | 5 | 9 | 13 => .ok (.fms (fld w 23 3) (fld w 14 7) (fld w 7 7) (fld w 0 7))
  | 2 | 6 | 10 | 14 => .ok (.nfma (fld w 23 3) (fld w 14 7) (fld w 7 7) (fld w 0 7))
  | 3 | 7 | 11 | 15 => .ok (.nfms (fld w 23 3) (fld w 14 7) (fld w 7 7) (fld w 0 7))
  | _ => .error .illegalOpcode

/-- Major 0x12: the function field FN chooses the row (R61 to R68). -/
noncomputable def decodeFcmp (w : W32) : Except Reject Instr :=
  match bits w 21 5 with
  | 0 | 8 | 16 | 24 => .ok (.fcmpEq (fld w 25 1) (fld w 24 1) (fld w 14 7) (fld w 7 7) (fld w 0 7))
  | 1 | 9 | 17 | 25 => .ok (.fcmpNe (fld w 25 1) (fld w 24 1) (fld w 14 7) (fld w 7 7) (fld w 0 7))
  | 2 | 10 | 18 | 26 => .ok (.fcmpLt (fld w 25 1) (fld w 24 1) (fld w 14 7) (fld w 7 7) (fld w 0 7))
  | 3 | 11 | 19 | 27 => .ok (.fcmpLe (fld w 25 1) (fld w 24 1) (fld w 14 7) (fld w 7 7) (fld w 0 7))
  | 4 | 12 | 20 | 28 => .ok (.fcmpUnord (fld w 25 1) (fld w 24 1) (fld w 14 7) (fld w 7 7) (fld w 0 7))
  | 5 | 13 | 21 | 29 => .ok (.fcmpOrd (fld w 25 1) (fld w 24 1) (fld w 14 7) (fld w 7 7) (fld w 0 7))
  | _ => .error .illegalOpcode

/-- Major 0x13: the function field FN chooses the row (R61 to R68). -/
noncomputable def decodeFsfu (w : W32) : Except Reject Instr :=
  match bits w 21 5 with
  | 0 => if bits w 14 7 = 125 then .ok (.frcp (fld w 7 7) (fld w 0 7)) else .error .illegalOperand
  | 1 => if bits w 14 7 = 125 then .ok (.frsq (fld w 7 7) (fld w 0 7)) else .error .illegalOperand
  | 2 => if bits w 14 7 = 125 then .ok (.fsqrt (fld w 7 7) (fld w 0 7)) else .error .illegalOperand
  | 3 => if bits w 14 7 = 125 then .ok (.fex2 (fld w 7 7) (fld w 0 7)) else .error .illegalOperand
  | 4 => if bits w 14 7 = 125 then .ok (.flg2 (fld w 7 7) (fld w 0 7)) else .error .illegalOperand
  | 5 => if bits w 14 7 = 125 then .ok (.fsinp (fld w 7 7) (fld w 0 7)) else .error .illegalOperand
  | 6 => if bits w 14 7 = 125 then .ok (.fcosp (fld w 7 7) (fld w 0 7)) else .error .illegalOperand
  | 7 => if bits w 14 7 = 125 then .ok (.ftanh (fld w 7 7) (fld w 0 7)) else .error .illegalOperand
  | 8 => .ok (.fdiv (fld w 14 7) (fld w 7 7) (fld w 0 7))
  | _ => .error .illegalOpcode

/-- Major 0x14: the function field FN chooses the row (R61 to R68). -/
noncomputable def decodeCvt (w : W32) : Except Reject Instr :=
  match bits w 21 5 with
  | 0 => if bits w 16 5 = 0 then .ok (.cvtF32S32 (fld w 14 2) (fld w 7 7) (fld w 0 7)) else .error .illegalOperand
  | 1 => if bits w 16 5 = 0 then .ok (.cvtF32N32 (fld w 14 2) (fld w 7 7) (fld w 0 7)) else .error .illegalOperand
  | 2 => if bits w 16 5 = 0 then .ok (.cvtS32F32 (fld w 14 2) (fld w 7 7) (fld w 0 7)) else .error .illegalOperand
  | 3 => if bits w 16 5 = 0 then .ok (.cvtN32F32 (fld w 14 2) (fld w 7 7) (fld w 0 7)) else .error .illegalOperand
  | 4 => if bits w 17 1 = 0 ∧ bits w 19 2 = 0 then .ok (.cvtF32F16 (fld w 18 1) (fld w 16 1) (fld w 14 2) (fld w 7 7) (fld w 0 7)) else .error .illegalOperand
  | 5 => if bits w 14 7 = 0 then .ok (.cvtF16F32 (fld w 7 7) (fld w 0 7)) else .error .illegalOperand
  | 6 => if bits w 17 1 = 0 ∧ bits w 19 2 = 0 then .ok (.cvtF32Bf16 (fld w 18 1) (fld w 16 1) (fld w 14 2) (fld w 7 7) (fld w 0 7)) else .error .illegalOperand
  | 7 => if bits w 14 7 = 0 then .ok (.cvtBf16F32 (fld w 7 7) (fld w 0 7)) else .error .illegalOperand
  | 8 => if bits w 17 1 = 0 ∧ bits w 19 2 = 0 then .ok (.cvtF32E4m3 (fld w 18 1) (fld w 16 1) (fld w 14 2) (fld w 7 7) (fld w 0 7)) else .error .illegalOperand
  | 9 => if bits w 17 1 = 0 ∧ bits w 19 2 = 0 then .ok (.cvtF32E5m2 (fld w 18 1) (fld w 16 1) (fld w 14 2) (fld w 7 7) (fld w 0 7)) else .error .illegalOperand
  | 10 => if bits w 14 7 = 0 then .ok (.cvtE4m3F32 (fld w 7 7) (fld w 0 7)) else .error .illegalOperand
  | 11 => if bits w 14 7 = 0 then .ok (.cvtE5m2F32 (fld w 7 7) (fld w 0 7)) else .error .illegalOperand
  | 12 => if bits w 17 1 = 0 ∧ bits w 19 2 = 0 then .ok (.cvtF32E2m3 (fld w 18 1) (fld w 16 1) (fld w 14 2) (fld w 7 7) (fld w 0 7)) else .error .illegalOperand
  | 13 => if bits w 17 1 = 0 ∧ bits w 19 2 = 0 then .ok (.cvtF32E3m2 (fld w 18 1) (fld w 16 1) (fld w 14 2) (fld w 7 7) (fld w 0 7)) else .error .illegalOperand
  | 14 => if bits w 14 7 = 0 then .ok (.cvtE2m3F32 (fld w 7 7) (fld w 0 7)) else .error .illegalOperand
  | 15 => if bits w 14 7 = 0 then .ok (.cvtE3m2F32 (fld w 7 7) (fld w 0 7)) else .error .illegalOperand
  | 16 => if bits w 17 1 = 0 ∧ bits w 19 2 = 0 then .ok (.cvtF32E2m1 (fld w 18 1) (fld w 16 1) (fld w 14 2) (fld w 7 7) (fld w 0 7)) else .error .illegalOperand
  | 17 => if bits w 14 7 = 0 then .ok (.cvtE2m1F32 (fld w 7 7) (fld w 0 7)) else .error .illegalOperand
  | 18 => if bits w 14 7 = 0 then .ok (.cvtF32F64 (fld w 7 7) (fld w 0 7)) else .error .illegalOperand
  | 19 => if bits w 17 4 = 0 then .ok (.cvtF64F32 (fld w 16 1) (fld w 14 2) (fld w 7 7) (fld w 0 7)) else .error .illegalOperand
  | 20 => if bits w 16 5 = 0 then .ok (.cvtF64S64 (fld w 14 2) (fld w 7 7) (fld w 0 7)) else .error .illegalOperand
  | 21 => if bits w 16 5 = 0 then .ok (.cvtS64F64 (fld w 14 2) (fld w 7 7) (fld w 0 7)) else .error .illegalOperand
  | 22 => if bits w 16 5 = 0 then .ok (.cvtF32S64 (fld w 14 2) (fld w 7 7) (fld w 0 7)) else .error .illegalOperand
  | 23 => if bits w 14 7 = 0 then .ok (.cvtE8m0F32 (fld w 7 7) (fld w 0 7)) else .error .illegalOperand
  | 24 => if bits w 17 1 = 0 ∧ bits w 19 2 = 0 then .ok (.cvtF32E8m0 (fld w 18 1) (fld w 16 1) (fld w 14 2) (fld w 7 7) (fld w 0 7)) else .error .illegalOperand
  | 25 => if bits w 14 7 = 0 then .ok (.cvtS32S8 (fld w 7 7) (fld w 0 7)) else .error .illegalOperand
  | _ => .error .illegalOpcode

/-- Major 0x15: the function field FN chooses the row (R61 to R68). -/
noncomputable def decodeHalu (w : W32) : Except Reject Instr :=
  match bits w 21 5 with
  | 0 | 8 => .ok (.hadd2 (fld w 24 1) (fld w 14 7) (fld w 7 7) (fld w 0 7))
  | 1 | 9 => .ok (.hsub2 (fld w 24 1) (fld w 14 7) (fld w 7 7) (fld w 0 7))
  | 2 | 10 => .ok (.hmul2 (fld w 24 1) (fld w 14 7) (fld w 7 7) (fld w 0 7))
  | 3 | 11 => .ok (.hmin2 (fld w 24 1) (fld w 14 7) (fld w 7 7) (fld w 0 7))
  | 4 | 12 => .ok (.hmax2 (fld w 24 1) (fld w 14 7) (fld w 7 7) (fld w 0 7))
  | _ => .error .illegalOpcode

/-- Major 0x16: the function field FN chooses the row (R61 to R68). -/
noncomputable def decodeDalu (w : W32) : Except Reject Instr :=
  match bits w 21 5 with
  | 0 => .ok (.dadd (fld w 14 7) (fld w 7 7) (fld w 0 7))
  | 1 => .ok (.dsub (fld w 14 7) (fld w 7 7) (fld w 0 7))
  | 2 => .ok (.dmul (fld w 14 7) (fld w 7 7) (fld w 0 7))
  | 3 => .ok (.dmin (fld w 14 7) (fld w 7 7) (fld w 0 7))
  | 4 => .ok (.dmax (fld w 14 7) (fld w 7 7) (fld w 0 7))
  | 5 => .ok (.ddiv (fld w 14 7) (fld w 7 7) (fld w 0 7))
  | _ => .error .illegalOpcode

/-- Major 0x18: the function field FN chooses the row (R61 to R68). -/
noncomputable def decodeWave (w : W32) : Except Reject Instr :=
  match bits w 21 5 with
  | 0 => if bits w 14 7 = 125 then .ok (.wredAddF32 (fld w 7 7) (fld w 0 7)) else .error .illegalOperand
  | 1 => if bits w 14 7 = 125 then .ok (.wredAddS32 (fld w 7 7) (fld w 0 7)) else .error .illegalOperand
  | 2 => if bits w 14 7 = 125 then .ok (.wredMinF32 (fld w 7 7) (fld w 0 7)) else .error .illegalOperand
  | 3 => if bits w 14 7 = 125 then .ok (.wredMaxF32 (fld w 7 7) (fld w 0 7)) else .error .illegalOperand
  | 4 => if bits w 14 7 = 125 then .ok (.wredMinS32 (fld w 7 7) (fld w 0 7)) else .error .illegalOperand
  | 5 => if bits w 14 7 = 125 then .ok (.wredMaxS32 (fld w 7 7) (fld w 0 7)) else .error .illegalOperand
  | 6 => if bits w 14 7 = 125 then .ok (.wredAnd (fld w 7 7) (fld w 0 7)) else .error .illegalOperand
  | 7 => if bits w 14 7 = 125 then .ok (.wredOr (fld w 7 7) (fld w 0 7)) else .error .illegalOperand
  | 8 => if bits w 14 7 = 125 then .ok (.wscanAddF32 (fld w 7 7) (fld w 0 7)) else .error .illegalOperand
  | 9 => if bits w 14 7 = 125 then .ok (.wscanAddS32 (fld w 7 7) (fld w 0 7)) else .error .illegalOperand
  | 10 => .ok (.shflIdx (fld w 14 7) (fld w 7 7) (fld w 0 7))
  | 11 => .ok (.shflUp (fld w 14 7) (fld w 7 7) (fld w 0 7))
  | 12 => .ok (.shflDown (fld w 14 7) (fld w 7 7) (fld w 0 7))
  | 13 => .ok (.shflXor (fld w 14 7) (fld w 7 7) (fld w 0 7))
  | 14 => if bits w 14 7 = 125 then .ok (.wvoteAny (fld w 7 7) (fld w 0 7)) else .error .illegalOperand
  | 15 => if bits w 14 7 = 125 then .ok (.wvoteAll (fld w 7 7) (fld w 0 7)) else .error .illegalOperand
  | 16 => if bits w 14 7 = 125 then .ok (.wballot (fld w 7 7) (fld w 0 7)) else .error .illegalOperand
  | 17 => .ok (.wbcast (fld w 14 7) (fld w 7 7) (fld w 0 7))
  | 18 => .ok (.wgetl (fld w 14 7) (fld w 7 7) (fld w 0 7))
  | 19 => .ok (.wsetl (fld w 14 7) (fld w 7 7) (fld w 0 7))
  | _ => .error .illegalOpcode

/-- Major 0x19: the function field FN chooses the row (R61 to R68). -/
noncomputable def decodeMask (w : W32) : Except Reject Instr :=
  match bits w 21 5 with
  | 0 => .ok (.mand (fld w 14 7) (fld w 7 7) (fld w 0 7))
  | 1 => .ok (.mor (fld w 14 7) (fld w 7 7) (fld w 0 7))
  | 2 => .ok (.mxor (fld w 14 7) (fld w 7 7) (fld w 0 7))
  | 3 => .ok (.mandn (fld w 14 7) (fld w 7 7) (fld w 0 7))
  | 4 => if bits w 14 7 = 125 then .ok (.mnot (fld w 7 7) (fld w 0 7)) else .error .illegalOperand
  | 5 => if bits w 14 7 = 125 then .ok (.mmov (fld w 7 7) (fld w 0 7)) else .error .illegalOperand
  | 6 => if bits w 14 7 = 125 then .ok (.mpopc (fld w 7 7) (fld w 0 7)) else .error .illegalOperand
  | 7 => if bits w 14 7 = 125 then .ok (.mffs (fld w 7 7) (fld w 0 7)) else .error .illegalOperand
  | 8 => if bits w 7 14 = 16125 then .ok (.msave (fld w 0 7)) else .error .illegalOperand
  | 9 => if bits w 0 7 = 125 ∧ bits w 14 7 = 125 then .ok (.mrest (fld w 7 7)) else .error .illegalOperand
  | 10 => if bits w 7 14 = 16125 then .ok (.mset (fld w 0 7)) else .error .illegalOperand
  | 11 => if bits w 7 14 = 16125 then .ok (.mclr (fld w 0 7)) else .error .illegalOperand
  | 12 => if bits w 14 7 = 125 then .ok (.mtos (fld w 7 7) (fld w 0 7)) else .error .illegalOperand
  | 13 => if bits w 14 7 = 125 then .ok (.mfrs (fld w 7 7) (fld w 0 7)) else .error .illegalOperand
  | _ => .error .illegalOpcode

/-- Major 0x1A: the function field FN chooses the row (R61 to R68). -/
noncomputable def decodeStream (w : W32) : Except Reject Instr :=
  match bits w 21 5 with
  | 0 => if bits w 2 5 = 30 ∧ bits w 14 7 = 125 then .ok (.sbind (fld w 7 7) (fld w 0 2)) else .error .illegalOperand
  | 1 => if bits w 2 5 = 30 ∧ bits w 14 7 = 125 then .ok (.sskip (fld w 7 7) (fld w 0 2)) else .error .illegalOperand
  | 2 => if bits w 9 12 = 4030 then .ok (.sflag (fld w 7 2) (fld w 0 7)) else .error .illegalOperand
  | 3 => if bits w 2 19 = 516030 then .ok (.sunb (fld w 0 2)) else .error .illegalOperand
  | 4 => if bits w 9 12 = 4030 then .ok (.spos (fld w 7 2) (fld w 0 7)) else .error .illegalOperand
  | _ => .error .illegalOpcode

/-- Major 0x1F: the function field CND chooses the row (R61 to R68). -/
noncomputable def decodeBrd (w : W32) : Except Reject Instr :=
  match bits w 23 3 with
  | 0 => .ok (.brdT (fld w 16 7) (fld w 0 16))
  | 1 => .ok (.brdF (fld w 16 7) (fld w 0 16))
  | 2 => .ok (.bany (fld w 16 7) (fld w 0 16))
  | 3 => .ok (.ball (fld w 16 7) (fld w 0 16))
  | 4 => .ok (.bnone (fld w 16 7) (fld w 0 16))
  | _ => .error .illegalOpcode

/-- Major 0x20: the function field CND chooses the row (R61 to R68). -/
noncomputable def decodeBeod (w : W32) : Except Reject Instr :=
  match bits w 25 1 with
  | 0 => if bits w 18 5 = 30 then .ok (.beodSet (fld w 23 2) (fld w 16 2) (fld w 0 16)) else .error .illegalOperand
  | 1 => if bits w 18 5 = 30 then .ok (.beodClr (fld w 23 2) (fld w 16 2) (fld w 0 16)) else .error .illegalOperand
  | _ => .error .illegalOpcode

/-- Major 0x21: the function field FN chooses the row (R61 to R68). -/
noncomputable def decodeJmpr (w : W32) : Except Reject Instr :=
  match bits w 21 5 with
  | 0 => if bits w 0 7 = 125 ∧ bits w 14 7 = 125 then .ok (.jmp (fld w 7 7)) else .error .illegalOperand
  | 1 => if bits w 0 7 = 125 ∧ bits w 14 7 = 125 then .ok (.callr (fld w 7 7)) else .error .illegalOperand
  | 2 => if bits w 0 21 = 2064125 then .ok (.ret) else .error .illegalOperand
  | _ => .error .illegalOpcode

/-- Major 0x30: the function field FN chooses the row (R61 to R68). -/
noncomputable def decodeLdo (w : W32) : Except Reject Instr :=
  match bits w 21 5 with
  | 0 => .ok (.ldo (fld w 18 3) (fld w 16 2) (fld w 14 2) (fld w 7 7) (fld w 0 7))
  | _ => .error .illegalOpcode

/-- Major 0x31: the function field FN chooses the row (R61 to R68). -/
noncomputable def decodeSto (w : W32) : Except Reject Instr :=
  match bits w 21 5 with
  | 0 => .ok (.sto (fld w 18 3) (fld w 16 2) (fld w 14 2) (fld w 7 7) (fld w 0 7))
  | _ => .error .illegalOpcode

/-- Major 0x32: the function field FN chooses the row (R61 to R68). -/
noncomputable def decodeAtom (w : W32) : Except Reject Instr :=
  match bits w 21 5 with
  | 0 => if bits w 14 2 = 0 then .ok (.atomAdd (fld w 26 1) (fld w 18 3) (fld w 16 2) (fld w 7 7) (fld w 0 7)) else .error .illegalOperand
  | 1 => if bits w 14 2 = 0 then .ok (.atomMins (fld w 26 1) (fld w 18 3) (fld w 16 2) (fld w 7 7) (fld w 0 7)) else .error .illegalOperand
  | 2 => if bits w 14 2 = 0 then .ok (.atomMinn (fld w 26 1) (fld w 18 3) (fld w 16 2) (fld w 7 7) (fld w 0 7)) else .error .illegalOperand
  | 3 => if bits w 14 2 = 0 then .ok (.atomMaxs (fld w 26 1) (fld w 18 3) (fld w 16 2) (fld w 7 7) (fld w 0 7)) else .error .illegalOperand
  | 4 => if bits w 14 2 = 0 then .ok (.atomMaxn (fld w 26 1) (fld w 18 3) (fld w 16 2) (fld w 7 7) (fld w 0 7)) else .error .illegalOperand
  | 5 => if bits w 14 2 = 0 then .ok (.atomAnd (fld w 26 1) (fld w 18 3) (fld w 16 2) (fld w 7 7) (fld w 0 7)) else .error .illegalOperand
  | 6 => if bits w 14 2 = 0 then .ok (.atomOr (fld w 26 1) (fld w 18 3) (fld w 16 2) (fld w 7 7) (fld w 0 7)) else .error .illegalOperand
  | 7 => if bits w 14 2 = 0 then .ok (.atomXor (fld w 26 1) (fld w 18 3) (fld w 16 2) (fld w 7 7) (fld w 0 7)) else .error .illegalOperand
  | 8 => if bits w 14 2 = 0 then .ok (.atomExch (fld w 26 1) (fld w 18 3) (fld w 16 2) (fld w 7 7) (fld w 0 7)) else .error .illegalOperand
  | 9 => if bits w 14 2 = 0 then .ok (.atomCas (fld w 26 1) (fld w 18 3) (fld w 16 2) (fld w 7 7) (fld w 0 7)) else .error .illegalOperand
  | 10 => if bits w 14 2 = 0 then .ok (.atomFadd (fld w 26 1) (fld w 18 3) (fld w 16 2) (fld w 7 7) (fld w 0 7)) else .error .illegalOperand
  | 11 => if bits w 14 2 = 0 then .ok (.atomFmin (fld w 26 1) (fld w 18 3) (fld w 16 2) (fld w 7 7) (fld w 0 7)) else .error .illegalOperand
  | 12 => if bits w 14 2 = 0 then .ok (.atomFmax (fld w 26 1) (fld w 18 3) (fld w 16 2) (fld w 7 7) (fld w 0 7)) else .error .illegalOperand
  | _ => .error .illegalOpcode

/-- Major 0x34: the function field FN chooses the row (R61 to R68). -/
noncomputable def decodeRed (w : W32) : Except Reject Instr :=
  match bits w 21 5 with
  | 0 => if bits w 14 2 = 0 then .ok (.redAdd (fld w 26 1) (fld w 18 3) (fld w 16 2) (fld w 7 7) (fld w 0 7)) else .error .illegalOperand
  | 1 => if bits w 14 2 = 0 then .ok (.redMins (fld w 26 1) (fld w 18 3) (fld w 16 2) (fld w 7 7) (fld w 0 7)) else .error .illegalOperand
  | 2 => if bits w 14 2 = 0 then .ok (.redMinn (fld w 26 1) (fld w 18 3) (fld w 16 2) (fld w 7 7) (fld w 0 7)) else .error .illegalOperand
  | 3 => if bits w 14 2 = 0 then .ok (.redMaxs (fld w 26 1) (fld w 18 3) (fld w 16 2) (fld w 7 7) (fld w 0 7)) else .error .illegalOperand
  | 4 => if bits w 14 2 = 0 then .ok (.redMaxn (fld w 26 1) (fld w 18 3) (fld w 16 2) (fld w 7 7) (fld w 0 7)) else .error .illegalOperand
  | 5 => if bits w 14 2 = 0 then .ok (.redAnd (fld w 26 1) (fld w 18 3) (fld w 16 2) (fld w 7 7) (fld w 0 7)) else .error .illegalOperand
  | 6 => if bits w 14 2 = 0 then .ok (.redOr (fld w 26 1) (fld w 18 3) (fld w 16 2) (fld w 7 7) (fld w 0 7)) else .error .illegalOperand
  | 7 => if bits w 14 2 = 0 then .ok (.redXor (fld w 26 1) (fld w 18 3) (fld w 16 2) (fld w 7 7) (fld w 0 7)) else .error .illegalOperand
  | 8 => if bits w 14 2 = 0 then .ok (.redFadd (fld w 26 1) (fld w 18 3) (fld w 16 2) (fld w 7 7) (fld w 0 7)) else .error .illegalOperand
  | 9 => if bits w 14 2 = 0 then .ok (.redFmin (fld w 26 1) (fld w 18 3) (fld w 16 2) (fld w 7 7) (fld w 0 7)) else .error .illegalOperand
  | 10 => if bits w 14 2 = 0 then .ok (.redFmax (fld w 26 1) (fld w 18 3) (fld w 16 2) (fld w 7 7) (fld w 0 7)) else .error .illegalOperand
  | _ => .error .illegalOpcode

/-- Major 0x36: the function field FN chooses the row (R61 to R68). -/
noncomputable def decodeFence (w : W32) : Except Reject Instr :=
  match bits w 21 5 with
  | 0 => if bits w 0 16 = 16125 then .ok (.fence (fld w 18 3) (fld w 16 2)) else .error .illegalOperand
  | _ => .error .illegalOpcode

/-- Major 0x37: the function field FN chooses the row (R61 to R68). -/
noncomputable def decodeCache (w : W32) : Except Reject Instr :=
  match bits w 21 5 with
  | 0 => if bits w 0 7 = 125 ∧ bits w 14 7 = 125 then .ok (.pref (fld w 7 7)) else .error .illegalOperand
  | 1 => if bits w 0 7 = 125 ∧ bits w 14 7 = 125 then .ok (.wbk (fld w 7 7)) else .error .illegalOperand
  | 2 => if bits w 0 7 = 125 ∧ bits w 14 7 = 125 then .ok (.invl (fld w 7 7)) else .error .illegalOperand
  | 3 => if bits w 0 7 = 125 then .ok (.spempty (fld w 14 7) (fld w 7 7)) else .error .illegalOperand
  | 4 => if bits w 0 7 = 125 then .ok (.spfull (fld w 14 7) (fld w 7 7)) else .error .illegalOperand
  | 5 => if bits w 14 7 = 125 then .ok (.spqry (fld w 7 7) (fld w 0 7)) else .error .illegalOperand
  | _ => .error .illegalOpcode

/-- Major 0x38: the function field FN chooses the row (R61 to R68). -/
noncomputable def decodeBar (w : W32) : Except Reject Instr :=
  match bits w 21 5 with
  | 0 => if bits w 0 7 = 125 then .ok (.binit (fld w 14 7) (fld w 7 7)) else .error .illegalOperand
  | 1 => if bits w 14 7 = 125 then .ok (.barv (fld w 7 7) (fld w 0 7)) else .error .illegalOperand
  | 2 => if bits w 0 7 = 125 then .ok (.bexp (fld w 14 7) (fld w 7 7)) else .error .illegalOperand
  | 3 => .ok (.bwait (fld w 14 7) (fld w 7 7) (fld w 0 7))
  | 4 => .ok (.btry (fld w 14 7) (fld w 7 7) (fld w 0 7))
  | 5 => if bits w 14 7 = 125 then .ok (.bqry (fld w 7 7) (fld w 0 7)) else .error .illegalOperand
  | 6 => if bits w 14 7 = 125 then .ok (.barx (fld w 7 7) (fld w 0 7)) else .error .illegalOperand
  | 7 => if bits w 0 7 = 125 ∧ bits w 14 7 = 125 then .ok (.bclr (fld w 7 7)) else .error .illegalOperand
  | _ => .error .illegalOpcode

/-- Major 0x39: the function field FN chooses the row (R61 to R68). -/
noncomputable def decodeXfer (w : W32) : Except Reject Instr :=
  match bits w 21 5 with
  | 0 => if bits w 14 7 = 125 then .ok (.xstW (fld w 7 7) (fld w 0 7)) else .error .illegalOperand
  | 1 => if bits w 14 7 = 125 then .ok (.xstD (fld w 7 7) (fld w 0 7)) else .error .illegalOperand
  | _ => .error .illegalOpcode

/-- Major 0x3A: the function field FN chooses the row (R61 to R68). -/
noncomputable def decodeCopy (w : W32) : Except Reject Instr :=
  match bits w 21 5 with
  | 0 => .ok (.cpyin (fld w 14 7) (fld w 7 7) (fld w 0 7))
  | 1 => .ok (.cpyout (fld w 14 7) (fld w 7 7) (fld w 0 7))
  | 2 => .ok (.cpyss (fld w 14 7) (fld w 7 7) (fld w 0 7))
  | 3 => .ok (.ppush (fld w 14 7) (fld w 7 7) (fld w 0 7))
  | 4 => .ok (.ppull (fld w 14 7) (fld w 7 7) (fld w 0 7))
  | 5 => .ok (.coll (fld w 14 7) (fld w 7 7) (fld w 0 7))
  | 6 => .ok (.cpyg (fld w 14 7) (fld w 7 7) (fld w 0 7))
  | 7 => if bits w 14 7 = 125 then .ok (.cpqry (fld w 7 7) (fld w 0 7)) else .error .illegalOperand
  | _ => .error .illegalOpcode

/-- Major 0x3B: the function field FN chooses the row (R61 to R68). -/
noncomputable def decodeMtx (w : W32) : Except Reject Instr :=
  match bits w 21 5 with
  | 0 => if bits w 0 7 = 125 ∧ bits w 14 7 = 125 then .ok (.gang (fld w 7 7)) else .error .illegalOperand
  | 1 => if bits w 0 21 = 2064125 then .ok (.vacq) else .error .illegalOperand
  | 2 => if bits w 0 21 = 2064125 then .ok (.vrel) else .error .illegalOperand
  | 3 => if bits w 0 7 = 125 ∧ bits w 14 7 = 125 then .ok (.wload (fld w 7 7)) else .error .illegalOperand
  | 4 => if bits w 0 21 = 2064125 then .ok (.wswap) else .error .illegalOperand
  | 5 => .ok (.mma (fld w 14 7) (fld w 7 7) (fld w 0 7))
  | 6 => .ok (.mmac (fld w 14 7) (fld w 7 7) (fld w 0 7))
  | 7 => if bits w 7 14 = 16125 then .ok (.mzero (fld w 0 7)) else .error .illegalOperand
  | 8 => if bits w 14 7 = 125 then .ok (.mdrain (fld w 7 7) (fld w 0 7)) else .error .illegalOperand
  | 9 => if bits w 14 7 = 125 then .ok (.mqry (fld w 7 7) (fld w 0 7)) else .error .illegalOperand
  | _ => .error .illegalOpcode

/-- Major 0x3C: the function field FN chooses the row (R61 to R68). -/
noncomputable def decodePipe (w : W32) : Except Reject Instr :=
  match bits w 21 5 with
  | 0 => if bits w 14 7 = 125 then .ok (.prsv (fld w 7 7) (fld w 0 7)) else .error .illegalOperand
  | 1 => if bits w 0 7 = 125 then .ok (.pcmt (fld w 14 7) (fld w 7 7)) else .error .illegalOperand
  | 2 => if bits w 14 7 = 125 then .ok (.crsv (fld w 7 7) (fld w 0 7)) else .error .illegalOperand
  | 3 => if bits w 0 7 = 125 then .ok (.crel (fld w 14 7) (fld w 7 7)) else .error .illegalOperand
  | 4 => if bits w 0 7 = 125 ∧ bits w 14 7 = 125 then .ok (.pseal (fld w 7 7)) else .error .illegalOperand
  | 5 => .ok (.pqry (fld w 14 7) (fld w 7 7) (fld w 0 7))
  | _ => .error .illegalOpcode

/-- Major 0x3D: the function field FN chooses the row (R61 to R68). -/
noncomputable def decodeAttn (w : W32) : Except Reject Instr :=
  match bits w 21 5 with
  | 0 => .ok (.lsub (fld w 14 7) (fld w 7 7) (fld w 0 7))
  | 1 => .ok (.lseal (fld w 14 7) (fld w 7 7) (fld w 0 7))
  | 2 => .ok (.lpass (fld w 14 7) (fld w 7 7) (fld w 0 7))
  | 3 => if bits w 0 7 = 125 then .ok (.hmrg (fld w 14 7) (fld w 7 7)) else .error .illegalOperand
  | 4 => .ok (.hget (fld w 14 7) (fld w 7 7) (fld w 0 7))
  | 5 => if bits w 0 7 = 125 then .ok (.hrel (fld w 14 7) (fld w 7 7)) else .error .illegalOperand
  | 6 => .ok (.lqry (fld w 14 7) (fld w 7 7) (fld w 0 7))
  | _ => .error .illegalOpcode

/-- Major 0x3E: the function field FN chooses the row (R61 to R68). -/
noncomputable def decodeInvk (w : W32) : Except Reject Instr :=
  match bits w 21 5 with
  | 0 => .ok (.rinv (fld w 14 7) (fld w 7 7) (fld w 0 7))
  | 1 => .ok (.rinvh (fld w 14 7) (fld w 7 7) (fld w 0 7))
  | 2 => if bits w 14 7 = 125 then .ok (.hres (fld w 7 7) (fld w 0 7)) else .error .illegalOperand
  | 3 => if bits w 0 7 = 125 ∧ bits w 14 7 = 125 then .ok (.hdrop (fld w 7 7)) else .error .illegalOperand
  | 4 => if bits w 0 7 = 125 then .ok (.rret (fld w 14 7) (fld w 7 7)) else .error .illegalOperand
  | 5 => if bits w 14 7 = 125 then .ok (.tspawn (fld w 7 7) (fld w 0 7)) else .error .illegalOperand
  | 6 => .ok (.jcan (fld w 14 7) (fld w 7 7) (fld w 0 7))
  | 7 => if bits w 0 7 = 125 then .ok (.sigdec (fld w 14 7) (fld w 7 7)) else .error .illegalOperand
  | 8 => .ok (.sigwait (fld w 14 7) (fld w 7 7) (fld w 0 7))
  | 9 => if bits w 0 7 = 125 then .ok (.sigadd (fld w 14 7) (fld w 7 7)) else .error .illegalOperand
  | 10 => .ok (.plnch (fld w 14 7) (fld w 7 7) (fld w 0 7))
  | _ => .error .illegalOpcode

/-- What a word is (R60, R69 without the checks that need the wave's state). -/
noncomputable def decode (w : W32) : Except Reject Instr :=
  match bits w 26 6 with
  | 0 => decodeMisc w
  | 1 => if bits w 0 14 = 16125 ∧ bits w 22 4 = 0 then .ok (.trap (fld w 14 8)) else .error .illegalOperand
  | 2 => if bits w 0 14 = 16125 then .ok (.safept (fld w 14 12)) else .error .illegalOperand
  | 3 => .ok (.limm (fld w 0 26))
  | 4 => decodeIalu w
  | 5 => decodeIalu w
  | 6 => decodeIcmp w
  | 7 => .ok (.bfxi (fld w 20 6) (fld w 14 6) (fld w 7 7) (fld w 0 7))
  | 8 => .ok (.bfii (fld w 20 6) (fld w 14 6) (fld w 7 7) (fld w 0 7))
  | 9 => .ok (.iaddi (fld w 14 12) (fld w 7 7) (fld w 0 7))
  | 10 => .ok (.andi (fld w 14 12) (fld w 7 7) (fld w 0 7))
  | 11 => .ok (.ori (fld w 14 12) (fld w 7 7) (fld w 0 7))
  | 12 => .ok (.xori (fld w 14 12) (fld w 7 7) (fld w 0 7))
  | 13 => decodeShfi w
  | 14 => .ok (.movi (fld w 14 12) (fld w 7 7) (fld w 0 7))
  | 15 => .ok (.icmpi (fld w 14 12) (fld w 7 7) (fld w 3 4) (fld w 0 3))
  | 16 => decodeFalu w
  | 17 => decodeFfma w
  | 18 => decodeFcmp w
  | 19 => decodeFsfu w
  | 20 => decodeCvt w
  | 21 => decodeHalu w
  | 22 => decodeDalu w
  | 24 => decodeWave w
  | 25 => decodeMask w
  | 26 => decodeStream w
  | 27 => if bits w 0 14 = 16125 then .ok (.waitc (fld w 23 3) (fld w 20 3) (fld w 17 3) (fld w 14 3)) else .error .illegalOperand
  | 28 => .ok (.bra (fld w 0 26))
  | 29 => .ok (.call (fld w 0 26))
  | 30 => if bits w 23 3 < 6 then .ok (.brc (fld w 23 3) (fld w 16 7) (fld w 0 16)) else .error .illegalOpcode
  | 31 => decodeBrd w
  | 32 => decodeBeod w
  | 33 => decodeJmpr w
  | 36 => .ok (.ldb (fld w 14 12) (fld w 7 7) (fld w 0 7))
  | 37 => .ok (.ldbs (fld w 14 12) (fld w 7 7) (fld w 0 7))
  | 38 => .ok (.ldh (fld w 14 12) (fld w 7 7) (fld w 0 7))
  | 39 => .ok (.ldhs (fld w 14 12) (fld w 7 7) (fld w 0 7))
  | 40 => .ok (.ldw (fld w 14 12) (fld w 7 7) (fld w 0 7))
  | 41 => .ok (.ldd (fld w 14 12) (fld w 7 7) (fld w 0 7))
  | 42 => .ok (.ldq (fld w 14 12) (fld w 7 7) (fld w 0 7))
  | 43 => .ok (.stb (fld w 14 12) (fld w 7 7) (fld w 0 7))
  | 44 => .ok (.sth (fld w 14 12) (fld w 7 7) (fld w 0 7))
  | 45 => .ok (.stw (fld w 14 12) (fld w 7 7) (fld w 0 7))
  | 46 => .ok (.std (fld w 14 12) (fld w 7 7) (fld w 0 7))
  | 47 => .ok (.stq (fld w 14 12) (fld w 7 7) (fld w 0 7))
  | 48 => decodeLdo w
  | 49 => decodeSto w
  | 50 => decodeAtom w
  | 51 => decodeAtom w
  | 52 => decodeRed w
  | 53 => decodeRed w
  | 54 => decodeFence w
  | 55 => decodeCache w
  | 56 => decodeBar w
  | 57 => decodeXfer w
  | 58 => decodeCopy w
  | 59 => decodeMtx w
  | 60 => decodePipe w
  | 61 => decodeAttn w
  | 62 => decodeInvk w
  | _ => .error .illegalOpcode

/-- Whether a word takes ILLEGAL_OPCODE: its major is unnamed, it is ZTRAP, or its FN or CND is unassigned (R69). -/
noncomputable def opcodeIllegal (w : W32) : Bool :=
  match decode w with
  | .error .illegalOpcode => true
  | .ok (.ztrap _) => true
  | _ => false

/-- The number an instruction's word holds, from the same tables; an event has no word. -/
def encodeNat : Instr → Option Nat
  | .emptyLineTimeout _ _ => none
  | .rendezvousTimeout _ _ => none
  | .wswapEffect _ => none
  | .vatComplete _ _ => none
  | .vatFault _ _ => none
  | .launchLoad _ _ _ _ => none
  | .wgAdmit _ => none
  | .wavePromote _ _ => none
  | .partWake _ _ _ => none
  | .trywaitExpire _ _ _ => none
  | .preemptRequest _ => none
  | .preemptSave _ => none
  | .preemptForce _ => none
  | .resume _ => none
  | .accessComplete _ _ _ _ => none
  | .xstLand _ _ => none
  | .copyLand _ _ => none
  | .copyVisible _ _ => none
  | .copyAbort _ _ _ _ => none
  | .collStart _ _ => none
  | .collChunkArrive _ _ _ => none
  | .collEnd _ _ => none
  | .peerUnreachable _ => none
  | .planStart => none
  | .planDrain _ _ _ _ _ => none
  | .reserveServed _ _ => none
  | .commitArrive _ _ _ => none
  | .releaseArrive _ _ _ => none
  | .sealArrive _ _ _ => none
  | .occupancySample _ => none
  | .balance _ => none
  | .coreMoveLoad _ => none
  | .deadlockSnapshot _ _ _ _ _ => none
  | .energyWindow => none
  | .energyUpdate _ => none
  | .clockStretch => none
  | .passBegin _ _ _ => none
  | .batchAssign _ _ _ _ => none
  | .partialArrive _ => none
  | .hoopWaitExpire _ => none
  | .taskEnqueue _ => none
  | .taskStart _ => none
  | .invocationArrive _ => none
  | .handleSettle _ _ => none
  | .queueReport _ _ _ => none
  | .cancelArrive _ _ _ _ => none
  | .jcanComplete _ => none
  | .migrate _ _ => none
  | .nakReport _ _ _ => none
  | .pagerAnswer _ _ => none
  | .memoryIssueResume _ _ => none
  | .rd _ _ _ _ _ => none
  | .wr _ _ _ _ _ => none
  | .rdr _ _ _ _ _ => none
  | .wra _ _ _ _ _ => none
  | .nak _ _ _ _ _ _ => none
  | .portSend _ _ _ _ => none
  | .sliceWrite _ _ _ _ => none
  | .lineFill _ _ => none
  | .writeBack _ _ => none
  | .podRequest _ _ _ => none
  | .collapse _ => none
  | .replicaInvalidate _ _ => none
  | .collapseDone _ => none
  | .replicaMake _ _ _ => none
  | .pageOwnerChange _ _ => none
  | .errorEvent _ _ _ _ _ _ => none
  | .activationAlert _ _ _ => none
  | .ptpExchange => none
  | .ptpReply _ _ => none
  | .ptpTimeout => none
  | .laneFail _ _ => none
  | .flitReplay _ => none
  | .linkDown => none
  | .deviceReset _ => none
  | .recoveryImage _ => none
  | .svnRaise _ => none
  | .attestationRequest _ _ => none
  | .launchRequest _ _ _ _ => none
  | .launchWaitSatisfied _ _ => none
  | .watchArm _ _ _ _ _ => none
  | .watchFire _ _ => none
  | .ownershipClaim _ _ _ => none
  | .electionDecide => none
  | .heartbeat _ => none
  | .ownerLapse => none
  | .handover _ _ _ => none
  | .accept _ _ _ => none
  | .handoverLapse => none
  | .powerLimitWrite _ _ => none
  | .carveWrite _ _ _ => none
  | .ctxActivate _ _ => none
  | .ctxTeardown _ _ => none
  | .teardownFree _ => none
  | .mapWindowWrite _ _ _ _ _ _ => none
  | .cbCoresWrite _ _ _ => none
  | .swapReq _ _ => none
  | .swapDone => none
  | .snapReq _ => none
  | .trBaseWrite _ _ _ => none
  | .trCtlWrite _ _ _ => none
  | .trRdWrite _ _ => none
  | .trDroppedWrite _ _ => none
  | .deviceNumberWrite _ _ => none
  | .registerWrite _ _ _ => none
  | .drainLineLand _ _ => none
  | .yieldExpire _ _ => none
  | .linkRetrain => none
  | .stretchEnd => none
  | .refresh _ _ _ _ => none
  | .ztrap x0 => some (0x00000000 + x0.toNat * 1)
  | .nop => some (0x003F7EFD)
  | .exit => some (0x005F7EFD)
  | .wsync => some (0x007F7EFD)
  | .srd x0 x1 => some (0x009F4000 + x0.toNat * 0x80 + x1.toNat * 1)
  | .swr x0 x1 => some (0x00BF4000 + x0.toNat * 0x80 + x1.toNat * 1)
  | .rft => some (0x00DF7EFD)
  | .clkrd x0 => some (0x00FF7E80 + x0.toNat * 1)
  | .tmark x0 => some (0x011F407D + x0.toNat * 0x80)
  | .erd x0 x1 => some (0x013F4000 + x0.toNat * 0x80 + x1.toNat * 1)
  | .winb x0 => some (0x015F407D + x0.toNat * 0x80)
  | .yield => some (0x017F7EFD)
  | .bkpt => some (0x019F7EFD)
  | .trap x0 => some (0x04003EFD + x0.toNat * 0x4000)
  | .safept x0 => some (0x08003EFD + x0.toNat * 0x4000)
  | .limm x0 => some (0x0C000000 + x0.toNat * 1)
  | .iadd x0 x1 x2 x3 => some (0x10000000 + x0.toNat * 0x4000000 + x1.toNat * 0x4000 + x2.toNat * 0x80 + x3.toNat * 1)
  | .isub x0 x1 x2 x3 => some (0x10200000 + x0.toNat * 0x4000000 + x1.toNat * 0x4000 + x2.toNat * 0x80 + x3.toNat * 1)
  | .imul x0 x1 x2 x3 => some (0x10400000 + x0.toNat * 0x4000000 + x1.toNat * 0x4000 + x2.toNat * 0x80 + x3.toNat * 1)
  | .imulhs x0 x1 x2 x3 => some (0x10600000 + x0.toNat * 0x4000000 + x1.toNat * 0x4000 + x2.toNat * 0x80 + x3.toNat * 1)
  | .imulhn x0 x1 x2 x3 => some (0x10800000 + x0.toNat * 0x4000000 + x1.toNat * 0x4000 + x2.toNat * 0x80 + x3.toNat * 1)
  | .imad x0 x1 x2 x3 => some (0x10A00000 + x0.toNat * 0x4000000 + x1.toNat * 0x4000 + x2.toNat * 0x80 + x3.toNat * 1)
  | .imins x0 x1 x2 x3 => some (0x10C00000 + x0.toNat * 0x4000000 + x1.toNat * 0x4000 + x2.toNat * 0x80 + x3.toNat * 1)
  | .iminn x0 x1 x2 x3 => some (0x10E00000 + x0.toNat * 0x4000000 + x1.toNat * 0x4000 + x2.toNat * 0x80 + x3.toNat * 1)
  | .imaxs x0 x1 x2 x3 => some (0x11000000 + x0.toNat * 0x4000000 + x1.toNat * 0x4000 + x2.toNat * 0x80 + x3.toNat * 1)
  | .imaxn x0 x1 x2 x3 => some (0x11200000 + x0.toNat * 0x4000000 + x1.toNat * 0x4000 + x2.toNat * 0x80 + x3.toNat * 1)
  | .iabs x0 x1 x2 => some (0x115F4000 + x0.toNat * 0x4000000 + x1.toNat * 0x80 + x2.toNat * 1)
  | .ineg x0 x1 x2 => some (0x117F4000 + x0.toNat * 0x4000000 + x1.toNat * 0x80 + x2.toNat * 1)
  | .and x0 x1 x2 x3 => some (0x11800000 + x0.toNat * 0x4000000 + x1.toNat * 0x4000 + x2.toNat * 0x80 + x3.toNat * 1)
  | .or x0 x1 x2 x3 => some (0x11A00000 + x0.toNat * 0x4000000 + x1.toNat * 0x4000 + x2.toNat * 0x80 + x3.toNat * 1)
  | .xor x0 x1 x2 x3 => some (0x11C00000 + x0.toNat * 0x4000000 + x1.toNat * 0x4000 + x2.toNat * 0x80 + x3.toNat * 1)
  | .andn x0 x1 x2 x3 => some (0x11E00000 + x0.toNat * 0x4000000 + x1.toNat * 0x4000 + x2.toNat * 0x80 + x3.toNat * 1)
  | .shl x0 x1 x2 x3 => some (0x12000000 + x0.toNat * 0x4000000 + x1.toNat * 0x4000 + x2.toNat * 0x80 + x3.toNat * 1)
  | .shr x0 x1 x2 x3 => some (0x12200000 + x0.toNat * 0x4000000 + x1.toNat * 0x4000 + x2.toNat * 0x80 + x3.toNat * 1)
  | .sra x0 x1 x2 x3 => some (0x12400000 + x0.toNat * 0x4000000 + x1.toNat * 0x4000 + x2.toNat * 0x80 + x3.toNat * 1)
  | .rotl x0 x1 x2 x3 => some (0x12600000 + x0.toNat * 0x4000000 + x1.toNat * 0x4000 + x2.toNat * 0x80 + x3.toNat * 1)
  | .popc x0 x1 x2 => some (0x129F4000 + x0.toNat * 0x4000000 + x1.toNat * 0x80 + x2.toNat * 1)
  | .clz x0 x1 x2 => some (0x12BF4000 + x0.toNat * 0x4000000 + x1.toNat * 0x80 + x2.toNat * 1)
  | .brev x0 x1 x2 => some (0x12DF4000 + x0.toNat * 0x4000000 + x1.toNat * 0x80 + x2.toNat * 1)
  | .iaddss x0 x1 x2 x3 => some (0x12E00000 + x0.toNat * 0x4000000 + x1.toNat * 0x4000 + x2.toNat * 0x80 + x3.toNat * 1)
  | .iaddsn x0 x1 x2 x3 => some (0x13000000 + x0.toNat * 0x4000000 + x1.toNat * 0x4000 + x2.toNat * 0x80 + x3.toNat * 1)
  | .isubss x0 x1 x2 x3 => some (0x13200000 + x0.toNat * 0x4000000 + x1.toNat * 0x4000 + x2.toNat * 0x80 + x3.toNat * 1)
  | .isubsn x0 x1 x2 x3 => some (0x13400000 + x0.toNat * 0x4000000 + x1.toNat * 0x4000 + x2.toNat * 0x80 + x3.toNat * 1)
  | .mov x0 x1 x2 => some (0x137F4000 + x0.toNat * 0x4000000 + x1.toNat * 0x80 + x2.toNat * 1)
  | .sel x0 x1 x2 x3 x4 => some (0x13800000 + x0.toNat * 0x4000000 + x1.toNat * 0x200000 + x2.toNat * 0x4000 + x3.toNat * 0x80 + x4.toNat * 1)
  | .icmpEq x0 x1 x2 x3 x4 => some (0x18000000 + x0.toNat * 0x2000000 + x1.toNat * 0x1000000 + x2.toNat * 0x4000 + x3.toNat * 0x80 + x4.toNat * 1)
  | .icmpNe x0 x1 x2 x3 x4 => some (0x18200000 + x0.toNat * 0x2000000 + x1.toNat * 0x1000000 + x2.toNat * 0x4000 + x3.toNat * 0x80 + x4.toNat * 1)
  | .icmpLtS x0 x1 x2 x3 x4 => some (0x18400000 + x0.toNat * 0x2000000 + x1.toNat * 0x1000000 + x2.toNat * 0x4000 + x3.toNat * 0x80 + x4.toNat * 1)
  | .icmpLeS x0 x1 x2 x3 x4 => some (0x18600000 + x0.toNat * 0x2000000 + x1.toNat * 0x1000000 + x2.toNat * 0x4000 + x3.toNat * 0x80 + x4.toNat * 1)
  | .icmpLtN x0 x1 x2 x3 x4 => some (0x18800000 + x0.toNat * 0x2000000 + x1.toNat * 0x1000000 + x2.toNat * 0x4000 + x3.toNat * 0x80 + x4.toNat * 1)
  | .icmpLeN x0 x1 x2 x3 x4 => some (0x18A00000 + x0.toNat * 0x2000000 + x1.toNat * 0x1000000 + x2.toNat * 0x4000 + x3.toNat * 0x80 + x4.toNat * 1)
  | .icmpTst x0 x1 x2 x3 x4 => some (0x18C00000 + x0.toNat * 0x2000000 + x1.toNat * 0x1000000 + x2.toNat * 0x4000 + x3.toNat * 0x80 + x4.toNat * 1)
  | .bfxi x0 x1 x2 x3 => some (0x1C000000 + x0.toNat * 0x100000 + x1.toNat * 0x4000 + x2.toNat * 0x80 + x3.toNat * 1)
  | .bfii x0 x1 x2 x3 => some (0x20000000 + x0.toNat * 0x100000 + x1.toNat * 0x4000 + x2.toNat * 0x80 + x3.toNat * 1)
  | .iaddi x0 x1 x2 => some (0x24000000 + x0.toNat * 0x4000 + x1.toNat * 0x80 + x2.toNat * 1)
  | .andi x0 x1 x2 => some (0x28000000 + x0.toNat * 0x4000 + x1.toNat * 0x80 + x2.toNat * 1)
  | .ori x0 x1 x2 => some (0x2C000000 + x0.toNat * 0x4000 + x1.toNat * 0x80 + x2.toNat * 1)
  | .xori x0 x1 x2 => some (0x30000000 + x0.toNat * 0x4000 + x1.toNat * 0x80 + x2.toNat * 1)
  | .shfiShl x0 x1 x2 x3 => some (0x34000000 + x0.toNat * 0x800000 + x1.toNat * 0x4000 + x2.toNat * 0x80 + x3.toNat * 1)
  | .shfiShr x0 x1 x2 x3 => some (0x35000000 + x0.toNat * 0x800000 + x1.toNat * 0x4000 + x2.toNat * 0x80 + x3.toNat * 1)
  | .shfiSra x0 x1 x2 x3 => some (0x36000000 + x0.toNat * 0x800000 + x1.toNat * 0x4000 + x2.toNat * 0x80 + x3.toNat * 1)
  | .shfiRotl x0 x1 x2 x3 => some (0x37000000 + x0.toNat * 0x800000 + x1.toNat * 0x4000 + x2.toNat * 0x80 + x3.toNat * 1)
  | .movi x0 x1 x2 => some (0x38000000 + x0.toNat * 0x4000 + x1.toNat * 0x80 + x2.toNat * 1)
  | .icmpi x0 x1 x2 x3 => some (0x3C000000 + x0.toNat * 0x4000 + x1.toNat * 0x80 + x2.toNat * 0x8 + x3.toNat * 1)
  | .fadd x0 x1 x2 => some (0x40000000 + x0.toNat * 0x4000 + x1.toNat * 0x80 + x2.toNat * 1)
  | .fsub x0 x1 x2 => some (0x40200000 + x0.toNat * 0x4000 + x1.toNat * 0x80 + x2.toNat * 1)
  | .fmul x0 x1 x2 => some (0x40400000 + x0.toNat * 0x4000 + x1.toNat * 0x80 + x2.toNat * 1)
  | .fmin x0 x1 x2 => some (0x40600000 + x0.toNat * 0x4000 + x1.toNat * 0x80 + x2.toNat * 1)
  | .fmax x0 x1 x2 => some (0x40800000 + x0.toNat * 0x4000 + x1.toNat * 0x80 + x2.toNat * 1)
  | .fabs x0 x1 => some (0x40BF4000 + x0.toNat * 0x80 + x1.toNat * 1)
  | .fneg x0 x1 => some (0x40DF4000 + x0.toNat * 0x80 + x1.toNat * 1)
  | .fcpys x0 x1 x2 => some (0x40E00000 + x0.toNat * 0x4000 + x1.toNat * 0x80 + x2.toNat * 1)
  | .fminm x0 x1 x2 => some (0x41000000 + x0.toNat * 0x4000 + x1.toNat * 0x80 + x2.toNat * 1)
  | .fmaxm x0 x1 x2 => some (0x41200000 + x0.toNat * 0x4000 + x1.toNat * 0x80 + x2.toNat * 1)
  | .ffloor x0 x1 => some (0x415F4000 + x0.toNat * 0x80 + x1.toNat * 1)
  | .fceil x0 x1 => some (0x417F4000 + x0.toNat * 0x80 + x1.toNat * 1)
  | .ftrunc x0 x1 => some (0x419F4000 + x0.toNat * 0x80 + x1.toNat * 1)
  | .frint x0 x1 => some (0x41BF4000 + x0.toNat * 0x80 + x1.toNat * 1)
  | .fclass x0 x1 => some (0x41DF4000 + x0.toNat * 0x80 + x1.toNat * 1)
  | .fma x0 x1 x2 x3 => some (0x44000000 + x0.toNat * 0x800000 + x1.toNat * 0x4000 + x2.toNat * 0x80 + x3.toNat * 1)
  | .fms x0 x1 x2 x3 => some (0x44200000 + x0.toNat * 0x800000 + x1.toNat * 0x4000 + x2.toNat * 0x80 + x3.toNat * 1)
  | .nfma x0 x1 x2 x3 => some (0x44400000 + x0.toNat * 0x800000 + x1.toNat * 0x4000 + x2.toNat * 0x80 + x3.toNat * 1)
  | .nfms x0 x1 x2 x3 => some (0x44600000 + x0.toNat * 0x800000 + x1.toNat * 0x4000 + x2.toNat * 0x80 + x3.toNat * 1)
  | .fcmpEq x0 x1 x2 x3 x4 => some (0x48000000 + x0.toNat * 0x2000000 + x1.toNat * 0x1000000 + x2.toNat * 0x4000 + x3.toNat * 0x80 + x4.toNat * 1)
  | .fcmpNe x0 x1 x2 x3 x4 => some (0x48200000 + x0.toNat * 0x2000000 + x1.toNat * 0x1000000 + x2.toNat * 0x4000 + x3.toNat * 0x80 + x4.toNat * 1)
  | .fcmpLt x0 x1 x2 x3 x4 => some (0x48400000 + x0.toNat * 0x2000000 + x1.toNat * 0x1000000 + x2.toNat * 0x4000 + x3.toNat * 0x80 + x4.toNat * 1)
  | .fcmpLe x0 x1 x2 x3 x4 => some (0x48600000 + x0.toNat * 0x2000000 + x1.toNat * 0x1000000 + x2.toNat * 0x4000 + x3.toNat * 0x80 + x4.toNat * 1)
  | .fcmpUnord x0 x1 x2 x3 x4 => some (0x48800000 + x0.toNat * 0x2000000 + x1.toNat * 0x1000000 + x2.toNat * 0x4000 + x3.toNat * 0x80 + x4.toNat * 1)
  | .fcmpOrd x0 x1 x2 x3 x4 => some (0x48A00000 + x0.toNat * 0x2000000 + x1.toNat * 0x1000000 + x2.toNat * 0x4000 + x3.toNat * 0x80 + x4.toNat * 1)
  | .frcp x0 x1 => some (0x4C1F4000 + x0.toNat * 0x80 + x1.toNat * 1)
  | .frsq x0 x1 => some (0x4C3F4000 + x0.toNat * 0x80 + x1.toNat * 1)
  | .fsqrt x0 x1 => some (0x4C5F4000 + x0.toNat * 0x80 + x1.toNat * 1)
  | .fex2 x0 x1 => some (0x4C7F4000 + x0.toNat * 0x80 + x1.toNat * 1)
  | .flg2 x0 x1 => some (0x4C9F4000 + x0.toNat * 0x80 + x1.toNat * 1)
  | .fsinp x0 x1 => some (0x4CBF4000 + x0.toNat * 0x80 + x1.toNat * 1)
  | .fcosp x0 x1 => some (0x4CDF4000 + x0.toNat * 0x80 + x1.toNat * 1)
  | .ftanh x0 x1 => some (0x4CFF4000 + x0.toNat * 0x80 + x1.toNat * 1)
  | .fdiv x0 x1 x2 => some (0x4D000000 + x0.toNat * 0x4000 + x1.toNat * 0x80 + x2.toNat * 1)
  | .cvtF32S32 x0 x1 x2 => some (0x50000000 + x0.toNat * 0x4000 + x1.toNat * 0x80 + x2.toNat * 1)
  | .cvtF32N32 x0 x1 x2 => some (0x50200000 + x0.toNat * 0x4000 + x1.toNat * 0x80 + x2.toNat * 1)
  | .cvtS32F32 x0 x1 x2 => some (0x50400000 + x0.toNat * 0x4000 + x1.toNat * 0x80 + x2.toNat * 1)
  | .cvtN32F32 x0 x1 x2 => some (0x50600000 + x0.toNat * 0x4000 + x1.toNat * 0x80 + x2.toNat * 1)
  | .cvtF32F16 x0 x1 x2 x3 x4 => some (0x50800000 + x0.toNat * 0x40000 + x1.toNat * 0x10000 + x2.toNat * 0x4000 + x3.toNat * 0x80 + x4.toNat * 1)
  | .cvtF16F32 x0 x1 => some (0x50A00000 + x0.toNat * 0x80 + x1.toNat * 1)
  | .cvtF32Bf16 x0 x1 x2 x3 x4 => some (0x50C00000 + x0.toNat * 0x40000 + x1.toNat * 0x10000 + x2.toNat * 0x4000 + x3.toNat * 0x80 + x4.toNat * 1)
  | .cvtBf16F32 x0 x1 => some (0x50E00000 + x0.toNat * 0x80 + x1.toNat * 1)
  | .cvtF32E4m3 x0 x1 x2 x3 x4 => some (0x51000000 + x0.toNat * 0x40000 + x1.toNat * 0x10000 + x2.toNat * 0x4000 + x3.toNat * 0x80 + x4.toNat * 1)
  | .cvtF32E5m2 x0 x1 x2 x3 x4 => some (0x51200000 + x0.toNat * 0x40000 + x1.toNat * 0x10000 + x2.toNat * 0x4000 + x3.toNat * 0x80 + x4.toNat * 1)
  | .cvtE4m3F32 x0 x1 => some (0x51400000 + x0.toNat * 0x80 + x1.toNat * 1)
  | .cvtE5m2F32 x0 x1 => some (0x51600000 + x0.toNat * 0x80 + x1.toNat * 1)
  | .cvtF32E2m3 x0 x1 x2 x3 x4 => some (0x51800000 + x0.toNat * 0x40000 + x1.toNat * 0x10000 + x2.toNat * 0x4000 + x3.toNat * 0x80 + x4.toNat * 1)
  | .cvtF32E3m2 x0 x1 x2 x3 x4 => some (0x51A00000 + x0.toNat * 0x40000 + x1.toNat * 0x10000 + x2.toNat * 0x4000 + x3.toNat * 0x80 + x4.toNat * 1)
  | .cvtE2m3F32 x0 x1 => some (0x51C00000 + x0.toNat * 0x80 + x1.toNat * 1)
  | .cvtE3m2F32 x0 x1 => some (0x51E00000 + x0.toNat * 0x80 + x1.toNat * 1)
  | .cvtF32E2m1 x0 x1 x2 x3 x4 => some (0x52000000 + x0.toNat * 0x40000 + x1.toNat * 0x10000 + x2.toNat * 0x4000 + x3.toNat * 0x80 + x4.toNat * 1)
  | .cvtE2m1F32 x0 x1 => some (0x52200000 + x0.toNat * 0x80 + x1.toNat * 1)
  | .cvtF32F64 x0 x1 => some (0x52400000 + x0.toNat * 0x80 + x1.toNat * 1)
  | .cvtF64F32 x0 x1 x2 x3 => some (0x52600000 + x0.toNat * 0x10000 + x1.toNat * 0x4000 + x2.toNat * 0x80 + x3.toNat * 1)
  | .cvtF64S64 x0 x1 x2 => some (0x52800000 + x0.toNat * 0x4000 + x1.toNat * 0x80 + x2.toNat * 1)
  | .cvtS64F64 x0 x1 x2 => some (0x52A00000 + x0.toNat * 0x4000 + x1.toNat * 0x80 + x2.toNat * 1)
  | .cvtF32S64 x0 x1 x2 => some (0x52C00000 + x0.toNat * 0x4000 + x1.toNat * 0x80 + x2.toNat * 1)
  | .cvtE8m0F32 x0 x1 => some (0x52E00000 + x0.toNat * 0x80 + x1.toNat * 1)
  | .cvtF32E8m0 x0 x1 x2 x3 x4 => some (0x53000000 + x0.toNat * 0x40000 + x1.toNat * 0x10000 + x2.toNat * 0x4000 + x3.toNat * 0x80 + x4.toNat * 1)
  | .cvtS32S8 x0 x1 => some (0x53200000 + x0.toNat * 0x80 + x1.toNat * 1)
  | .hadd2 x0 x1 x2 x3 => some (0x54000000 + x0.toNat * 0x1000000 + x1.toNat * 0x4000 + x2.toNat * 0x80 + x3.toNat * 1)
  | .hsub2 x0 x1 x2 x3 => some (0x54200000 + x0.toNat * 0x1000000 + x1.toNat * 0x4000 + x2.toNat * 0x80 + x3.toNat * 1)
  | .hmul2 x0 x1 x2 x3 => some (0x54400000 + x0.toNat * 0x1000000 + x1.toNat * 0x4000 + x2.toNat * 0x80 + x3.toNat * 1)
  | .hmin2 x0 x1 x2 x3 => some (0x54600000 + x0.toNat * 0x1000000 + x1.toNat * 0x4000 + x2.toNat * 0x80 + x3.toNat * 1)
  | .hmax2 x0 x1 x2 x3 => some (0x54800000 + x0.toNat * 0x1000000 + x1.toNat * 0x4000 + x2.toNat * 0x80 + x3.toNat * 1)
  | .dadd x0 x1 x2 => some (0x58000000 + x0.toNat * 0x4000 + x1.toNat * 0x80 + x2.toNat * 1)
  | .dsub x0 x1 x2 => some (0x58200000 + x0.toNat * 0x4000 + x1.toNat * 0x80 + x2.toNat * 1)
  | .dmul x0 x1 x2 => some (0x58400000 + x0.toNat * 0x4000 + x1.toNat * 0x80 + x2.toNat * 1)
  | .dmin x0 x1 x2 => some (0x58600000 + x0.toNat * 0x4000 + x1.toNat * 0x80 + x2.toNat * 1)
  | .dmax x0 x1 x2 => some (0x58800000 + x0.toNat * 0x4000 + x1.toNat * 0x80 + x2.toNat * 1)
  | .ddiv x0 x1 x2 => some (0x58A00000 + x0.toNat * 0x4000 + x1.toNat * 0x80 + x2.toNat * 1)
  | .wredAddF32 x0 x1 => some (0x601F4000 + x0.toNat * 0x80 + x1.toNat * 1)
  | .wredAddS32 x0 x1 => some (0x603F4000 + x0.toNat * 0x80 + x1.toNat * 1)
  | .wredMinF32 x0 x1 => some (0x605F4000 + x0.toNat * 0x80 + x1.toNat * 1)
  | .wredMaxF32 x0 x1 => some (0x607F4000 + x0.toNat * 0x80 + x1.toNat * 1)
  | .wredMinS32 x0 x1 => some (0x609F4000 + x0.toNat * 0x80 + x1.toNat * 1)
  | .wredMaxS32 x0 x1 => some (0x60BF4000 + x0.toNat * 0x80 + x1.toNat * 1)
  | .wredAnd x0 x1 => some (0x60DF4000 + x0.toNat * 0x80 + x1.toNat * 1)
  | .wredOr x0 x1 => some (0x60FF4000 + x0.toNat * 0x80 + x1.toNat * 1)
  | .wscanAddF32 x0 x1 => some (0x611F4000 + x0.toNat * 0x80 + x1.toNat * 1)
  | .wscanAddS32 x0 x1 => some (0x613F4000 + x0.toNat * 0x80 + x1.toNat * 1)
  | .shflIdx x0 x1 x2 => some (0x61400000 + x0.toNat * 0x4000 + x1.toNat * 0x80 + x2.toNat * 1)
  | .shflUp x0 x1 x2 => some (0x61600000 + x0.toNat * 0x4000 + x1.toNat * 0x80 + x2.toNat * 1)
  | .shflDown x0 x1 x2 => some (0x61800000 + x0.toNat * 0x4000 + x1.toNat * 0x80 + x2.toNat * 1)
  | .shflXor x0 x1 x2 => some (0x61A00000 + x0.toNat * 0x4000 + x1.toNat * 0x80 + x2.toNat * 1)
  | .wvoteAny x0 x1 => some (0x61DF4000 + x0.toNat * 0x80 + x1.toNat * 1)
  | .wvoteAll x0 x1 => some (0x61FF4000 + x0.toNat * 0x80 + x1.toNat * 1)
  | .wballot x0 x1 => some (0x621F4000 + x0.toNat * 0x80 + x1.toNat * 1)
  | .wbcast x0 x1 x2 => some (0x62200000 + x0.toNat * 0x4000 + x1.toNat * 0x80 + x2.toNat * 1)
  | .wgetl x0 x1 x2 => some (0x62400000 + x0.toNat * 0x4000 + x1.toNat * 0x80 + x2.toNat * 1)
  | .wsetl x0 x1 x2 => some (0x62600000 + x0.toNat * 0x4000 + x1.toNat * 0x80 + x2.toNat * 1)
  | .mand x0 x1 x2 => some (0x64000000 + x0.toNat * 0x4000 + x1.toNat * 0x80 + x2.toNat * 1)
  | .mor x0 x1 x2 => some (0x64200000 + x0.toNat * 0x4000 + x1.toNat * 0x80 + x2.toNat * 1)
  | .mxor x0 x1 x2 => some (0x64400000 + x0.toNat * 0x4000 + x1.toNat * 0x80 + x2.toNat * 1)
  | .mandn x0 x1 x2 => some (0x64600000 + x0.toNat * 0x4000 + x1.toNat * 0x80 + x2.toNat * 1)
  | .mnot x0 x1 => some (0x649F4000 + x0.toNat * 0x80 + x1.toNat * 1)
  | .mmov x0 x1 => some (0x64BF4000 + x0.toNat * 0x80 + x1.toNat * 1)
  | .mpopc x0 x1 => some (0x64DF4000 + x0.toNat * 0x80 + x1.toNat * 1)
  | .mffs x0 x1 => some (0x64FF4000 + x0.toNat * 0x80 + x1.toNat * 1)
  | .msave x0 => some (0x651F7E80 + x0.toNat * 1)
  | .mrest x0 => some (0x653F407D + x0.toNat * 0x80)
  | .mset x0 => some (0x655F7E80 + x0.toNat * 1)
  | .mclr x0 => some (0x657F7E80 + x0.toNat * 1)
  | .mtos x0 x1 => some (0x659F4000 + x0.toNat * 0x80 + x1.toNat * 1)
  | .mfrs x0 x1 => some (0x65BF4000 + x0.toNat * 0x80 + x1.toNat * 1)
  | .sbind x0 x1 => some (0x681F4078 + x0.toNat * 0x80 + x1.toNat * 1)
  | .sskip x0 x1 => some (0x683F4078 + x0.toNat * 0x80 + x1.toNat * 1)
  | .sflag x0 x1 => some (0x685F7C00 + x0.toNat * 0x80 + x1.toNat * 1)
  | .sunb x0 => some (0x687F7EF8 + x0.toNat * 1)
  | .spos x0 x1 => some (0x689F7C00 + x0.toNat * 0x80 + x1.toNat * 1)
  | .waitc x0 x1 x2 x3 => some (0x6C003EFD + x0.toNat * 0x800000 + x1.toNat * 0x100000 + x2.toNat * 0x20000 + x3.toNat * 0x4000)
  | .bra x0 => some (0x70000000 + x0.toNat * 1)
  | .call x0 => some (0x74000000 + x0.toNat * 1)
  | .brc x0 x1 x2 => some (0x78000000 + x0.toNat * 0x800000 + x1.toNat * 0x10000 + x2.toNat * 1)
  | .brdT x0 x1 => some (0x7C000000 + x0.toNat * 0x10000 + x1.toNat * 1)
  | .brdF x0 x1 => some (0x7C800000 + x0.toNat * 0x10000 + x1.toNat * 1)
  | .bany x0 x1 => some (0x7D000000 + x0.toNat * 0x10000 + x1.toNat * 1)
  | .ball x0 x1 => some (0x7D800000 + x0.toNat * 0x10000 + x1.toNat * 1)
  | .bnone x0 x1 => some (0x7E000000 + x0.toNat * 0x10000 + x1.toNat * 1)
  | .beodSet x0 x1 x2 => some (0x80780000 + x0.toNat * 0x800000 + x1.toNat * 0x10000 + x2.toNat * 1)
  | .beodClr x0 x1 x2 => some (0x82780000 + x0.toNat * 0x800000 + x1.toNat * 0x10000 + x2.toNat * 1)
  | .jmp x0 => some (0x841F407D + x0.toNat * 0x80)
  | .callr x0 => some (0x843F407D + x0.toNat * 0x80)
  | .ret => some (0x845F7EFD)
  | .ldb x0 x1 x2 => some (0x90000000 + x0.toNat * 0x4000 + x1.toNat * 0x80 + x2.toNat * 1)
  | .ldbs x0 x1 x2 => some (0x94000000 + x0.toNat * 0x4000 + x1.toNat * 0x80 + x2.toNat * 1)
  | .ldh x0 x1 x2 => some (0x98000000 + x0.toNat * 0x4000 + x1.toNat * 0x80 + x2.toNat * 1)
  | .ldhs x0 x1 x2 => some (0x9C000000 + x0.toNat * 0x4000 + x1.toNat * 0x80 + x2.toNat * 1)
  | .ldw x0 x1 x2 => some (0xA0000000 + x0.toNat * 0x4000 + x1.toNat * 0x80 + x2.toNat * 1)
  | .ldd x0 x1 x2 => some (0xA4000000 + x0.toNat * 0x4000 + x1.toNat * 0x80 + x2.toNat * 1)
  | .ldq x0 x1 x2 => some (0xA8000000 + x0.toNat * 0x4000 + x1.toNat * 0x80 + x2.toNat * 1)
  | .stb x0 x1 x2 => some (0xAC000000 + x0.toNat * 0x4000 + x1.toNat * 0x80 + x2.toNat * 1)
  | .sth x0 x1 x2 => some (0xB0000000 + x0.toNat * 0x4000 + x1.toNat * 0x80 + x2.toNat * 1)
  | .stw x0 x1 x2 => some (0xB4000000 + x0.toNat * 0x4000 + x1.toNat * 0x80 + x2.toNat * 1)
  | .std x0 x1 x2 => some (0xB8000000 + x0.toNat * 0x4000 + x1.toNat * 0x80 + x2.toNat * 1)
  | .stq x0 x1 x2 => some (0xBC000000 + x0.toNat * 0x4000 + x1.toNat * 0x80 + x2.toNat * 1)
  | .ldo x0 x1 x2 x3 x4 => some (0xC0000000 + x0.toNat * 0x40000 + x1.toNat * 0x10000 + x2.toNat * 0x4000 + x3.toNat * 0x80 + x4.toNat * 1)
  | .sto x0 x1 x2 x3 x4 => some (0xC4000000 + x0.toNat * 0x40000 + x1.toNat * 0x10000 + x2.toNat * 0x4000 + x3.toNat * 0x80 + x4.toNat * 1)
  | .atomAdd x0 x1 x2 x3 x4 => some (0xC8000000 + x0.toNat * 0x4000000 + x1.toNat * 0x40000 + x2.toNat * 0x10000 + x3.toNat * 0x80 + x4.toNat * 1)
  | .atomMins x0 x1 x2 x3 x4 => some (0xC8200000 + x0.toNat * 0x4000000 + x1.toNat * 0x40000 + x2.toNat * 0x10000 + x3.toNat * 0x80 + x4.toNat * 1)
  | .atomMinn x0 x1 x2 x3 x4 => some (0xC8400000 + x0.toNat * 0x4000000 + x1.toNat * 0x40000 + x2.toNat * 0x10000 + x3.toNat * 0x80 + x4.toNat * 1)
  | .atomMaxs x0 x1 x2 x3 x4 => some (0xC8600000 + x0.toNat * 0x4000000 + x1.toNat * 0x40000 + x2.toNat * 0x10000 + x3.toNat * 0x80 + x4.toNat * 1)
  | .atomMaxn x0 x1 x2 x3 x4 => some (0xC8800000 + x0.toNat * 0x4000000 + x1.toNat * 0x40000 + x2.toNat * 0x10000 + x3.toNat * 0x80 + x4.toNat * 1)
  | .atomAnd x0 x1 x2 x3 x4 => some (0xC8A00000 + x0.toNat * 0x4000000 + x1.toNat * 0x40000 + x2.toNat * 0x10000 + x3.toNat * 0x80 + x4.toNat * 1)
  | .atomOr x0 x1 x2 x3 x4 => some (0xC8C00000 + x0.toNat * 0x4000000 + x1.toNat * 0x40000 + x2.toNat * 0x10000 + x3.toNat * 0x80 + x4.toNat * 1)
  | .atomXor x0 x1 x2 x3 x4 => some (0xC8E00000 + x0.toNat * 0x4000000 + x1.toNat * 0x40000 + x2.toNat * 0x10000 + x3.toNat * 0x80 + x4.toNat * 1)
  | .atomExch x0 x1 x2 x3 x4 => some (0xC9000000 + x0.toNat * 0x4000000 + x1.toNat * 0x40000 + x2.toNat * 0x10000 + x3.toNat * 0x80 + x4.toNat * 1)
  | .atomCas x0 x1 x2 x3 x4 => some (0xC9200000 + x0.toNat * 0x4000000 + x1.toNat * 0x40000 + x2.toNat * 0x10000 + x3.toNat * 0x80 + x4.toNat * 1)
  | .atomFadd x0 x1 x2 x3 x4 => some (0xC9400000 + x0.toNat * 0x4000000 + x1.toNat * 0x40000 + x2.toNat * 0x10000 + x3.toNat * 0x80 + x4.toNat * 1)
  | .atomFmin x0 x1 x2 x3 x4 => some (0xC9600000 + x0.toNat * 0x4000000 + x1.toNat * 0x40000 + x2.toNat * 0x10000 + x3.toNat * 0x80 + x4.toNat * 1)
  | .atomFmax x0 x1 x2 x3 x4 => some (0xC9800000 + x0.toNat * 0x4000000 + x1.toNat * 0x40000 + x2.toNat * 0x10000 + x3.toNat * 0x80 + x4.toNat * 1)
  | .redAdd x0 x1 x2 x3 x4 => some (0xD0000000 + x0.toNat * 0x4000000 + x1.toNat * 0x40000 + x2.toNat * 0x10000 + x3.toNat * 0x80 + x4.toNat * 1)
  | .redMins x0 x1 x2 x3 x4 => some (0xD0200000 + x0.toNat * 0x4000000 + x1.toNat * 0x40000 + x2.toNat * 0x10000 + x3.toNat * 0x80 + x4.toNat * 1)
  | .redMinn x0 x1 x2 x3 x4 => some (0xD0400000 + x0.toNat * 0x4000000 + x1.toNat * 0x40000 + x2.toNat * 0x10000 + x3.toNat * 0x80 + x4.toNat * 1)
  | .redMaxs x0 x1 x2 x3 x4 => some (0xD0600000 + x0.toNat * 0x4000000 + x1.toNat * 0x40000 + x2.toNat * 0x10000 + x3.toNat * 0x80 + x4.toNat * 1)
  | .redMaxn x0 x1 x2 x3 x4 => some (0xD0800000 + x0.toNat * 0x4000000 + x1.toNat * 0x40000 + x2.toNat * 0x10000 + x3.toNat * 0x80 + x4.toNat * 1)
  | .redAnd x0 x1 x2 x3 x4 => some (0xD0A00000 + x0.toNat * 0x4000000 + x1.toNat * 0x40000 + x2.toNat * 0x10000 + x3.toNat * 0x80 + x4.toNat * 1)
  | .redOr x0 x1 x2 x3 x4 => some (0xD0C00000 + x0.toNat * 0x4000000 + x1.toNat * 0x40000 + x2.toNat * 0x10000 + x3.toNat * 0x80 + x4.toNat * 1)
  | .redXor x0 x1 x2 x3 x4 => some (0xD0E00000 + x0.toNat * 0x4000000 + x1.toNat * 0x40000 + x2.toNat * 0x10000 + x3.toNat * 0x80 + x4.toNat * 1)
  | .redFadd x0 x1 x2 x3 x4 => some (0xD1000000 + x0.toNat * 0x4000000 + x1.toNat * 0x40000 + x2.toNat * 0x10000 + x3.toNat * 0x80 + x4.toNat * 1)
  | .redFmin x0 x1 x2 x3 x4 => some (0xD1200000 + x0.toNat * 0x4000000 + x1.toNat * 0x40000 + x2.toNat * 0x10000 + x3.toNat * 0x80 + x4.toNat * 1)
  | .redFmax x0 x1 x2 x3 x4 => some (0xD1400000 + x0.toNat * 0x4000000 + x1.toNat * 0x40000 + x2.toNat * 0x10000 + x3.toNat * 0x80 + x4.toNat * 1)
  | .fence x0 x1 => some (0xD8003EFD + x0.toNat * 0x40000 + x1.toNat * 0x10000)
  | .pref x0 => some (0xDC1F407D + x0.toNat * 0x80)
  | .wbk x0 => some (0xDC3F407D + x0.toNat * 0x80)
  | .invl x0 => some (0xDC5F407D + x0.toNat * 0x80)
  | .spempty x0 x1 => some (0xDC60007D + x0.toNat * 0x4000 + x1.toNat * 0x80)
  | .spfull x0 x1 => some (0xDC80007D + x0.toNat * 0x4000 + x1.toNat * 0x80)
  | .spqry x0 x1 => some (0xDCBF4000 + x0.toNat * 0x80 + x1.toNat * 1)
  | .binit x0 x1 => some (0xE000007D + x0.toNat * 0x4000 + x1.toNat * 0x80)
  | .barv x0 x1 => some (0xE03F4000 + x0.toNat * 0x80 + x1.toNat * 1)
  | .bexp x0 x1 => some (0xE040007D + x0.toNat * 0x4000 + x1.toNat * 0x80)
  | .bwait x0 x1 x2 => some (0xE0600000 + x0.toNat * 0x4000 + x1.toNat * 0x80 + x2.toNat * 1)
  | .btry x0 x1 x2 => some (0xE0800000 + x0.toNat * 0x4000 + x1.toNat * 0x80 + x2.toNat * 1)
  | .bqry x0 x1 => some (0xE0BF4000 + x0.toNat * 0x80 + x1.toNat * 1)
  | .barx x0 x1 => some (0xE0DF4000 + x0.toNat * 0x80 + x1.toNat * 1)
  | .bclr x0 => some (0xE0FF407D + x0.toNat * 0x80)
  | .xstW x0 x1 => some (0xE41F4000 + x0.toNat * 0x80 + x1.toNat * 1)
  | .xstD x0 x1 => some (0xE43F4000 + x0.toNat * 0x80 + x1.toNat * 1)
  | .cpyin x0 x1 x2 => some (0xE8000000 + x0.toNat * 0x4000 + x1.toNat * 0x80 + x2.toNat * 1)
  | .cpyout x0 x1 x2 => some (0xE8200000 + x0.toNat * 0x4000 + x1.toNat * 0x80 + x2.toNat * 1)
  | .cpyss x0 x1 x2 => some (0xE8400000 + x0.toNat * 0x4000 + x1.toNat * 0x80 + x2.toNat * 1)
  | .ppush x0 x1 x2 => some (0xE8600000 + x0.toNat * 0x4000 + x1.toNat * 0x80 + x2.toNat * 1)
  | .ppull x0 x1 x2 => some (0xE8800000 + x0.toNat * 0x4000 + x1.toNat * 0x80 + x2.toNat * 1)
  | .coll x0 x1 x2 => some (0xE8A00000 + x0.toNat * 0x4000 + x1.toNat * 0x80 + x2.toNat * 1)
  | .cpyg x0 x1 x2 => some (0xE8C00000 + x0.toNat * 0x4000 + x1.toNat * 0x80 + x2.toNat * 1)
  | .cpqry x0 x1 => some (0xE8FF4000 + x0.toNat * 0x80 + x1.toNat * 1)
  | .gang x0 => some (0xEC1F407D + x0.toNat * 0x80)
  | .vacq => some (0xEC3F7EFD)
  | .vrel => some (0xEC5F7EFD)
  | .wload x0 => some (0xEC7F407D + x0.toNat * 0x80)
  | .wswap => some (0xEC9F7EFD)
  | .mma x0 x1 x2 => some (0xECA00000 + x0.toNat * 0x4000 + x1.toNat * 0x80 + x2.toNat * 1)
  | .mmac x0 x1 x2 => some (0xECC00000 + x0.toNat * 0x4000 + x1.toNat * 0x80 + x2.toNat * 1)
  | .mzero x0 => some (0xECFF7E80 + x0.toNat * 1)
  | .mdrain x0 x1 => some (0xED1F4000 + x0.toNat * 0x80 + x1.toNat * 1)
  | .mqry x0 x1 => some (0xED3F4000 + x0.toNat * 0x80 + x1.toNat * 1)
  | .prsv x0 x1 => some (0xF01F4000 + x0.toNat * 0x80 + x1.toNat * 1)
  | .pcmt x0 x1 => some (0xF020007D + x0.toNat * 0x4000 + x1.toNat * 0x80)
  | .crsv x0 x1 => some (0xF05F4000 + x0.toNat * 0x80 + x1.toNat * 1)
  | .crel x0 x1 => some (0xF060007D + x0.toNat * 0x4000 + x1.toNat * 0x80)
  | .pseal x0 => some (0xF09F407D + x0.toNat * 0x80)
  | .pqry x0 x1 x2 => some (0xF0A00000 + x0.toNat * 0x4000 + x1.toNat * 0x80 + x2.toNat * 1)
  | .lsub x0 x1 x2 => some (0xF4000000 + x0.toNat * 0x4000 + x1.toNat * 0x80 + x2.toNat * 1)
  | .lseal x0 x1 x2 => some (0xF4200000 + x0.toNat * 0x4000 + x1.toNat * 0x80 + x2.toNat * 1)
  | .lpass x0 x1 x2 => some (0xF4400000 + x0.toNat * 0x4000 + x1.toNat * 0x80 + x2.toNat * 1)
  | .hmrg x0 x1 => some (0xF460007D + x0.toNat * 0x4000 + x1.toNat * 0x80)
  | .hget x0 x1 x2 => some (0xF4800000 + x0.toNat * 0x4000 + x1.toNat * 0x80 + x2.toNat * 1)
  | .hrel x0 x1 => some (0xF4A0007D + x0.toNat * 0x4000 + x1.toNat * 0x80)
  | .lqry x0 x1 x2 => some (0xF4C00000 + x0.toNat * 0x4000 + x1.toNat * 0x80 + x2.toNat * 1)
  | .rinv x0 x1 x2 => some (0xF8000000 + x0.toNat * 0x4000 + x1.toNat * 0x80 + x2.toNat * 1)
  | .rinvh x0 x1 x2 => some (0xF8200000 + x0.toNat * 0x4000 + x1.toNat * 0x80 + x2.toNat * 1)
  | .hres x0 x1 => some (0xF85F4000 + x0.toNat * 0x80 + x1.toNat * 1)
  | .hdrop x0 => some (0xF87F407D + x0.toNat * 0x80)
  | .rret x0 x1 => some (0xF880007D + x0.toNat * 0x4000 + x1.toNat * 0x80)
  | .tspawn x0 x1 => some (0xF8BF4000 + x0.toNat * 0x80 + x1.toNat * 1)
  | .jcan x0 x1 x2 => some (0xF8C00000 + x0.toNat * 0x4000 + x1.toNat * 0x80 + x2.toNat * 1)
  | .sigdec x0 x1 => some (0xF8E0007D + x0.toNat * 0x4000 + x1.toNat * 0x80)
  | .sigwait x0 x1 x2 => some (0xF9000000 + x0.toNat * 0x4000 + x1.toNat * 0x80 + x2.toNat * 1)
  | .sigadd x0 x1 => some (0xF920007D + x0.toNat * 0x4000 + x1.toNat * 0x80)
  | .plnch x0 x1 x2 => some (0xF9400000 + x0.toNat * 0x4000 + x1.toNat * 0x80 + x2.toNat * 1)

/-- The word of an instruction. -/
def encode (x : Instr) : Option W32 := (encodeNat x).map (BitVec.ofNat 32)

/-- The four bytes of a word as memory holds them (R3, R46). -/
def wordBytes (w : W32) : List Byte := [fld8 w 0, fld8 w 8, fld8 w 16, fld8 w 24]
where
  /-- The byte of a word whose lowest bit is `lo`. -/
  fld8 (w : W32) (lo : Nat) : Byte := BitVec.ofNat 8 (w.toNat / 2 ^ lo)

/-- The word that four bytes at rising addresses hold (R3, R46). -/
def bytesWord (b0 b1 b2 b3 : Byte) : W32 :=
  BitVec.ofNat 32 (b0.toNat + b1.toNat * 0x100 + b2.toNat * 0x10000 + b3.toNat * 0x1000000)

/-- The instruction read from a table row's word: the word is laid out in memory as R46 stores it and read back. -/
noncomputable def decodeTableWord (nbits w : Nat) : Option Instr :=
  let x := BitVec.ofNat 32 (w % 2 ^ nbits)
  match wordBytes x with
  | [b0, b1, b2, b3] =>
    match decode (bytesWord b0 b1 b2 b3) with
    | .ok j => some j
    | .error _ => none
  | _ => none

end Sys2Proof
end

