-- ==== Sys2Proof/Machine/Integer.lean ====
section
/-! DEFINITION. Integer, bit-field and compare instructions (R102 to R114). -/

namespace Sys2Proof.Machine

/-- The width an instruction's width bit selects (R65, R102). -/
def wide (w : BitVec 1) : Nat := if w = 0#1 then 32 else 64

/-- The width of the immediate forms: 64 for a scalar destination, 32 per lane (R102). -/
def immWidth (d : Reg) : Nat := if isVec d then 32 else 64

def iop1 (f : Nat → Nat) : LaneOp := fun _ vs => (f (vs.getD 0 0), 0)
def iop2 (f : Nat → Nat → Nat) : LaneOp := fun _ vs => (f (vs.getD 0 0) (vs.getD 1 0), 0)

/-- An integer reduced to `w` bits (R106). -/
def wrap (w : Nat) (x : Int) : Nat := (x % (2 ^ w : Int)).toNat

/-- Clamping to the range of `w` signed or unsigned bits (R106). -/
def clampS (w : Nat) (x : Int) : Nat := wrap w (max (-(2 ^ (w - 1) : Int)) (min x (2 ^ (w - 1) - 1)))
def clampN (w : Nat) (x : Int) : Nat := wrap w (max 0 (min x (2 ^ w - 1)))

-- Result functions of R106 on values below 2^w
def opAdd (w a b : Nat) : Nat := (a + b) % 2 ^ w
def opSub (w a b : Nat) : Nat := (a + 2 ^ w - b) % 2 ^ w
def opMul (w a b : Nat) : Nat := a * b % 2 ^ w
def opMulhS (w a b : Nat) : Nat := wrap w (sInt w a * sInt w b / (2 ^ w : Int))
def opMulhN (w a b : Nat) : Nat := a * b / 2 ^ w
def opMinS (w a b : Nat) : Nat := if sInt w b < sInt w a then b else a
def opMaxS (w a b : Nat) : Nat := if sInt w a < sInt w b then b else a
def opAbs (w a : Nat) : Nat := wrap w ((sInt w a).natAbs : Int)
def opNeg (w a : Nat) : Nat := (2 ^ w - a) % 2 ^ w
def opAndn (w a b : Nat) : Nat := Nat.land a (2 ^ w - 1 - b)
def opShl (w a k : Nat) : Nat := if w ≤ k then 0 else a * 2 ^ k % 2 ^ w
def opShr (w a k : Nat) : Nat := if w ≤ k then 0 else a / 2 ^ k
def opSra (w a k : Nat) : Nat := wrap w (sInt w a / (2 ^ (min k w) : Int))
def opRotl (w a k : Nat) : Nat := (a * 2 ^ (k % w) + a / 2 ^ (w - k % w)) % 2 ^ w
def opPopc (w a : Nat) : Nat := popCount (BitVec.ofNat w a)
def opClz (w a : Nat) : Nat := w - bitLen a
def opBrev (w a : Nat) : Nat := (List.range w).foldl (fun x i => x + (a / 2 ^ i % 2) * 2 ^ (w - 1 - i)) 0

/-- A two-source operation of IALU32 and IALU64 (R103). -/
def State.ialu2 (s : State) (w : BitVec 1) (b a d : Reg) (f : Nat → Nat → Nat → Nat) : Out :=
  s.alu true d (wide w) [(a, wide w), (b, wide w)] (iop2 (f (wide w)))

/-- A one-source operation. -/
def State.ialu1 (s : State) (w : BitVec 1) (a d : Reg) (f : Nat → Nat → Nat) : Out :=
  s.alu true d (wide w) [(a, wide w)] (iop1 (f (wide w)))

def execIadd (w : BitVec 1) (b a d : Reg) (s : State) : Out := s.ialu2 w b a d opAdd
def execIsub (w : BitVec 1) (b a d : Reg) (s : State) : Out := s.ialu2 w b a d opSub
def execImul (w : BitVec 1) (b a d : Reg) (s : State) : Out := s.ialu2 w b a d opMul
def execImulhs (w : BitVec 1) (b a d : Reg) (s : State) : Out := s.ialu2 w b a d opMulhS
def execImulhn (w : BitVec 1) (b a d : Reg) (s : State) : Out := s.ialu2 w b a d opMulhN
def execImins (w : BitVec 1) (b a d : Reg) (s : State) : Out := s.ialu2 w b a d opMinS
def execIminn (w : BitVec 1) (b a d : Reg) (s : State) : Out := s.ialu2 w b a d fun _ x y => min x y
def execImaxs (w : BitVec 1) (b a d : Reg) (s : State) : Out := s.ialu2 w b a d opMaxS
def execImaxn (w : BitVec 1) (b a d : Reg) (s : State) : Out := s.ialu2 w b a d fun _ x y => max x y
def execIabs (w : BitVec 1) (a d : Reg) (s : State) : Out := s.ialu1 w a d opAbs
def execIneg (w : BitVec 1) (a d : Reg) (s : State) : Out := s.ialu1 w a d opNeg
def execAnd (w : BitVec 1) (b a d : Reg) (s : State) : Out := s.ialu2 w b a d fun _ x y => Nat.land x y
def execOr (w : BitVec 1) (b a d : Reg) (s : State) : Out := s.ialu2 w b a d fun _ x y => Nat.lor x y
def execXor (w : BitVec 1) (b a d : Reg) (s : State) : Out := s.ialu2 w b a d fun _ x y => Nat.xor x y
def execAndn (w : BitVec 1) (b a d : Reg) (s : State) : Out := s.ialu2 w b a d opAndn
def execShl (w : BitVec 1) (b a d : Reg) (s : State) : Out := s.ialu2 w b a d opShl
def execShr (w : BitVec 1) (b a d : Reg) (s : State) : Out := s.ialu2 w b a d opShr
def execSra (w : BitVec 1) (b a d : Reg) (s : State) : Out := s.ialu2 w b a d opSra
def execRotl (w : BitVec 1) (b a d : Reg) (s : State) : Out := s.ialu2 w b a d opRotl
def execPopc (w : BitVec 1) (a d : Reg) (s : State) : Out := s.ialu1 w a d opPopc
def execClz (w : BitVec 1) (a d : Reg) (s : State) : Out := s.ialu1 w a d opClz
def execBrev (w : BitVec 1) (a d : Reg) (s : State) : Out := s.ialu1 w a d opBrev
def execIaddss (w : BitVec 1) (b a d : Reg) (s : State) : Out := s.ialu2 w b a d fun w x y => clampS w (sInt w x + sInt w y)
def execIaddsn (w : BitVec 1) (b a d : Reg) (s : State) : Out := s.ialu2 w b a d fun w x y => clampN w ((x : Int) + y)
def execIsubss (w : BitVec 1) (b a d : Reg) (s : State) : Out := s.ialu2 w b a d fun w x y => clampS w (sInt w x - sInt w y)
def execIsubsn (w : BitVec 1) (b a d : Reg) (s : State) : Out := s.ialu2 w b a d fun w x y => clampN w ((x : Int) - y)
def execMov (w : BitVec 1) (a d : Reg) (s : State) : Out := s.ialu1 w a d fun _ x => x

/-- IMAD: D is addend and destination (R106). -/
def execImad (w : BitVec 1) (b a d : Reg) (s : State) : Out :=
  s.alu true d (wide w) [(a, wide w), (b, wide w), (d, wide w)]
    fun _ vs => ((vs.getD 2 0 + vs.getD 0 0 * vs.getD 1 0) % 2 ^ wide w, 0)

/-- SEL on m0 to m3: per lane by the mask bit, in scalar execution by whether an active lane has its bit set (R107).
It names a mask, which a copy context does not have (R31). -/
def execSel (w : BitVec 1) (m : BitVec 2) (b a d : Reg) (s : State) : Out :=
  let mk := s.me.mget m.toNat
  s.alu (!(decide (s.me.role = .copy))) d (wide w) [(a, wide w), (b, wide w)]
    fun l vs =>
      let take := if isVec d then mk.getLsbD l else (mk &&& s.em) != 0
      (if take then vs.getD 0 0 else vs.getD 1 0, 0)

-- Comparisons (R113) -------------------------------------------------------------------------------------------

def State.icmp (s : State) (code : Nat) (k w : BitVec 1) (b a d : Reg) : Out :=
  s.cmp k d [(a, wide w), (b, wide w)] fun vs => icond code (wide w) (vs.getD 0 0) (vs.getD 1 0)

def execIcmpEq (k w : BitVec 1) (b a d : Reg) (s : State) : Out := s.icmp 0 k w b a d
def execIcmpNe (k w : BitVec 1) (b a d : Reg) (s : State) : Out := s.icmp 1 k w b a d
def execIcmpLtS (k w : BitVec 1) (b a d : Reg) (s : State) : Out := s.icmp 2 k w b a d
def execIcmpLeS (k w : BitVec 1) (b a d : Reg) (s : State) : Out := s.icmp 3 k w b a d
def execIcmpLtN (k w : BitVec 1) (b a d : Reg) (s : State) : Out := s.icmp 4 k w b a d
def execIcmpLeN (k w : BitVec 1) (b a d : Reg) (s : State) : Out := s.icmp 5 k w b a d
def execIcmpTst (k w : BitVec 1) (b a d : Reg) (s : State) : Out := s.icmp 6 k w b a d

-- Immediate forms ------------------------------------------------------------------------------------------------

/-- BFXI (R112): a field of A, zero-extended. -/
def execBfxi (l p : BitVec 6) (a d : Reg) (s : State) : Out :=
  let w := immWidth d
  s.alu (bitFieldOk d l p) d w [(a, w)] (iop1 fun x => x / 2 ^ p.toNat % 2 ^ (l.toNat + 1))

/-- BFII (R112): the field of D is replaced by the low bits of A. -/
def execBfii (l p : BitVec 6) (a d : Reg) (s : State) : Out :=
  let w := immWidth d
  s.alu (bitFieldOk d l p) d w [(a, w), (d, w)] fun _ vs =>
    let field := fun x => x / 2 ^ p.toNat % 2 ^ (l.toNat + 1) * 2 ^ p.toNat
    (vs.getD 1 0 - field (vs.getD 1 0) + vs.getD 0 0 % 2 ^ (l.toNat + 1) * 2 ^ p.toNat, 0)

/-- IADDI, ANDI, ORI and XORI (R109): the immediate in the width of the operation. -/
def State.immOp (s : State) (i : BitVec 12) (a d : Reg) (f : Nat → Nat → Nat → Nat) : Out :=
  let w := immWidth d
  let k := (s.imm i).toNat % 2 ^ w
  s.alu true d w [(a, w)] (iop1 fun x => f w x k)

def execIaddi (i : BitVec 12) (a d : Reg) (s : State) : Out := s.immOp i a d opAdd
def execAndi (i : BitVec 12) (a d : Reg) (s : State) : Out := s.immOp i a d fun _ x y => Nat.land x y
def execOri (i : BitVec 12) (a d : Reg) (s : State) : Out := s.immOp i a d fun _ x y => Nat.lor x y
def execXori (i : BitVec 12) (a d : Reg) (s : State) : Out := s.immOp i a d fun _ x y => Nat.xor x y

/-- SHFI (R110): a shift by an immediate amount. -/
def State.shfi (s : State) (w : BitVec 1) (n : BitVec 6) (a d : Reg) (f : Nat → Nat → Nat → Nat) : Out :=
  s.alu (shiftOk w n) d (wide w) [(a, wide w)] (iop1 fun x => f (wide w) x n.toNat)

def execShfiShl (w : BitVec 1) (n : BitVec 6) (a d : Reg) (s : State) : Out := s.shfi w n a d opShl
def execShfiShr (w : BitVec 1) (n : BitVec 6) (a d : Reg) (s : State) : Out := s.shfi w n a d opShr
def execShfiSra (w : BitVec 1) (n : BitVec 6) (a d : Reg) (s : State) : Out := s.shfi w n a d opSra
def execShfiRotl (w : BitVec 1) (n : BitVec 6) (a d : Reg) (s : State) : Out := s.shfi w n a d opRotl

/-- MOVI (R111): a 19-bit value, sign-extended. -/
def execMovi (i : BitVec 12) (j : BitVec 7) (d : Reg) (s : State) : Out :=
  let x : W64 := (i ++ j).signExtend 64
  s.alu true d (immWidth d) [] fun _ _ => (x.toNat % 2 ^ immWidth d, 0)

/-- ICMPI (R114): 64 bits wide for a scalar A or zero, else 32 per lane. Codes 11 to 15 are illegal. -/
def execIcmpi (i : BitVec 12) (a : Reg) (c : BitVec 4) (m : BitVec 3) (s : State) : Out :=
  let w := if isSz a then 64 else 32
  let k := (s.imm i).toNat % 2 ^ w
  s.cmpMask (decide (c.toNat < 11)) m.toNat [(a, w)] fun vs => icond c.toNat w (vs.getD 0 0) k

end Sys2Proof.Machine
end

