-- ==== Sys2Proof/Machine/LoadStore.lean ====
section
/-! DEFINITION. Plain loads and stores, ordered accesses, atomics and fences (R225 to R237). -/

namespace Sys2Proof.Machine

/-- Whether order `ord` of an access makes it wait for the replay of faulted accesses (R437): a release does, and an acquire
without an active lane, which acts as a fence and waits for the loads before it (R207). -/
def State.orderGate (s : State) (ord : Nat) (es : List Ea) : Except State Unit :=
  if releases ord || (acquires ord && es.isEmpty) then s.faultGate else .ok ()

/-- An access without an active lane: an ordered one acts as the fence of its order (R207), at DEV for RCORE. -/
def State.emptyAccess (s : State) (ord scope : Nat) : State :=
  (s.before s.cur.core ord (reach scope)).after s.cur.core ord (reach scope)

/-- Issues an access at its order and scope: the coherence actions before it, its lanes, the actions after it. A replay of
refused lanes repeats the actions (R206, R217). -/
def State.orderedAccess (s : State) (cls : CounterClass) (kind : MemKind) (size ord scope : Nat) (dst : Option (Nat × Bool))
    (reqs : List LaneReq) : State :=
  if reqs.isEmpty then s.emptyAccess ord scope
  else
    let c := s.cur.core
    ((s.before c ord scope).issueAccess cls kind size ord scope dst reqs).after c ord scope

/-- The checks of an access at issue, in their order: alignment, windows and rights (R226), EMPTY lines (R179), earlier faulted
accesses (R437), earlier copies of a copy context (R270), room in the counter (R221), requests (R13). -/
def State.issueGate (s : State) (nd : Need) (size ord : Nat) (cls : CounterClass) (es : List Ea) : Except State Unit := do
  s.checkEa nd size es
  s.emptyGate size es
  s.orderGate ord es
  s.copyOrderGate nd size es
  if !es.isEmpty then s.roomGate cls
  s.reqGate nd size es

/-- The runner of loads and LDO (R225, R226, R229, R232). -/
def State.loadOp (s : State) (ok : Bool) (size : Nat) (signed : Bool) (ord scope : Nat) (off : W64) (a d : Reg) : Out :=
  finish do
    s.trapGate s.parkPoint [(a, 64)]
    s.legal (loadOk d (8 * size) a && ok) [d, a]
    s.memGate
    s.interlock [(a, 64)] [(d, 8 * size)]
    let es := s.eas (isVec d) a off size
    s.issueGate .r size ord .ld es
    let reqs := es.map fun e => ({ lane := e.1, va := e.2, data := 0, data2 := 0 } : LaneReq)
    .ok (s.orderedAccess .ld (.load signed) size ord scope (s.dstOf d) reqs).advance

/-- A plain load: WAVE and CORE scope, relaxed (R203). -/
def State.load (s : State) (size : Nat) (signed : Bool) (i : BitVec 12) (a d : Reg) : Out :=
  s.loadOp true size signed 0 1 (s.imm i) a d

def execLdb (i : BitVec 12) (a d : BitVec 7) (s : State) : Out := s.load 1 false i a d
def execLdbs (i : BitVec 12) (a d : BitVec 7) (s : State) : Out := s.load 1 true i a d
def execLdh (i : BitVec 12) (a d : BitVec 7) (s : State) : Out := s.load 2 false i a d
def execLdhs (i : BitVec 12) (a d : BitVec 7) (s : State) : Out := s.load 2 true i a d
def execLdw (i : BitVec 12) (a d : BitVec 7) (s : State) : Out := s.load 4 false i a d
def execLdd (i : BitVec 12) (a d : BitVec 7) (s : State) : Out := s.load 8 false i a d
def execLdq (i : BitVec 12) (a d : BitVec 7) (s : State) : Out := s.load 16 false i a d

/-- The runner of stores, STO and RED: D is a source, read at issue (R225, R227, R230, R233, R236). -/
def State.storeOp (s : State) (ok : Bool) (kind : MemKind) (size ord scope : Nat) (off : W64) (a d : Reg) : Out :=
  finish do
    s.trapGate s.parkPoint [(a, 64), (d, 8 * size)]
    s.legal (storeOk d (8 * size) a && ok && s.streamsOk [(d, 8 * size)]) [d, a]
    s.memGate
    s.interlock [(a, 64), (d, 8 * size)] []
    let per := storePerLane d a
    let es := s.eas per a off size
    s.issueGate kind.need size ord .st es
    let (s, got) ← s.pullAll per [(d, 8 * size)]
    let reqs := es.map fun e =>
      ({ lane := e.1, va := e.2, data := s.val got e.1 (d, 8 * size), data2 := 0 } : LaneReq)
    .ok (s.orderedAccess .st kind size ord scope none reqs).advance

def State.store (s : State) (size : Nat) (i : BitVec 12) (a d : Reg) : Out :=
  s.storeOp true .store size 0 1 (s.imm i) a d

def execStb (i : BitVec 12) (a d : BitVec 7) (s : State) : Out := s.store 1 i a d
def execSth (i : BitVec 12) (a d : BitVec 7) (s : State) : Out := s.store 2 i a d
def execStw (i : BitVec 12) (a d : BitVec 7) (s : State) : Out := s.store 4 i a d
def execStd (i : BitVec 12) (a d : BitVec 7) (s : State) : Out := s.store 8 i a d
def execStq (i : BitVec 12) (a d : BitVec 7) (s : State) : Out := s.store 16 i a d

/-- LDO (R232). -/
def execLdo (sc : BitVec 3) (ord sz : BitVec 2) (a d : BitVec 7) (s : State) : Out :=
  s.loadOp (ldoOrderOk sc ord) (sizeOf sz) false ord.toNat sc.toNat 0 a d

/-- STO (R233). -/
def execSto (sc : BitVec 3) (ord sz : BitVec 2) (a d : BitVec 7) (s : State) : Out :=
  s.storeOp (stoOrderOk sc ord) .store (sizeOf sz) ord.toNat sc.toNat 0 a d

-- Atomics (R234 to R236) -----------------------------------------------------------------------------------------------

/-- The register that holds the swap value of CAS: after D, a pair on for 64 bits (R235). -/
def swapReg (d : Reg) (w : Nat) : Reg := if isVec d then d + BitVec.ofNat 7 (w / 32) else d + 1

/-- The runner of ATOM: every lane's operation is a separate atomic operation, in ascending lanes (R228). -/
def State.atom (s : State) (fn : Nat) (w : BitVec 1) (sc : BitVec 3) (ord : BitVec 2) (a d : Reg) : Out :=
  let n := if w = 0#1 then 32 else 64
  let cas := decide (fn = 9)
  finish do
    let reads : List Opnd := [(a, 64), (d, n)] ++ if cas then [(swapReg d n, n)] else []
    s.trapGate s.parkPoint reads
    s.legal (atomOk cas d n a && atomOrderOk sc ord) [d, a]
    s.memGate
    s.interlock reads [(d, n)]
    let es := s.eas (isVec d) a 0 (n / 8)
    s.issueGate .rw (n / 8) ord.toNat .ld es
    let reqs := es.map fun e =>
      ({ lane := e.1, va := e.2, data := s.val [] e.1 (d, n),
         data2 := if cas then s.val [] e.1 (swapReg d n, n) else 0 } : LaneReq)
    .ok (s.orderedAccess .ld (.atom fn) (n / 8) ord.toNat sc.toNat (s.dstOf d) reqs).advance

def execAtomAdd (w : BitVec 1) (sc : BitVec 3) (ord : BitVec 2) (a d : BitVec 7) (s : State) : Out := s.atom 0 w sc ord a d
def execAtomMins (w : BitVec 1) (sc : BitVec 3) (ord : BitVec 2) (a d : BitVec 7) (s : State) : Out := s.atom 1 w sc ord a d
def execAtomMinn (w : BitVec 1) (sc : BitVec 3) (ord : BitVec 2) (a d : BitVec 7) (s : State) : Out := s.atom 2 w sc ord a d
def execAtomMaxs (w : BitVec 1) (sc : BitVec 3) (ord : BitVec 2) (a d : BitVec 7) (s : State) : Out := s.atom 3 w sc ord a d
def execAtomMaxn (w : BitVec 1) (sc : BitVec 3) (ord : BitVec 2) (a d : BitVec 7) (s : State) : Out := s.atom 4 w sc ord a d
def execAtomAnd (w : BitVec 1) (sc : BitVec 3) (ord : BitVec 2) (a d : BitVec 7) (s : State) : Out := s.atom 5 w sc ord a d
def execAtomOr (w : BitVec 1) (sc : BitVec 3) (ord : BitVec 2) (a d : BitVec 7) (s : State) : Out := s.atom 6 w sc ord a d
def execAtomXor (w : BitVec 1) (sc : BitVec 3) (ord : BitVec 2) (a d : BitVec 7) (s : State) : Out := s.atom 7 w sc ord a d
def execAtomExch (w : BitVec 1) (sc : BitVec 3) (ord : BitVec 2) (a d : BitVec 7) (s : State) : Out := s.atom 8 w sc ord a d
def execAtomCas (w : BitVec 1) (sc : BitVec 3) (ord : BitVec 2) (a d : BitVec 7) (s : State) : Out := s.atom 9 w sc ord a d
def execAtomFadd (w : BitVec 1) (sc : BitVec 3) (ord : BitVec 2) (a d : BitVec 7) (s : State) : Out := s.atom 10 w sc ord a d
def execAtomFmin (w : BitVec 1) (sc : BitVec 3) (ord : BitVec 2) (a d : BitVec 7) (s : State) : Out := s.atom 11 w sc ord a d
def execAtomFmax (w : BitVec 1) (sc : BitVec 3) (ord : BitVec 2) (a d : BitVec 7) (s : State) : Out := s.atom 12 w sc ord a d

/-- The runner of RED (R236). -/
def State.red (s : State) (fn : Nat) (w : BitVec 1) (sc : BitVec 3) (ord : BitVec 2) (a d : Reg) : Out :=
  s.storeOp (stoOrderOk sc ord) (.red fn) (if w = 0#1 then 4 else 8) ord.toNat sc.toNat 0 a d

def execRedAdd (w : BitVec 1) (sc : BitVec 3) (ord : BitVec 2) (a d : BitVec 7) (s : State) : Out := s.red 0 w sc ord a d
def execRedMins (w : BitVec 1) (sc : BitVec 3) (ord : BitVec 2) (a d : BitVec 7) (s : State) : Out := s.red 1 w sc ord a d
def execRedMinn (w : BitVec 1) (sc : BitVec 3) (ord : BitVec 2) (a d : BitVec 7) (s : State) : Out := s.red 2 w sc ord a d
def execRedMaxs (w : BitVec 1) (sc : BitVec 3) (ord : BitVec 2) (a d : BitVec 7) (s : State) : Out := s.red 3 w sc ord a d
def execRedMaxn (w : BitVec 1) (sc : BitVec 3) (ord : BitVec 2) (a d : BitVec 7) (s : State) : Out := s.red 4 w sc ord a d
def execRedAnd (w : BitVec 1) (sc : BitVec 3) (ord : BitVec 2) (a d : BitVec 7) (s : State) : Out := s.red 5 w sc ord a d
def execRedOr (w : BitVec 1) (sc : BitVec 3) (ord : BitVec 2) (a d : BitVec 7) (s : State) : Out := s.red 6 w sc ord a d
def execRedXor (w : BitVec 1) (sc : BitVec 3) (ord : BitVec 2) (a d : BitVec 7) (s : State) : Out := s.red 7 w sc ord a d
def execRedFadd (w : BitVec 1) (sc : BitVec 3) (ord : BitVec 2) (a d : BitVec 7) (s : State) : Out := s.red 8 w sc ord a d
def execRedFmin (w : BitVec 1) (sc : BitVec 3) (ord : BitVec 2) (a d : BitVec 7) (s : State) : Out := s.red 9 w sc ord a d
def execRedFmax (w : BitVec 1) (sc : BitVec 3) (ord : BitVec 2) (a d : BitVec 7) (s : State) : Out := s.red 10 w sc ord a d

/-- FENCE (R237): release and acquire actions at a scope; order 0 is SC, which does both (R203, R216). It waits for the
replay of faulted accesses (R437). -/
def execFence (sc : BitVec 3) (ord : BitVec 2) (s : State) : Out :=
  finish do
    s.trapGate s.parkPoint []
    need (scopeOk sc false) s.illegalOperand
    s.memGate
    s.faultGate
    let c := s.cur.core
    let s := if ord = 1#2 then s else s.release c sc.toNat
    .ok (if ord = 2#2 then s else s.acquire c sc.toNat).advance

end Sys2Proof.Machine
end

