-- ==== Sys2Proof/Machine/Limm.lean ====
section
/-! DEFINITION. The LIMM prefix (R50 to R52): it fetches its follower and issues it as one unit, and fetching in
general (R46, R47). -/

namespace Sys2Proof.Machine

/-- Fetches the word at an address (R46, R47): MEMORY_FAULT without X rights, where the NAK is not the pager's, or where the
pager has refused this fetch, with sr.eaddr the address; else a wait for the pager; DATA_ERROR with CAUSE 0x11 for uncorrectable bits. `known` is the word of
the faulting instruction where there is one; else MAJOR and FN of the fault layout are free values (log 12). -/
def State.fetch (s : State) (va : W64) (known : Option W32) : Except State W32 :=
  let c := s.cur.core
  let layout := fun (cause : BitVec 8) =>
    match known with
    | some w => faultLayout s.myCore.lr.code s.pc w cause
    | none => faultLayout s.myCore.lr.code s.pc 0 cause ||| (Config.freeWord s.tick 0 &&& 0x1FFF00)
  let fault := fun (cause : BitVec 8) => s.trap 0x06 (layout cause) va 0
  match s.place c .x va 4 with
  | some (.mem ia) =>
    let h := s.home ia
    match (if s.hit c s.myCtx (ia / 128) then none else s.nak s.myCtx ia false) with
    | some code =>
      if (code = 0x01 ∨ code = 0x04) ∧ s.myPart.nofetch ≠ some (h / 65536) then .error (s.park (.fetch (h / 65536)))
      else .error (fault code)
    | none =>
      if s.readBad c s.myCtx 1 ia 4 true then .error ((s.metWords s.myCtx h 4).trap 0x07 (layout 0x11) va 0)
      else .ok (BitVec.ofNat 32 (s.memRead c s.myCtx 1 ia 4).2)
  | _ => .error (fault 0)

/-- LIMM (R50 to R52): the follower executes with the joined immediate; a follower that would take ILLEGAL_OPCODE gives
that trap, any other word but the majors of R51 gives LIMM_SEQUENCE, both at the LIMM. -/
noncomputable def execLimm (i : BitVec 26) (s : State) : Out :=
  match s.fetch (s.pc + 4) (some s.cur.word) with
  | .error t => .next t
  | .ok w =>
    if opcodeIllegal w then .next s.illegalOpcode
    else
      let s' : State := { s with cur := { s.cur with word := w, len := 8, pre := some i } }
      let im : BitVec 12 := fld w 14 12
      let a : Reg := fld w 7 7
      let d : Reg := fld w 0 7
      match bits w 26 6 with
      | 0x09 => execIaddi im a d s'
      | 0x0A => execAndi im a d s'
      | 0x0B => execOri im a d s'
      | 0x0C => execXori im a d s'
      | 0x0F => execIcmpi im a (fld w 3 4) (fld w 0 3) s'
      | 0x24 => execLdb im a d s'
      | 0x25 => execLdbs im a d s'
      | 0x26 => execLdh im a d s'
      | 0x27 => execLdhs im a d s'
      | 0x28 => execLdw im a d s'
      | 0x29 => execLdd im a d s'
      | 0x2A => execLdq im a d s'
      | 0x2B => execStb im a d s'
      | 0x2C => execSth im a d s'
      | 0x2D => execStw im a d s'
      | 0x2E => execStd im a d s'
      | 0x2F => execStq im a d s'
      | _ => .next (s.trap 0x04 (w.setWidth 64))

end Sys2Proof.Machine
end

