-- ==== Sys2Proof/Machine/Misc.lean ====
section
/-! DEFINITION. MISC, TRAP and SAFEPT: the end of lanes and of waves (R301), the join (R302), special registers (R32 to
R35, R303), the window (R304), safe points (R306), the trap instructions (R432, R433), the time base, trace marks and
energy reads (R455 to R457), and WAITC (R223). -/

namespace Sys2Proof.Machine

/-- ZTRAP (R63). -/
def execZtrap (_x : BitVec 21) (s : State) : Out := .next s.illegalOpcode

/-- NOP (R300). -/
def execNop (s : State) : Out := .next s.advance

-- The join (R302) --------------------------------------------------------------------------------------------------

/-- The parts in ascending order of an address, without repeats. -/
def insertW (x : W64) : List W64 → List W64
  | [] => [x]
  | y :: ys => if x.toNat < y.toNat then x :: y :: ys else if x = y then y :: ys else y :: insertW x ys

/-- The merged split of all parts parked at one WSYNC address. -/
def mergeAt (ps : AList Part) (pc : W64) : Part :=
  let at_ := (ps.filter fun p => p.2.pc == pc).map Prod.snd
  { slot := none, lanes := at_.foldl (fun m p => m ||| p.lanes) 0, em := at_.foldl (fun m p => m ||| p.em) 0, pc := pc + 4 }

/-- When every remaining part of a wave is parked at a WSYNC, the parts merge by address: the first four take the
slots, further ones enter the deferred list in ascending order (R302). The handler goes on in the split that holds the
part that was in it (R427). -/
def Agent.join (a : Agent) (stamp : Nat) : Agent :=
  if a.parts.isEmpty || a.parts.any fun p => p.2.wait != some .wsync then a
  else
    let addrs := a.parts.foldl (fun l p => insertW p.2.pc l) []
    let merged := addrs.map (mergeAt a.parts)
    let placed := (List.range merged.length).zip merged
    let there := fun (h : Nat) => ((a.parts.find? h).map fun p => addrs.findIdx fun x => x == p.pc).getD h
    { a with
      parts := placed.map fun (p : Nat × Part) =>
        (p.1, { p.2 with slot := if p.1 < 4 then some p.1 else none, stamp := stamp + p.1 })
      handling := a.handling.map fun h => (there h.1, h.2) }

def State.joinMe (s : State) : State :=
  let n := s.nextId
  { s.modMe (fun a => a.join n) with nextId := n + 20 }

def execWsync (s : State) : Out :=
  if s.me.role = .copy then .next s.advance else .next (s.park .wsync).joinMe

-- EXIT (R301) ------------------------------------------------------------------------------------------------------

/-- Every counter is 0 (R301). -/
def Agent.drained (a : Agent) : Bool := a.ld.isEmpty && a.st.isEmpty && a.eng.isEmpty && a.xc.isEmpty

/-- The agent ends: its wave slot is free, a baton its gang holds is freed (R160, R290), and with it perhaps its
workgroup ends; a task without RRET is resolved with nothing (R389). -/
def State.endAgent (s : State) (c k : Nat) : State :=
  match s.agent? c k with
  | none => s
  | some a =>
    let s := match (s.core c).wgs.find? a.wg with
      | some g => if a.role = Role.copy then s.leavePasses c a.wg g.uid else s
      | none => s
    let s := s.modCore c fun x =>
      let x := if a.gng = 0 then x else (x.dropGang a.wg a.gng).grantBaton
      let x : Core := { x with agents := x.agents.del k }
      if a.role = Role.copy then
        match x.wgs.find? a.wg with
        | some g => { x with wgs := x.wgs.put a.wg { g with copyEnded := true } }
        | none => x
      else x
    if (s.core c).wgOver a.wg then
      let s := match ((s.core c).wgs.find? a.wg).bind Wg.task with
        | some t => if t.returned then s else (s.release c 4).due (.handleSettle t.handle (.resolved 0 0 s.devNum))
        | none => s
      (s.endWg c a.wg).afterWg c
    else s

/-- EXIT of an agent's last part takes every deferred trap but those of a park whose point it is not (R301, R428, R438). -/
def Agent.exitTakes (a : Agent) (part : Nat) (t : Deferred) : Bool :=
  match t.at_ with
  | .park _ => a.parkPoint part t
  | _ => true

/-- EXIT (R301): ends the lanes of the split; the last part first waits for the counters, taking any deferred trap,
and then ends the wave or the context. The end of a handling split ends the in-handler state (R433). -/
def execExit (s : State) : Out :=
  finish do
    match s.takeDeferred (s.me.exitTakes s.cur.part) with
    | some t => .error t
    | none =>
      let a := s.me
      let last := decide (a.parts.length ≤ 1)
      if last then
        if a.role = .copy then need a.eng.isEmpty (s.park .exit) else need a.drained (s.park .exit)
        .ok (s.endAgent s.cur.core s.cur.agent)
      else
        let mine := match a.handling with | some (p, _) => p == s.cur.part | none => false
        let b : Agent := { a with parts := a.parts.del s.cur.part, handling := if mine then none else a.handling }
        .ok (s.setMe b).joinMe

-- Special registers (R32 to R35, R303) --------------------------------------------------------------------------------

/-- The stage of the core's plan; 0 for a task (R12, R32). -/
def Core.stageNo (x : Core) : Nat := match x.run with | .stage _ st => st | _ => 0

/-- The value of a special register (R32, R34). -/
def State.special (s : State) (n : Nat) : W64 :=
  let a := s.me
  let c := s.cur.core
  let copy := a.role = .copy
  match n with
  | 0 => BitVec.ofNat 64 a.index
  | 1 => BitVec.ofNat 64 a.wg
  | 2 => BitVec.ofNat 64 c
  | 3 => BitVec.ofNat 64 (clusterOf c)
  | 4 => BitVec.ofNat 64 (dieOf c)
  | 5 => BitVec.ofNat 64 s.devNum
  | 6 => BitVec.ofNat 64 s.myCore.stageNo
  | 7 => BitVec.ofNat 64 s.myCtx
  | 16 => if copy then 0 else a.gng.setWidth 64
  | 17 => BitVec.ofNat 64 a.wb
  | 18 => a.frm.setWidth 64
  | 19 => a.fflags.setWidth 64
  | 20 => a.tcode.setWidth 64
  | 21 => a.epc
  | 22 => a.einfo
  | 23 => a.eaddr
  | 24 => a.fmask
  | 25 => a.ckey
  | 26 => if copy then 0 else BitVec.ofNat 64 a.slot
  | 27 => BitVec.ofNat 64 (roleCode a.role)
  | 28 => BitVec.ofNat 64 a.usedSlots.length
  | 29 => a.twh.setWidth 64
  | 30 => s.myCore.lr.param
  | 31 => BitVec.ofNat 64 (s.cycle + Config.cycleBase c)
  | _ => if 8 ≤ n ∧ n < 16 then (a.lvl.getD (n - 8) 0).setWidth 64 else 0

def execSrd (a d : BitVec 7) (s : State) : Out :=
  finish do
    s.interlock [] [(d, 64)]
    need (isSz d && decide (a.toNat < 32)) s.illegalOperand
    .ok (s.setS d (s.special a.toNat)).advance

/-- The registers SWR writes (R32). -/
def swrNumbers : List Nat := [18, 19, 21, 25, 26, 29]

/-- SWR (R303): sr.slot is written by matrix waves only, and within the workgroup's slot total (R33, R162). -/
def execSwr (a d : BitVec 7) (s : State) : Out :=
  finish do
    s.interlock [(a, 64)] []
    let n := d.toNat
    if n = 26 then s.onlyMatrix
    need (isSz a && swrNumbers.contains n) s.illegalOperand
    let x := s.sval a
    let me := s.me
    if n = 26 then
      need (decide (me.slots = 0 ∨ x.toNat % 16 + me.slots ≤ s.myCore.lr.slotTotal)) s.illegalOperand
    let me : Agent := match n with
      | 18 => { me with frm := x.setWidth 2 }
      | 19 => { me with fflags := x.setWidth 5 }
      | 21 => { me with epc := x }
      | 25 => { me with ckey := x }
      | 26 => { me with slot := x.toNat % 16 }
      | _ => { me with twh := x.setWidth 16 }
    .ok (s.setMe me).advance

/-- WINB (R27, R304). -/
def execWinb (a : BitVec 7) (s : State) : Out :=
  finish do
    s.interlock [(a, 64)] []
    need (isSz a && s.me.role != .copy) s.illegalOperand
    let x := s.sval a
    need (decide (x.toNat % 32 = 0 ∧ x.toNat + 96 ≤ s.me.vregs)) (s.trap 0x0D x)
    .ok (s.modMe fun me => { me with wb := x.toNat }).advance

-- Traps (R432, R433) -----------------------------------------------------------------------------------------------------

/-- A trap whose sr.epc is the address after the instruction (R426). -/
def State.trapAfter (s : State) (code : BitVec 8) : State :=
  s.takeTrap s.cur.core s.cur.agent s.cur.part { code := code, einfo := 0, eaddr := 0, fmask := 0 } (s.pc + 4)

def execBkpt (s : State) : Out := .next (s.trapAfter 0x12)

def execTrap (c : BitVec 8) (s : State) : Out :=
  .next (if 0x20 ≤ c.toNat ∧ c.toNat ≤ 0x3F then s.trapAfter c else s.illegalOperand)

def execRft (s : State) : Out :=
  .next (
    if s.me.handling.isNone then s.illegalOperand
    else if s.me.epc.toNat % 4 ≠ 0 then s.alignTrap s.me.epc
    else s.returnFromTrap)

-- Others ---------------------------------------------------------------------------------------------------------------

/-- SAFEPT (R306): parks while a pre-emption is pending, which resumption ends (R309). -/
def execSafept (n : BitVec 12) (s : State) : Out :=
  finish do
    need (decide (n.toNat < s.myCore.lr.lmcount)) s.illegalOperand
    if s.myCore.pre = .requested then .error (s.park (.safept n.toNat))
    .ok s.advance

/-- YIELD (R305): a wave is passed over until YIELD_EXPIRE, a context for one round of the sequencer. -/
def execYield (s : State) : Out :=
  let t := s.modMe fun a => { a with yielding := true }
  .next (if s.me.role = .copy then t else t.due (.yieldExpire s.cur.core s.cur.agent)).advance

/-- Error bound of the time base in ns (R455). -/
def State.errEst (s : State) : Nat :=
  let e := match s.ptp.st with
    | .unsync => 65535
    | .locked => (s.ptp.offsets.foldl (fun m o => max m o.natAbs) 0) + 20
    | .holdover => s.ptp.bound + 5 * ((s.now - s.ptp.lastGood) / 1000000)
  min e 65535

/-- CLKRD (R455): time and status of the time base. -/
def execClkrd (d : BitVec 7) (s : State) : Out :=
  finish do
    s.interlock [] [(d, 128)]
    need (evenScalar d) s.illegalOperand
    let st := match s.ptp.st with | .unsync => 0 | .locked => 1 | .holdover => 2
    .ok (s.setPair d (BitVec.ofNat 64 s.now) (BitVec.ofNat 64 (s.errEst * 65536 + st))).advance

/-- TMARK (R456, R458). -/
def execTmark (a : BitVec 7) (s : State) : Out :=
  finish do
    s.interlock [(a, 64)] []
    need (isSz a) s.illegalOperand
    let pay : BitVec 128 := BitVec.ofNat 64 (s.me.index + 256 * s.me.wg) ++ s.sval a
    .ok (s.trace (dieOf s.cur.core) 4 s.cur.core s.myCtx pay).advance

/-- ERD (R457): energy counts, dropped records, and the projection of the stage. A task has no stage: what selector 6
gives there is a free value (log 17). -/
def execErd (a d : BitVec 7) (s : State) : Out :=
  finish do
    s.interlock [(a, 64)] [(d, 64)]
    need (isSz a && isSz d) s.illegalOperand
    let x := s.myCore
    let sel := (s.sval a).toNat
    need (decide (sel < 7)) s.illegalOperand
    let v : W64 := match sel with
      | 0 => BitVec.ofNat 64 x.energy
      | 1 => BitVec.ofNat 64 ((x.wgs.find? s.me.wg).elim 0 Wg.energy)
      | 2 => BitVec.ofNat 64 (s.ctx s.myCtx).winEnergy
      | 3 => BitVec.ofNat 64 s.winEnergy
      | 4 => BitVec.ofNat 64 s.devEnergy
      | 5 => BitVec.ofNat 64 (s.die (dieOf s.cur.core)).trDropped
      | _ =>
        match x.run with
        | .stage pl st =>
          BitVec.ofNat 64 (((s.plans.find? pl).bind fun p => p.stages[st]?).elim 0 StageSt.proj)
        | _ => Config.freeWord s.tick 1
    .ok (s.setS d v).advance

/-- A counter is at or below its threshold; 7 does not wait (R223). -/
def underThreshold (l : List OpRec) (t : BitVec 3) : Bool := decide (t.toNat = 7 ∨ l.length ≤ t.toNat)

/-- The deferred traps whose trap point a WAITC is: the park point on LD and ST (R438), and those of operations that its
LD (R441), ENG or CP (R170, R273) or XC (R366) threshold covers. -/
def Agent.waitcTakes (a : Agent) (part : Nat) (ld st eng xc : BitVec 3) (t : Deferred) : Bool :=
  match t.at_ with
  | .park _ => (ld != 7 || st != 7) && a.parkPoint part t
  | .loads _ => a.covers .ld ld t.seq
  | .vat | .copy => a.covers .eng eng t.seq
  | .hoop => a.covers .xc xc t.seq

def execWaitc (ld st eng xc : BitVec 3) (s : State) : Out :=
  finish do
    match s.takeDeferred (s.me.waitcTakes s.cur.part ld st eng xc) with
    | some t => .error t
    | none =>
      let a := s.me
      need (underThreshold a.ld ld && underThreshold a.st st && underThreshold a.eng eng && underThreshold a.xc xc)
        (s.park (.waitc ld st eng xc))
      .ok s.advance

end Sys2Proof.Machine
end

