-- ==== Sys2Proof/Machine/Replay.lean ====
section
/-! DEFINITION. The replay of faulted accesses once the pager has answered, and the resumption of memory issue (R436 to
R439). -/

namespace Sys2Proof.Machine

/-- Every NAK of an agent has been answered. -/
def Agent.allAnswered (a : Agent) : Bool := a.faults.all fun f => f.reqs.all fun r => r.answer.isSome

/-- The trap of an access with refused lanes (R438): its lowest refused lane gives the address and the cause. -/
def State.refusal (s : State) (c : Nat) (f : Access) : Option TrapInfo :=
  let bad := f.reqs.filter fun r => r.answer == some false
  bad.head?.map fun r =>
    { code := 0x06, einfo := faultLayout (s.core c).lr.code f.pc f.word r.code, eaddr := r.va,
      fmask := maskOf (bad.map LaneReq.lane) }

/-- A trap of a refused access is pending; until memory issue resumes it is not yet known where it is taken (R438). -/
def Agent.refused (a : Agent) (f : Access) (info : TrapInfo) : Agent :=
  { a with traps := a.traps ++ [{ op := f.id, seq := a.seqOf f.cls f.id, at_ := .park none, info := info }] }

/-- Replays one faulted access for its resolved lanes, with the actions of its order, and records the refused ones (R206, R217,
R436). -/
def State.replay (s : State) (c k : Nat) (f : Access) : State :=
  let s := s.modAgent c k fun a => { a with faults := a.faults.filter fun g => g.id != f.id }
  let s := match s.refusal c f with
    | some info => s.modAgent c k fun a => a.refused f info
    | none => s
  match (s.before c f.ord f.scope).runAccess c k { f with reqs := f.reqs.filter fun r => r.answer == some true } with
  | (s, []) =>
    ((s.after c f.ord f.scope).modAgent c k fun a => { a with replays := a.replays ++ [f.id] }).due (.accessComplete c k f.cls f.id)
  | (s, r :: rs) =>
    (s.modAgent c k fun a => { a with faults := a.faults ++ [{ f with reqs := r :: rs }] }).due (.nakReport c k f.id)

/-- Replays every faulted access of an agent, in issue order (R436). -/
def State.replayAll (s : State) (c k : Nat) : State :=
  ((s.agentD c k).faults).foldl (fun (s : State) f => s.replay c k f) s

/-- Memory issue resumes once every replay is complete (R436); the traps of refused lanes are taken at the first instruction
that the park has held (R438). -/
def Agent.resumeMem (a : Agent) : Agent :=
  if a.memParked && a.faults.isEmpty && a.replays.isEmpty then
    { a with memParked := false, held := none,
             traps := a.traps.map fun t => match t.at_ with | .park none => { t with at_ := .park a.held } | _ => t }
  else a

/-- A replay is complete. -/
def Agent.replayDone (a : Agent) (id : Nat) : Agent := Agent.resumeMem { a with replays := a.replays.filter fun r => r != id }

end Sys2Proof.Machine
end

