-- ==== Sys2Proof/Machine/EvExec.lean ====
section
/-! DEFINITION. Events of a core (R180, R181, R221, R291, R297, R305, R307 to R309): a wave is promoted, a parked part
wakes, a try-wait ends, accesses and exchange stores complete, an access to an EMPTY line times out, and pre-emption. -/

namespace Sys2Proof.Machine

-- Readiness and waking (R291, R297) ----------------------------------------------------------------------------------------

/-- A split in a slot that is not parked. -/
def Part.running (p : Part) : Bool := p.slot.isSome && p.wait.isNone

/-- The part may issue as far as the handler of its wave allows (R427). -/
def Agent.mayIssue (a : Agent) (part : Nat) : Bool :=
  match a.handling with
  | some (p, _) => p == part
  | none => true

/-- The VALUE of a signal is at most a threshold, or it can no longer be read, which ends the wait. -/
def State.sigWakes (s : State) (c : Nat) (va thr : W64) : Bool :=
  match s.place c .rw va 16 with
  | some (.pool off) => (BitVec.ofNat 64 ((s.core c).poolRead ((s.core c).phys off) 8)).sle thr
  | some (.mem ia) =>
    let t := s.flushLine c (ia / 128)
    (s.nak (s.ctxOf c) ia false).isSome || (BitVec.ofNat 64 (t.homeRead ia 8)).sle thr || t.memBad (s.home ia) 16
  | none => true

/-- Whether the condition of a wait holds (R297), so that its part wakes. The waits that their completion resumes are
never woken. -/
def State.waitReady (s : State) (c k : Nat) (a : Agent) (part : Nat) (w : Wait) : Bool :=
  let x := s.core c
  let me : PipeWait := { core := c, agent := k, part := part }
  match w with
  | .wsync | .rdv | .prsv _ _ | .rret _ => false
  | .baton => x.baton == some (a.wg, a.gng)
  | .exit => (if a.role = .copy then a.eng.isEmpty else a.drained) || a.traps.any (a.exitTakes part)
  | .mem => !a.memParked && a.faults.isEmpty
  | .safept _ => x.pre == .none
  | .bar name ph _ => (s.barGet c (barAt name)).done ph.toNat
  | .waitc ld st eng xc =>
    a.traps.any (a.waitcTakes part ld st eng xc) ||
      (underThreshold a.ld ld && underThreshold a.st st && underThreshold a.eng eng && underThreshold a.xc xc)
  | .lines offs _ => (x.emptyOf offs).isEmpty
  | .fetch page => (a.parts.find? part).any (fun p => p.nofetch == some page) || !((s.nak (s.ctxOf c) (page * 65536) false).any resolvable)
  | .crsv pl n =>
    match s.pipe? pl n with
    | none => true
    | some (_, q) => x.moving || q.closed || (decide (0 < q.cfree) && (q.waitC.head?.any fun v => v.same me))
  | .pcmt pl n t => !(s.pushing c a.wg pl n t)
  | .lpass va =>
    match s.sweep? (s.ctxOf c) va with
    | none => true
    | some v =>
      !(s.onStage c v) || ((v.st == .sealed || v.st == .done) && s.sweepIdle v) ||
        (x.moving && !(v.passes.any fun p => p.holder == some (s.uidOf c k)))
  | .hget va slot => (((s.sweep? (s.ctxOf c) va).bind fun v => v.slots.find? slot).map QSlot.st) != some .active
  | .hres h => ((s.hentry (s.ctxOf c) h).map HEntry.st) != some .pending
  | .sig va thr => s.sigWakes c va thr

/-- The parts of an agent whose waits end. -/
def State.wakeable (s : State) (c k : Nat) (a : Agent) : List Nat :=
  (a.parts.filter fun p => match p.2.wait with
    | some w => p.2.expired || s.waitReady c k a p.1 w
    | none => false).map Prod.fst

/-- PART_WAKE (R297): the waiting instruction is completed when the part next issues, now that its condition holds; the members
of a closed VACQ go on after it (R153). -/
def execPartWake (core agent part : Nat) (s : State) : Out :=
  match s.agent? core agent with
  | none => .next s
  | some a =>
    match a.parts.find? part with
    | none => .next s
    | some p =>
      if !((s.wakeable core agent a).contains part) then .next s
      else
        let (stamp, s) := s.fresh
        let q : Part := { p with wait := none, stamp := stamp, pc := if p.wait = some .baton then p.pc + 4 else p.pc }
        .next (s.setAgent core agent { a with parts := a.parts.put part q })

/-- A try-wait (R297). -/
def Wait.tries : Wait → Bool
  | .bar _ _ t => t
  | .hget _ _ | .hres _ | .sig _ _ => true
  | _ => false

/-- TRYWAIT_EXPIRE (R297): the time of a try-wait has run out; it returns its predicate when its part next issues. -/
def execTrywaitExpire (core agent part : Nat) (s : State) : Out :=
  match s.agent? core agent with
  | none => .next s
  | some a =>
    match a.parts.find? part with
    | none => .next s
    | some p =>
      if p.wait.any Wait.tries then
        .next (s.setAgent core agent { a with parts := a.parts.put part { p with expired := true } })
      else .next s

/-- WAVE_PROMOTE (R291). -/
def execWavePromote (core agent : Nat) (s : State) : Out :=
  match s.agent? core agent with
  | none => .next s
  | some a =>
    if agent < 128 ∧ a.parts.any (fun p => p.2.running && a.mayIssue p.1) then .next (s.setAgent core agent { a with promoted := true })
    else .next s

/-- YIELD_EXPIRE (R305): the 16 CCLK of a wave are over; a copy context is passed over by rounds. -/
def execYieldExpire (core agent : Nat) (s : State) : Out :=
  .next (if agent < 128 then s.modAgent core agent fun a => { a with yielding := false } else s)

-- Completion (R181, R221, R222) --------------------------------------------------------------------------------------------

/-- ACCESS_COMPLETE (R221): an access that the memory side has served, or an operation that its unit has answered; a PLNCH, when
the controller has checked its plan (R343). An access with lanes at the pager, an exchange store in flight, a message under way
and a suspended wait are not complete; one with requests at a base die is once they are answered (R473). -/
def execAccessComplete (core agent : Nat) (cls : CounterClass) (op : Nat) (s : State) : Out :=
  match s.msg? op, s.agent? core agent with
  | some { kind := .plan va prio, id, core, agent, ctx, task, gone }, _ =>
    .next (s.planArrive { kind := .plan va prio, id, core, agent, ctx, task, gone } va prio)
  | _, none => .next s
  | _, some a =>
    let held := a.faults.any (fun f => f.id == op) || ((s.core core).xsts.any fun o => o.id == op) ||
      (s.msgs.any fun m => m.id == op) || a.parts.any fun p => p.2.op == some op
    if cls = .eng ∨ held then .next s
    else if s.awaitsBase op then .next (s.due (.accessComplete core agent cls op))
    else .next (((s.complete core agent cls op).regReady core agent op).modAgent core agent fun a => a.replayDone op)

/-- Physical offset of an offset in a core's shadow bank (R36, R181). -/
def Core.shadowAt (x : Core) (off : Nat) : Nat := if x.liveHigh then x.scrB + off else x.scrB + x.bankB + off

/-- XST_LAND (R181). -/
def execXstLand (core op : Nat) (s : State) : Out :=
  match (s.core core).xsts.find? fun o => o.id == op with
  | none => .next s
  | some o =>
    let s := (o.writes.zip o.peers).foldl (fun (s : State) w =>
      s.modCore w.2 fun x => x.poolWrite (x.shadowAt w.1.1) w.1.2.1 w.1.2.2) s
    let s := s.modCore core fun (x : Core) => { x with xsts := x.xsts.filter fun y => y.id != op }
    .next (s.complete core o.agent .xc op)

/-- EMPTY_LINE_TIMEOUT (R180, R170, R273): a part traps at its instruction; a copy and the Vat end as they state. -/
def execEmptyLineTimeout (core : Nat) (who : Waiter) (s : State) : Out :=
  match who with
  | .part k p =>
    match ((s.agentD core k).parts.find? p).bind fun q => q.wait.map fun w => (q, w) with
    | some (q, .lines offs word) =>
      match (s.core core).emptyOf offs with
      | [] => .next s
      | l :: ls =>
        let info : TrapInfo :=
          { code := 0x08, einfo := word.setWidth 64, eaddr := ownPool (128 * ls.foldl min l), fmask := 0 }
        .next (s.takeTrap core k p info q.pc)
    | _ => .next s
  | .copy op =>
    match s.copyOp? core op with
    | none => .next s
    | some o =>
      match s.srcAt o o.row o.col with
      | .pool off =>
        let u := s.unitAt o
        if o.fn ≠ 5 ∧ !o.moved ∧ o.suspended.isNone then
          match (s.core core).emptyOf (linesOf off u.sb) with
          | [] => .next s
          | l :: _ => .next (s.due (.copyAbort core op 0x13 (ownPool (128 * l))))
        else .next s
      | _ => .next s
  | .vat => .next (s.due (.vatFault core 0x08))

-- Pre-emption (R306 to R309) -----------------------------------------------------------------------------------------------

/-- The cores of a core's cluster that are pre-empted with it: those that run its stage, where it has an exchange region
(R183, R307). -/
def State.preGroup (s : State) (c : Nat) : List Nat :=
  let x := s.core c
  match x.run with
  | .stage _ _ =>
    if x.scrTop < x.xchTop then ((List.range 4).map fun i => 4 * clusterOf c + i).filter fun k => (s.core k).run == x.run
    else [c]
  | _ => [c]

/-- PREEMPT_REQUEST (R307): the cores stop admitting, and their parts stop at safe points. -/
def execPreemptRequest (core : Nat) (s : State) : Out :=
  let group := s.preGroup core
  if (s.core core).wgs.isEmpty ∨ group.any (fun k => (s.core k).pre != .none) then .next s
  else
    .next (group.foldl (fun (s : State) k => (s.modCore k fun (x : Core) => { x with pre := .requested }).due (.preemptSave k)) s)

/-- A part counts as stopped: it is parked, or it is an entry of the list (R307). -/
def Part.stopped (p : Part) : Bool := p.slot.isNone || p.wait.isSome

def Core.allStopped (x : Core) : Bool := x.agents.all fun a => a.2.parts.all fun p => p.2.stopped

/-- PREEMPT_FORCE (R308): after 2^20 CCLK the parts that have not stopped stop where they stand, and the event is
logged. Its DETAIL is not stated: a free value (log 20). -/
def execPreemptForce (core : Nat) (s : State) : Out :=
  let x := s.core core
  if x.pre = .requested ∧ !x.allStopped then
    let s := s.modCore core fun (x : Core) => { x with pre := .forced }
    .next (s.find (dieOf core) 13 7 (x.ctx.getD 0xFF) s.freeDetail core 0 true)
  else .next s

/-- What a pre-emption withdraws from an agent before its counters are looked at: operations of suspended waits, which
re-execution counts anew. -/
def Agent.withdraw (a : Agent) : Agent :=
  { a with xc := a.parts.foldl (fun l p => match p.2.op with | some id => completeOp id l | none => l) a.xc,
           parts := a.parts.map fun (p : Nat × Part) => (p.1, { p.2 with op := none, latch := none }) }

/-- What an agent has counted is complete, but for accesses whose every NAK the pager has answered: their replay is carried
through the save (R439). -/
def Agent.quiet (a : Agent) : Bool :=
  let b := a.withdraw
  a.allAnswered && a.replays.isEmpty && a.regWait.isEmpty &&
    (b.ld ++ b.st ++ b.eng ++ b.xc).all fun o => o.done || a.faults.any fun f => f.id == o.id

/-- Step 3 of R307 has been reached: every counter is 0 and nothing of the core is in flight. -/
def Core.quietForSave (x : Core) : Bool :=
  x.copies.isEmpty && x.xsts.isEmpty && x.drains.isEmpty && x.vatQ.isEmpty && x.agents.all fun a => a.2.quiet

/-- The live masks of the safe points at which a wave's parts are parked, joined: v, s and m registers (R306, R307).
None where a part waits elsewhere or has not stopped, or a mask cannot be read: everything is saved. -/
def State.liveOf (s : State) (c : Nat) (a : Agent) : Option (Nat × Nat × Nat) :=
  let lr := (s.core c).lr
  a.parts.foldl (fun (acc : Option (Nat × Nat × Nat)) p =>
    match acc, p.2.wait, p.2.slot with
    | some (v, x, m), some (.safept n), _ =>
      (s.homeBytes (s.ctxOf c) (lr.lmtab + BitVec.ofNat 64 (16 * n)) 16).map fun bs =>
        (Nat.lor v (leNat (bs.take 12)), Nat.lor x (leNat ((bs.drop 12).take 3)), Nat.lor m (leNat (bs.drop 15)))
    | some l, none, none => some l
    | _, _, _ => none) (some (0, 0, 0))

/-- Members of a VACQ whose gang has the baton go on after it (R153, R157). -/
def Agent.tookBaton (a : Agent) : Agent :=
  { a with parts := a.parts.map fun (p : Nat × Part) =>
      (p.1, if p.2.wait = some .baton then { p.2 with wait := none, pc := p.2.pc + 4 } else p.2) }

/-- What is saved of a wave or a context (R307, R309): registers that are not live read zero afterwards. -/
def State.savedAgent (s : State) (c : Nat) (a : Agent) : Agent :=
  let a := a.withdraw
  let a := if (s.core c).baton = some (a.wg, a.gng) then a.tookBaton else a
  if a.role = .copy then a
  else
    match s.liveOf c a with
    | none => a
    | some (v, x, m) =>
      let live := fun (e : Nat × W32) =>
        let r := e.1 / 64
        !(decide (a.wb ≤ r ∧ r < a.wb + 96)) || v.testBit (r - a.wb)
      { a with v := a.v.filter live, s := a.s.filter fun e => x.testBit e.1, m := a.m.filter fun e => m.testBit e.1 }

/-- The state of a core is saved (R157, R307): its waits at pipes, sweeps and the baton are withdrawn. -/
def State.saveCore (s : State) (c : Nat) : State :=
  let x := s.core c
  let held : Option (Nat × BitVec 16) := x.baton
  let img : CoreImage :=
    { agents := x.agents.map fun (p : Nat × Agent) => (p.1, s.savedAgent c p.2), wgs := x.wgs, pool := x.pool,
      liveHigh := x.liveHigh, emptyLines := x.emptyLines, emptier := x.emptier, badPool := x.badPool, acc := x.acc,
      nomActive := x.nomActive, nomShadow := x.nomShadow, active := x.active, shadow := x.shadow, heldBaton := held,
      run := x.run, ctx := x.ctx, lr := x.lr,
      forced := if x.pre = .forced then (x.agents.filter fun a => decide (a.1 < 128) && a.2.parts.any fun p => !p.2.stopped).map Prod.fst else [] }
  let s := s.setCore c { x with image := some img, pre := .saved, agents := [], wgs := [], baton := none, batonQ := [], rdv := [] }
  let stays := fun (w : PipeWait) => w.core != c
  let plans := s.plans.map fun (p : Nat × PlanSt) =>
    let pipes := p.2.pipes.map fun (q : PipeSt) => { q with waitP := q.waitP.filter stays, waitC := q.waitC.filter stays }
    (p.1, { p.2 with pipes := pipes })
  let sweeps := s.sweeps.map fun (v : Sweep) => { v with waiting := v.waiting.filter fun w => stays w.at_ }
  { s with plans := plans, sweeps := sweeps }

/-- PREEMPT_SAVE (R307): once every part of the group is stopped and every counter has drained, the state is saved. -/
def execPreemptSave (core : Nat) (s : State) : Out :=
  if (s.core core).pre ≠ .requested ∧ (s.core core).pre ≠ .forced then .next s
  else
    let group := (s.preGroup core).filter fun k => (s.core k).pre != .none
    if group.all fun k =>
        let x := s.core k
        (x.pre == .forced || (x.pre == .requested && x.allStopped)) && x.quietForSave then
      .next (group.foldl (fun (s : State) k => s.saveCore k) s)
    else .next (s.due (.preemptSave core))

/-- A part at resumption (R309): it executes its instruction again, but for an RRET whose resolution was sent, which goes
on when the handle has settled (R389). -/
def State.resumedPart (s : State) (ctx : Nat) (p : Part) (stamp : Nat) : Part :=
  let settled := fun (h : W64) => ((s.hentry ctx h).map HEntry.st) != some .pending
  match p.wait with
  | some (.rret h) => if settled h then { p with wait := none, pc := p.pc + 4, stamp := stamp } else p
  | some _ => { p with wait := none, expired := false, stamp := stamp }
  | none => p

/-- The saved state of a core is restored (R309). -/
def State.resumeCore (s : State) (c : Nat) (img : CoreImage) : State :=
  let (stamp, s) := s.fresh
  let ctx := img.ctx.getD 0
  let wd := img.lr.flags / 2 % 2 == 1
  let agents := img.agents.map fun (p : Nat × Agent) =>
    let parts := p.2.parts.map fun (q : Nat × Part) => (q.1, s.resumedPart ctx q.2 stamp)
    (p.1, { p.2 with parts := parts, wdPending := p.2.wdPending || (wd && img.forced.contains p.1) })
  let x := s.core c
  let y : Core := { x with
    regTop := img.lr.regTop, scrTop := img.lr.scrTop, xchTop := img.lr.xchTop, agents := agents, wgs := img.wgs, pool := img.pool,
    liveHigh := img.liveHigh, emptyLines := img.emptyLines, emptier := img.emptier, badPool := img.badPool, acc := img.acc, run := img.run,
    ctx := img.ctx, lr := img.lr, baton := img.heldBaton, batonQ := [], rdv := [], pre := .none, image := none }
  let y : Core := if img.heldBaton.isSome then
      { y with nomActive := img.nomActive, nomShadow := img.nomShadow, active := img.active, shadow := img.shadow }
    else y
  -- pending replays run before a wave's first instruction (R439)
  ((y.agents.filter fun p => !p.2.faults.isEmpty).foldl (fun (s : State) p => s.replayAll c p.1) (s.setCore c y)).due (.wgAdmit c)

/-- RESUME (R309): the cores that were pre-empted together resume together (R183). -/
def execResume (core : Nat) (s : State) : Out :=
  if (s.core core).pre ≠ .saved then .next s
  else
    let group := (s.preGroup core).filter fun k => (s.core k).pre == .saved
    .next (group.foldl (fun (s : State) k => match (s.core k).image with
      | some img => s.resumeCore k img
      | none => s) s)

end Sys2Proof.Machine
end

