-- ==== Sys2Proof/Machine/EvPlan.lean ====
section
/-! DEFINITION. Events of the plan controller, the balancer and the power manager (R316, R319 to R324, R337 to R342,
R457): a plan starts, ends and is drained, a core moves, deadlock is judged, energy is counted. -/

namespace Sys2Proof.Machine

-- Start (R316, R317, R323) -------------------------------------------------------------------------------------------------

/-- A core that no plan holds and that runs nothing. -/
def State.freeCore (s : State) (c : Nat) : Bool :=
  let x := s.core c
  (x.run == .idle || (x.run == .tasks && x.wgs.isEmpty)) && x.pre == .none && !x.noNew && x.image.isNone &&
    s.plans.all fun p => !(p.2.stages.any fun t => t.device == s.devNum && t.cores.contains c)

/-- Cores a context holds on the device: those given to its plans, and those that run its tasks. -/
def State.heldCores (s : State) (ctx : Nat) : Nat :=
  ((List.range 128).filter fun c =>
    ((s.core c).run != .idle && (s.core c).ctx == some ctx) ||
      s.plans.any fun p => p.2.ctx == ctx && p.2.stages.any fun t => t.device == s.devNum && t.cores.contains c).length

/-- The cores of the stages in index order: each takes the lowest free cores of its dies; none where some are lacking. -/
def State.pickCores (s : State) : List StageSt → List Nat → Option (List StageSt)
  | [], _ => some []
  | t :: ts, taken =>
    if t.device ≠ s.devNum then (s.pickCores ts taken).map (t :: ·)
    else
      let free := (List.range 128).filter fun c => t.dieMask.testBit (dieOf c) && s.freeCore c && !(taken.contains c)
      let mine := free.take t.coreInit
      if mine.length < t.coreInit then none
      else (s.pickCores ts (mine ++ taken)).map ({ t with cores := mine } :: ·)

/-- The waiting plan that is first in order (R316). -/
def State.firstWaiting (s : State) : Option (Nat × PlanSt) :=
  (s.plans.filter fun p => !p.2.running && p.2.ending.isNone).foldl (fun (b : Option (Nat × PlanSt)) p =>
    match b with
    | some q => if p.2.prio < q.2.prio ∨ (p.2.prio = q.2.prio ∧ p.2.order < q.2.order) then some p else b
    | none => some p) none

/-- A stage as its plan starts. -/
def StageSt.begin (t : StageSt) : StageSt :=
  let t : StageSt := { t with running := true }
  if t.kind = 0 then (t.setNode 0 [(t.rangeBegin, t.rangeEnd)]).distribute fun _ => false else t

/-- The granules of a pipe's vault slots (R401). -/
def PipeSt.granules (q : PipeSt) : List Nat :=
  let r := q.vaultRange
  if r.1 < r.2 then (List.range ((r.2 - 1) / 65536 + 1 - r.1 / 65536)).map fun i => r.1 / 65536 + i else []

/-- The granules of a plan's pipes on this device, each with its die. -/
def State.planGranules (s : State) (p : PlanSt) : List (Nat × Nat) :=
  ((p.pipes.filter fun q => (p.stages[q.consumer]?).any fun t => t.device == s.devNum).flatMap fun q =>
    q.granules.map fun g => (q.homeDie, g)).eraseDups

/-- The plan controller gives the slots of a plan's pipes to its context (R401, R402). -/
def State.takeVault (s : State) (p : PlanSt) : State :=
  (s.planGranules p).foldl (fun (s : State) g =>
    if (s.die g.1).vaultOwn.find? g.2 = some p.ctx then s else s.passGranule g.1 g.2 (some p.ctx)) s

/-- It takes them back, but for a granule that another plan of the context still uses. -/
def State.leaveVault (s : State) (p : PlanSt) : State :=
  let kept := (s.plans.filter fun q => q.2.ctx == p.ctx && q.2.running).flatMap fun q => s.planGranules q.2
  ((s.planGranules p).filter fun g => !(kept.contains g) && (s.die g.1).vaultOwn.find? g.2 == some p.ctx).foldl
    (fun (s : State) g => s.passGranule g.1 g.2 none) s

/-- PLAN_START (R316): the waiting plan that is first in order starts, if its cores and budget allow it. -/
def execPlanStart (s : State) : Out :=
  match s.firstWaiting with
  | none => .next s
  | some (n, p) =>
    let need := (p.stages.filter fun t => t.device == s.devNum).foldl (fun k t => k + t.coreInit) 0
    match s.pickCores p.stages [] with
    | some ts =>
      if need + s.heldCores p.ctx ≤ (s.ctx p.ctx).cbCores ∧ (s.ctx p.ctx).st = .active then
        let ts := ts.map fun t => if t.device = s.devNum then t.begin else t
        let loads := ((List.range ts.length).zip ts).flatMap fun (k : Nat × StageSt) =>
          if k.2.device = s.devNum then k.2.cores.map fun c => Instr.launchLoad c p.ctx k.2.lrAddr (.stage n k.1) else []
        let more := if s.plans.any fun q => q.1 != n && !q.2.running then [Instr.planStart] else []
        let s := s.takeVault p
        .next { s with plans := s.plans.put n { p with stages := ts, running := true }, pending := s.pending ++ loads ++ more }
      else .next (s.due .planStart)
    | none => .next (s.due .planStart)

-- The end of stages and plans (R319 to R321) -------------------------------------------------------------------------------

/-- A workgroup of a stage is resident, or saved by a pre-emption. -/
def State.stageBusy (s : State) (pl st : Nat) : Bool := s.cores.any fun x => x.2.run == .stage pl st && decide (0 < x.2.wgCount)

/-- A stage admits no more and all its workgroups have ended (R319, R320). A stage of another device has ended when its
pipes show it: every output sealed, every input closed with no ticket left (log 19). -/
def State.stageOver (s : State) (pl st : Nat) (p : PlanSt) (t : StageSt) : Bool :=
  if t.device ≠ s.devNum then
    p.pipes.all fun q => (q.producer != st || q.sealedH) && (q.consumer != st || (q.closed && q.tickets.isEmpty))
  else
    let out := if t.kind = 0 then t.handedOut
      else if p.hasInput st then p.inputsClosed st
      else t.cores.all fun c => decide (t.npersist ≤ (t.admittedOn.filter fun k => k == c).length)
    t.running && out && !(s.stageBusy pl st)

/-- Ends the workgroups of a core, without saving them, and frees the core (R342). -/
def State.freeRun (s : State) (c : Nat) : State :=
  let s := (s.core c).wgs.keys.foldl (fun (s : State) w => s.endWg c w) s
  let s := s.modCore c fun (x : Core) => { x with agents := [], wgs := [], image := none, pre := .none, moving := false }
  s.unbind c

/-- The cores that run a plan's stages. -/
def State.planCores (s : State) (pl : Nat) : List Nat :=
  (s.cores.filter fun x => match x.2.run with | .stage a _ => a == pl | _ => false).map Prod.fst

/-- A plan is over (R315, R321, R342): its cores and slots are free, and the controller that accepted it writes its status. -/
def State.planOver (s : State) (pl : Nat) (p : PlanSt) (st reason stage pipe : Nat) : State :=
  let recs := p.pipes.flatMap PipeSt.record
  let s := (s.planCores pl).foldl (fun (s : State) c => s.freeRun c) s
  let s := s.dropSweeps fun v => v.plan != pl || v.ctx != p.ctx
  let sig := if st = 1 then (p.doneSig, 0) else (p.faultSig, if st = 2 then 3 + s.freeCode else 4 + reason * 2 ^ 8 + stage * 2 ^ 16)
  let s := if p.lead then s.writeStatus p st reason stage pipe recs [sig] else s
  let s := if st = 2 then s.trace 0 6 0xFF p.ctx (BitVec.ofNat 128 (p.slot + 0xFF * 2 ^ 8 + 2 * 2 ^ 16)) else s
  let s : State := ({ s with plans := s.plans.del pl } : State).leaveVault p
  s.due .planStart

/-- The stages of a plan that have ended are sealed, and the plan ends with its last stage (R321). -/
def State.planEnds (s : State) (pl : Nat) : State :=
  match s.plans.find? pl with
  | none => s
  | some p =>
    if !p.running || p.ending.isSome then s
    else
      let idx := List.range p.stages.length
      let gone := idx.filter fun k => (p.stages[k]?).any fun t => t.ended || s.stageOver pl k p t
      let fresh := gone.filter fun k => (p.stages[k]?).any fun t => !t.ended
      if fresh.isEmpty then s
      else
        let p := fresh.foldl (fun (p : PlanSt) k => p.modStage k fun t => { t with ended := true }) p
        let outs := (List.range p.pipes.length).filter fun n =>
          (p.pipes[n]?).any fun q => fresh.contains q.producer && !q.sealedP && s.holdsEnd p q.producer
        let s := { s with plans := s.plans.put pl p, pending := s.pending ++ outs.map fun n => Instr.sealArrive pl n false }
        if gone.length = p.stages.length then s.planOver pl p 1 0 0 0 else s

/-- Every plan, at the end of a step. -/
def State.plansEnd (s : State) : State := s.plans.keys.foldl (fun (s : State) n => s.planEnds n) s

/-- PLAN_DRAIN (R342): once the parts of the plan's cores have stopped and their counters are 0, the workgroups end, the
pipes are discarded, the status is written and FAULT_SIG decremented. Another device of the plan may begin it: its lead, or for
the lead one on which a trap had no handler. -/
def execPlanDrain (plan st reason stage pipe : Nat) (s : State) : Out :=
  match s.plans.find? plan with
  | none => .next s
  | some p =>
    if p.ending.isNone && (p.stages.any fun t => t.device != s.devNum) && (!p.lead || st == 3) then
      .next (s.drainPlan plan st reason stage pipe)
    else if p.ending ≠ some (st, reason, stage, pipe) then .next s
    else
      let still := fun (c : Nat) =>
        let x := s.core c
        x.wgs.isEmpty || ((x.pre == .forced || x.allStopped) && x.quietForSave)
      if (s.planCores plan).all still then .next (s.planOver plan p st reason stage pipe)
      else .next (s.due (.planDrain plan st reason stage pipe))

-- The balancer (R337 to R339) ----------------------------------------------------------------------------------------------

/-- Mean, rounded down, of the interval means of pipes (R337). -/
def meanOf (qs : List PipeSt) : Nat := qs.foldl (fun n q => n + q.occMean) 0 / max 1 qs.length

def PlanSt.outOf (p : PlanSt) (st : Nat) : Nat := meanOf (p.pipes.filter fun q => q.producer == st)
def PlanSt.inOf (p : PlanSt) (st : Nat) : Nat := if p.hasInput st then meanOf (p.pipes.filter fun q => q.consumer == st) else 256 - p.outOf st

/-- The mean of an interval, and a new interval. -/
def PipeSt.endInterval (q : PipeSt) : PipeSt :=
  { q with occMean := if q.occN = 0 then 0 else q.occSum / q.occN, occSum := 0, occN := 0 }

/-- The stage of a list with the best score; ties go to the lower index. -/
def bestOf (score : Nat → Int) (ks : List Nat) : Option Nat :=
  ks.foldl (fun (b : Option Nat) k => match b with
    | some m => if score m < score k then some k else b
    | none => some k) none

/-- The cores of a stage that may take one on the dies of a mask: a core that is to take no new stage moves to none (R444). -/
def State.movable (s : State) (t : StageSt) (mask : Nat) : List Nat :=
  t.cores.filter fun c => mask.testBit (dieOf c) && !((s.core c).noNew)

/-- The one among them with the fewest resident workgroups, the lowest number on a tie (R339). -/
def State.movingCore (s : State) (t : StageSt) (mask : Nat) : Option Nat :=
  bestOf (fun c => -(((s.core c).wgs.length : Int))) (s.movable t mask)

/-- Whether a cluster has a core of the stage on the move. -/
def State.movingIn (s : State) (pl st u : Nat) : Bool :=
  (List.range 4).any fun i => (s.core (4 * u + i)).moving && (s.core (4 * u + i)).run == .stage pl st

/-- Step 1 of a move (R339): the core leaves its stage, and what waits there for input returns YIELD (R340, R365). -/
def State.startMove (s : State) (pl : Nat) (p : PlanSt) (c d b : Nat) : State :=
  let s := s.modCore c fun (x : Core) => { x with moving := true }
  let p := p.modStage d fun t =>
    let t : StageSt := { t with cores := t.cores.filter fun k => k != c }
    if t.kind = 0 then t.distribute (s.movingIn pl d) else t
  let move : Move := { core := c, donor := d, receiver := b, inB := p.inOf b, inD := p.inOf d }
  let s : State := { s with plans := s.plans.put pl { p with move := some move } }
  let cores := ((p.stages[d]?).elim [] StageSt.cores)
  let s : State := { s with pending := s.pending ++ (c :: cores).map Instr.wgAdmit ++ [.coreMoveLoad c] }
  s.sweeps.foldl (fun (s : State) v => if v.plan = pl ∧ v.stage = d then s.offer v else s) s

/-- BALANCE (R337, R338): the end of a balance interval. -/
def execBalance (plan : Nat) (s : State) : Out :=
  match s.plans.find? plan with
  | none => .next s
  | some p =>
    let p : PlanSt := { p with pipes := p.pipes.map fun (q : PipeSt) => if s.holdsEnd p q.producer then q.endInterval else q }
    let s := { s with plans := s.plans.put plan p }
    if p.noBal || p.move.isSome || !p.running || p.ending.isSome then .next s
    else
      let mine := (List.range p.stages.length).filter fun k => (p.stages[k]?).any fun t => t.device == s.devNum && t.running && !t.ended
      let b := bestOf (fun k => (p.inOf k : Int)) (mine.filter fun k =>
        decide (p.outOf k < p.highWater) && (p.stages[k]?).any fun t => decide (t.cores.length < t.coreMax))
      match b with
      | none => .next s
      | some b =>
        let mask := (p.stages[b]?).elim 0 StageSt.dieMask
        let d := bestOf (fun k => -(p.inOf k : Int)) (mine.filter fun k => k != b &&
          (p.stages[k]?).any fun t => decide (t.coreMin < t.cores.length) && !(s.movable t mask).isEmpty)
        match d.bind fun d => (p.stages[d]?).bind fun t => (s.movingCore t mask).map fun c => (d, c) with
        | some (d, c) => if p.inOf d + p.hyst < p.inOf b then .next (s.startMove plan p c d b) else .next s
        | none => .next s

/-- CORE_MOVE_LOAD (R339, steps 3 and 4): once the donor's workgroups on the core have ended, and no begun block is left
to it, the record is written and the receiver's launch record loaded. A receiver that has ended takes no core. -/
def execCoreMoveLoad (core : Nat) (s : State) : Out :=
  let x := s.core core
  match x.run, x.moving && x.wgs.isEmpty && x.image.isNone with
  | .stage pl st, true =>
    match (s.plans.find? pl).bind fun p => p.move.map fun m => (p, m) with
    | none => .next s
    | some (p, m) =>
      let kept := (p.stages[st]?).any fun t => t.kind == 0 && decide (t.coresAt (5 + clusterOf core) = 0) &&
        !(t.node (5 + clusterOf core)).isEmpty
      if m.core ≠ core ∨ p.ending.isSome then .next s
      else if kept ∨ s.xstTo core then .next (s.due (.coreMoveLoad core))
      else
        match p.stages[m.receiver]? with
        | none => .next s
        | some t =>
          if t.ended then
            let s := s.modPlan pl fun p => { p with move := none }
            .next ((s.modCore core fun (x : Core) => { x with moving := false }).unbind core |>.due .planStart)
          else
            let pay := p.slot + st * 2 ^ 8 + m.receiver * 2 ^ 16 + m.inB * 2 ^ 32 + m.inD * 2 ^ 48
            let s := s.trace (dieOf core) 5 core p.ctx (BitVec.ofNat 128 pay)
            let t : StageSt := { t with cores := insertNat core t.cores }
            let t := if t.kind = 0 then t.distribute (s.movingIn pl m.receiver) else t
            let p := { p.modStage m.receiver (fun _ => t) with move := some { m with loaded := true } }
            let s := { s with plans := s.plans.put pl p }
            .next ((s.loadRecord core p.ctx t.lr (.stage pl m.receiver)).due (.wgAdmit core))
  | _, _ => .next s

-- Deadlock (R341, R342) ----------------------------------------------------------------------------------------------------

/-- The parked parts of a plan's agents, or none where an agent has a part that is not parked in PRSV or CRSV, or no
workgroup is resident (R341). -/
def State.planParked (s : State) (pl : Nat) : Option (List (Nat × Nat × Nat × Nat)) :=
  let cores := s.planCores pl
  if cores.all (fun c => (s.core c).wgs.isEmpty) || cores.any (fun c => (s.core c).image.isSome) then none
  else
    let parts := cores.flatMap fun c => (s.core c).agents.flatMap fun a => a.2.parts.map fun p => (c, a.1, p.1, p.2)
    if parts.all fun x => match x.2.2.2.wait with | some (.prsv _ _) => true | some (.crsv _ _) => true | _ => false then
      some (parts.map fun x => (x.1, x.2.1, x.2.2.1, x.2.2.2.stamp))
    else none

/-- A spill is granted to a pipe (R342): its waiting reservations are served, and the record is written. -/
def State.grantSpill (s : State) (pl n : Nat) : State :=
  match s.pipe? pl n with
  | none => s
  | some (_, q) =>
    let s := s.setPipe pl n { q with spillOpen := true }
    let s := Nat.repeat (fun (s : State) => match execReserveServed pl n s with | .next t => t | _ => s) q.waitP.length s
    match s.pipe? pl n with
    | none => s
    | some (p, q) => s.trace q.homeDie 6 0xFF p.ctx (BitVec.ofNat 128 (p.slot + n * 2 ^ 8 + 2 ^ 16 + q.tNext % 2 ^ 64 * 2 ^ 32))

/-- DEADLOCK_SNAPSHOT (R341, R342): the lead judges. Quiet are the parts that have been parked since the snapshot before, without a commit
or release. `remoteQuiet`, `remoteCount`, `sent` and `received` are what the other devices of the plan report. -/
def execDeadlockSnapshot (plan : Nat) (remoteQuiet : Bool) (remoteCount sent received : Nat) (s : State) : Out :=
  match s.plans.find? plan with
  | none => .next s
  | some p =>
    if !p.lead || !p.running || p.ending.isSome then .next s
    else
      let count := p.commits + remoteCount
      let parked := s.planParked plan
      let quiet := remoteQuiet && (match p.snap, parked with
        | some o, some now => o.commits == p.commits && decide (o.parked = now)
        | _, _ => false)
      let dead := quiet && sent == received && p.snap.any fun o => o.quiet && o.count == count
      if !dead then
        .next (s.modPlan plan fun p => { p with snap := some { quiet := quiet, count := count, parked := parked.getD [], commits := p.commits } })
      else
        let open_ := (List.range p.pipes.length).filter fun n => (p.pipes[n]?).any fun q =>
          !q.waitP.isEmpty && q.flags % 2 == 0 && decide (0 < q.spill) && decide (0 < q.wfree.size)
        if open_.isEmpty then .next (s.drainPlan plan 2 0 0 0)
        else
          let s := s.modPlan plan fun p => { p with snap := none }
          .next (open_.foldl (fun (s : State) n => s.grantSpill plan n) s)

-- Energy and power (R322, R324, R457) --------------------------------------------------------------------------------------

/-- ENERGY_WINDOW (R324): a new window of 1 ms; refused heads are tested again. -/
def execEnergyWindow (s : State) : Out :=
  let admits := s.cores.keys.map Instr.wgAdmit
  .next { s with winEnergy := 0, ctxs := s.ctxs.map fun (x : Nat × Ctx) => (x.1, { x.2 with winEnergy := 0 }),
                 pending := s.pending ++ admits }

/-- ENERGY_UPDATE (R322, R457): what the core has spent is shared equally among its resident workgroups (log 10). -/
def execEnergyUpdate (core : Nat) (s : State) : Out :=
  let x := s.core core
  let e := Config.energyOf core s.tick
  let n := x.wgs.length
  let wgs := x.wgs.map fun (g : Nat × Wg) => (g.1, { g.2 with energy := g.2.energy + e / n })
  let s := s.setCore core { x with energy := x.energy + e, wgs := wgs }
  let s := match x.ctx with
    | some c => if n = 0 then s else s.setCtx c { s.ctx c with winEnergy := (s.ctx c).winEnergy + e / n * n }
    | none => s
  .next { s with devEnergy := s.devEnergy + e, winEnergy := s.winEnergy + e }

/-- CLOCK_STRETCH (R324): the clock is stretched; only timing changes. -/
def execClockStretch (s : State) : Out := .next (if s.stretch.isSome then s else { s with stretch := some s.now })

/-- STRETCH_END (R324, R446): the stretch is logged with its length in µs. -/
def execStretchEnd (s : State) : Out :=
  match s.stretch with
  | none => .next s
  | some t => .next { s.find 0 14 8 0xFF ((s.now - t) / 1000) s.freeWhere 0 true with stretch := none }

end Sys2Proof.Machine
end

