-- ==== Sys2Proof/Machine/EvTask.lean ====
section
/-! DEFINITION. Events of tasks, invocations and handles (R371 to R375, R377 to R387, R392, R406). -/

namespace Sys2Proof.Machine

-- Settling a handle (R379, R381, R382) -------------------------------------------------------------------------------------

/-- STATUS of a signal that a break decrements (R390). -/
def settleStatus : Settlement → Nat
  | .broken r d _ => 5 + r.toNat * 2 ^ 8 + d.toNat * 2 ^ 16
  | _ => 0

def HEntry.settled (e : HEntry) : Settlement → HEntry
  | .resolved a n dev => { e with st := .resolved, addr := a, size := n, loc := some dev }
  | .broken r d c => { e with st := .broken, reason := r, detail := d, cause := c }
  | .stale => { gen := e.gen }

/-- A record with its input handle's result (R373). -/
def TaskRec.withInput (t : TaskRec) (a : W64) (n : Nat) : TaskRec := { t with input := some (a, n) }

/-- A message that no agent of this device waits for. -/
def State.loose (s : State) (ctx : Nat) (k : MsgKind) : Msg × State :=
  let (id, s) := s.fresh
  let m : Msg := { id := id, core := 0, agent := 1000, ctx := ctx, kind := k }
  (m, { s with msgs := s.msgs ++ [m] })

/-- A record is sent to a device's task queue; its issuer has been answered already (R379). -/
def State.sendRec (s : State) (ctx dev : Nat) (t : TaskRec) : State :=
  let p := s.loose ctx (.task t dev)
  p.2.due (.taskEnqueue (.own p.1.id))

/-- A part parked in the RRET of a handle goes on (R389). -/
def State.rretDone (s : State) (h : W64) : State :=
  let found := s.cores.flatMap fun x => x.2.agents.flatMap fun a => (a.2.parts.filter fun p => p.2.wait == some (.rret h)).map
    fun p => (x.1, a.1, p.1)
  found.foldl (fun (s : State) w => s.resumePart w.1 w.2.1 w.2.2) s

/-- The entry of a handle settles (R381): its state, the fates of the invocations that wait on it in their order, and
SIG. `fuel` bounds the chain of handles that break with it. Only of another device's handle can it be told that it is stale
(R376). -/
def State.settleHandle (s : State) (ctx : Nat) : Nat → W64 → Settlement → State
  | 0, _, _ => s
  | fuel + 1, h, how =>
    match s.hentry ctx h with
    | none => s
    | some e =>
      if e.st ≠ .pending ∨ (how = .stale ∧ handleHome h = s.devNum) then s
      else
        let s := s.putEntry h { e.settled how with waiting := [] }
        let break_ := fun (s : State) (reason : BitVec 8) =>
          e.waiting.foldl (fun (s : State) (t : TaskRec) => s.settleHandle ctx fuel t.handle (.broken reason 0 h)) s
        let s := match how with
          | .resolved a n dev => e.waiting.foldl (fun (s : State) (t : TaskRec) => s.sendRec ctx dev (t.withInput a n)) s
          | .broken _ _ _ => break_ s 4
          | .stale => break_ s 5
        let s := s.signalNamed ctx e.sig (settleStatus how)
        let s := match s.hentry ctx h with | some e => s.releaseEntry h e | none => s
        s.rretDone h

/-- The same, for the whole chain. -/
def State.settle (s : State) (ctx : Nat) (h : W64) (how : Settlement) : State := s.settleHandle ctx (s.hrt.length + 1) h how

/-- The context that owns a handle: as its entry has it, or, where nothing is known yet of another device's handle, the one
whose task will resolve it here, or which waits for it. -/
def State.ownerOf (s : State) (h : W64) : Nat :=
  match (s.hrt.find? (s.hkey h)).filter fun e => e.gen == handleGen h with
  | some e => e.owner
  | none =>
    ((s.cores.findSome? fun x =>
      let runs := x.2.wgs.any fun g => (g.2.task.map TaskRun.handle) == some h
      let waits := x.2.agents.any fun a => a.2.parts.any fun p => p.2.wait == some (.hres h)
      if runs || waits then x.2.ctx else none)).getD 0

/-- The notice of a task follows the messages that its agents have sent to the same home before (R378). -/
def State.noticeHeld (s : State) (h : W64) : Bool :=
  s.msgs.any fun m => m.task == some h && m.kind.home == some (handleHome h)

/-- HANDLE_SETTLE (R381): a task's own resolution or break, or what another device has told. -/
def execHandleSettle (handle : BitVec 64) (how : Settlement) (s : State) : Out :=
  .next (if s.noticeHeld handle then s.due (.handleSettle handle how) else s.settle (s.ownerOf handle) handle how)

-- Queues (R374, R379, R380, R384) ------------------------------------------------------------------------------------------

/-- A record's job is cancelled on this device (R383). -/
def State.cancelled (s : State) (ctx : Nat) (job : BitVec 32) : Bool := (s.ctx ctx).cancel.contains job

/-- LOC of a handle is chosen (R379): an entry of this device takes it, and so do the handles of the invocations that wait on it;
those that it brings to this device after their job's cancel bit was set here break (R384). -/
def State.setLoc (s : State) (ctx : Nat) : Nat → W64 → Nat → State
  | 0, _, _ => s
  | fuel + 1, h, dev =>
    match (if handleHome h = s.devNum then s.hentry ctx h else none) with
    | none => s
    | some e =>
      if e.st ≠ .pending ∨ e.loc = some dev then s
      else
        let off := fun (t : TaskRec) => dev == s.devNum && s.cancelled ctx t.job
        let s := s.putEntry h { e with loc := some dev, waiting := e.waiting.filter fun t => !(off t) }
        let s := (e.waiting.filter off).foldl (fun (s : State) t => s.settle ctx t.handle (.broken 2 0 t.handle)) s
        (e.waiting.filter fun t => !(off t)).foldl (fun (s : State) (t : TaskRec) => s.setLoc ctx fuel t.handle dev) s

/-- The same, for the whole chain. -/
def State.locate (s : State) (ctx : Nat) (h : W64) (dev : Nat) : State := s.setLoc ctx (s.hrt.length + 1) h dev

/-- Records that were addressed to one handle reach the queue of its LOC in their order of arrival at its home (R380). -/
def State.behindSame (s : State) (m : Msg) (t : TaskRec) : Bool :=
  t.via != 0 && (s.msgs.takeWhile fun n => n.id != m.id).any fun n => match n.kind with | .task u _ => u.via == t.via | _ => false

/-- The device that a forwarding pointer names for a record: the one to which its input handle's result was migrated (R380). -/
def State.forwardOf (s : State) (t : TaskRec) : Option Nat := if t.via = 0 then none else s.forwards.find? t.via.toNat

/-- The record that another device sends. -/
def remoteRec (r : RemoteTask) : TaskRec :=
  { TaskRec.ofBytes r.record r.arg0 r.handle with via := r.input, input := r.result }

/-- The fate of an invocation where the state of its input handle is known: at the handle's home, or, from another home, at LOC
(R379). `m` is its message. -/
def State.meet (s : State) (m : Msg) (t : TaskRec) (h : W64) : State :=
  match s.hentry m.ctx h with
  | none => (s.endMsg m).settle m.ctx t.handle (.broken 5 0 h)
  | some e =>
    match e.st with
    | .broken => (s.endMsg m).settle m.ctx t.handle (.broken 4 0 h)
    | .resolved =>
      let k : MsgKind := .task (t.withInput e.addr e.size) (e.loc.getD s.devNum)
      State.due { s with msgs := (s.msgs.filter fun n => n.id != m.id) ++ [{ m with kind := k }] } (.taskEnqueue (.own m.id))
    | _ =>
      let here := decide (e.loc = some s.devNum ∨ handleHome h ≠ s.devNum)
      if here && s.cancelled m.ctx t.job then (s.endMsg m).settle m.ctx t.handle (.broken 2 0 t.handle)
      else
        let s := (s.endMsg m).putEntry h { e with waiting := e.waiting ++ [t] }
        match e.loc with
        | some d => s.locate m.ctx t.handle d
        | none => s

/-- TASK_ENQUEUE (R374, R380, R384): a record enters this device's queue, goes on to where its input lies, or leaves for another
device; or another device's record arrives, which waits beside the queue where its input is still to be resolved (R379). -/
def execTaskEnqueue (op : MsgRef) (s : State) : Out :=
  match op with
  | .pod r =>
    if (s.ctx r.ctx).st ≠ .active then .next s
    else if r.input ≠ 0 ∧ r.result = none then
      let p := s.loose r.ctx (.invoke (remoteRec r) r.input)
      .next (p.2.meet p.1 (remoteRec r) r.input)
    else .next (s.sendRec r.ctx s.devNum (remoteRec r))
  | .own op =>
    match s.msg? op with
    | none => .next s
    | some m =>
      match m.kind with
      | .task t dev =>
        if s.behindSame m t then .next (s.due (.taskEnqueue (.own op)))
        else
          let s := if t.via = 0 then s else s.locate m.ctx t.handle dev
          if dev ≠ s.devNum then .next (s.endMsg m)
          else match s.forwardOf t with
            | some d => .next ((s.putMsg { m with kind := .task t d }).due (.taskEnqueue (.own op)))
            | none =>
              if s.cancelled m.ctx t.job then .next ((s.endMsg m).settle m.ctx t.handle (.broken 2 0 t.handle))
              else if 65536 ≤ (s.ctx m.ctx).taskQ.length then .next (s.due (.taskEnqueue (.own op)))
              else
                let x := s.ctx m.ctx
                .next (((s.endMsg m).setCtx m.ctx { x with taskQ := x.taskQ ++ [t] }).due (.taskStart m.ctx))
      | _ => .next s

/-- A message of its agent to the same home comes before (R378). -/
def State.behindOwn (s : State) (m : Msg) : Bool :=
  (s.msgs.takeWhile fun n => n.id != m.id).any fun n => n.core == m.core && n.agent == m.agent && n.kind.home == m.kind.home

/-- INVOCATION_ARRIVE (R378, R379): an RINVH or an HDROP reaches its handle's home. What reaches another device is answered there
(log 19); another device's RINVH reaches an entry of this one. -/
def execInvocationArrive (op : MsgRef) (s : State) : Out :=
  match op with
  | .pod r =>
    if (s.ctx r.ctx).st ≠ .active ∨ handleHome r.input ≠ s.devNum then .next s
    else
      let p := s.loose r.ctx (.invoke (remoteRec r) r.input)
      .next (p.2.meet p.1 { (remoteRec r) with input := none } r.input)
  | .own op =>
    match s.msg? op with
    | none => .next s
    | some m =>
      match m.kind with
      | .invoke t h =>
        if s.behindOwn m then .next (s.due (.invocationArrive (.own op)))
        else if handleHome h ≠ s.devNum then .next (s.endMsg m)
        else .next (s.meet m t h)
      | .drop h =>
        if s.behindOwn m then .next (s.due (.invocationArrive (.own op))) else .next ((s.dropMsg op).dropHandle m.ctx h)
      | _ => .next s

-- Task start (R371 to R375) ------------------------------------------------------------------------------------------------

/-- What a task's template, node and launch record give: that they cannot be read yet, that they break the task, or that they hold
uncorrectable data; or the launch record, and the node's bases and strides (R370, R371, R374, R382). -/
inductive NodeRead where
  | wait (pages : List Nat)
  | bad
  | spoilt (va : W64) (n : Nat)
  | node (lr : LaunchRec) (bases : List W64) (strides : List W64)
  deriving DecidableEq, Repr

/-- The bytes of a range that the launch processor reads for the head of the queue, or why it has none (R374, R382, R436). -/
def State.taskBytes (s : State) (ctx : Nat) (va : W64) (n : Nat) : Except NodeRead (List Byte) :=
  let ps := s.awaited ctx .r va n
  match waitPage (s.ctx ctx).taskGone [ps], s.homeBytes ctx va n with
  | some _, _ => .error (.wait ps)
  | none, some bs => .ok bs
  | none, none => .error (if (s.stopCode ctx .r va n).isSome then .bad else .spoilt va n)

/-- The reads for the head of the queue, in their order. -/
def State.nodeSteps (s : State) (ctx : Nat) (t : TaskRec) : Except NodeRead NodeRead := do
  let x := s.ctx ctx
  need' (decide (t.template < x.ttCount))
  let e ← s.taskBytes ctx (x.ttBase + BitVec.ofNat 64 (16 * t.template)) 16
  need' (decide (t.node < fieldAt e 8 4))
  let n ← s.taskBytes ctx (BitVec.ofNat 64 (fieldAt e 0 8 + 128 * t.node)) 128
  let lr : W64 := BitVec.ofNat 64 (fieldAt n 0 8)
  need' (decide (lr.toNat % 256 = 0))
  let r ← s.taskBytes ctx lr 256
  .ok (.node (LaunchRec.ofBytes lr r) ((List.range 8).map fun k => BitVec.ofNat 64 (fieldAt n (8 + 8 * k) 8))
    ((List.range 8).map fun k => (BitVec.ofNat 32 (fieldAt n (72 + 4 * k) 4)).signExtend 64))
where
  /-- BAD_TASK where a condition fails (R374). -/
  need' (b : Bool) : Except NodeRead Unit := if b then .ok () else .error .bad

def State.readNode (s : State) (ctx : Nat) (t : TaskRec) : NodeRead := match s.nodeSteps ctx t with | .ok r => r | .error r => r

/-- s0 to s9 of a task (R373). -/
def TaskRec.args (t : TaskRec) (bases strides : List W64) : List W64 :=
  let b0 := if t.arg0 ≠ 0 then t.arg0 else bases.getD 0 0
  let vs := ((b0 :: bases.drop 1).zip strides).map fun p => p.1 + t.inst * p.2
  let vs := match t.input with
    | some (a, n) => a :: BitVec.ofNat 64 n :: vs.drop 2
    | none => vs
  vs ++ [t.inst, t.job.setWidth 64]

/-- The core a task goes to (R374): one that runs the record for tasks of the context and has room, else the lowest free
core within the budget; `true` marks that it must load the record. -/
def State.taskCore (s : State) (ctx : Nat) (lr : LaunchRec) : Option (Nat × Bool) :=
  let runs := (List.range 128).find? fun c =>
    let x := s.core c
    x.run == .tasks && x.ctx == some ctx && x.lr.addr == lr.addr && !x.wgs.isEmpty && x.pre == .none && x.hasRoom
  match runs with
  | some c => some (c, false)
  | none =>
    if s.heldCores ctx + 1 ≤ (s.ctx ctx).cbCores then
      ((List.range 128).find? fun c => s.freeCore c && !(s.xstTo c)).map fun c => (c, true)
    else none

/-- TASK_START (R374): the head record is checked, tested for cancellation and admitted, in one step. -/
def execTaskStart (ctx : Nat) (s : State) : Out :=
  let x := s.ctx ctx
  match x.taskQ with
  | [] => .next s
  | t :: rest =>
    let next := s.setCtx ctx { x with taskQ := rest, taskGone := [] }
    let go := fun (s : State) => if rest.isEmpty then s else s.due (.taskStart ctx)
    let fail := fun (s : State) (reason detail : BitVec 8) => .next (go (s.settle ctx t.handle (.broken reason detail t.handle)))
    if x.st ≠ .active then .next s
    else
      match s.readNode ctx t with
      | .wait _ => .next (s.due (.taskStart ctx))
      | .bad => fail next 7 0
      | .spoilt va n => fail (next.metRange ctx va n) 1 7
      | .node lr bases strides =>
        let reason := s.checkRec ctx lr 1
        if reason ≠ 0 then fail (next.find 0 13 9 ctx reason next.freeWhere 0 true) 6 (BitVec.ofNat 8 reason)
        else if s.cancelled ctx t.job then fail next 2 0
        else if !(s.budgetRoom ctx lr.wgEnergy) then .next (s.due (.taskStart ctx))
        else
          match s.taskCore ctx lr with
          | none => .next (s.due (.taskStart ctx))
          | some (c, load) =>
            let s := if load then next.loadRecord c ctx lr .tasks else next
            let s := s.acquire c 4
            .next (go (s.admitWg c 0 0 (t.args bases strides) (some { handle := t.handle, job := t.job })))

-- Reports and cancellation (R383, R387, R392) ------------------------------------------------------------------------------

/-- QUEUE_REPORT (R387): the length another device reports, which thereby is known to hold the context, and to be reachable
(log 19). -/
def execQueueReport (dev ctx len : Nat) (s : State) : Out :=
  if dev = s.devNum then .next s
  else .next { s with lostDevs := s.lostDevs.filter fun d => d != dev,
                      podQ := s.podQ.put ctx ((s.podQ.getD ctx []).put dev len),
                      podCtx := s.podCtx.put ctx (insertNat dev (s.podCtx.getD ctx [])) }

/-- The job has an entry, or there is room for one (R383, R392). -/
def Ctx.jobRoom (x : Ctx) (job : BitVec 32) : Bool := decide (((job :: x.cancel) ++ x.reserved).eraseDups.length ≤ 256)

/-- What a JCAN message does to the cancel table, and whether there was room. -/
def Ctx.jcan (x : Ctx) (job : BitVec 32) : CancelAct → Ctx × Bool
  | .reserve => if x.jobRoom job then ({ x with reserved := x.reserved ++ [job] }, true) else (x, false)
  | .set => ({ x with reserved := x.reserved.erase job, cancel := if x.cancel.contains job then x.cancel else x.cancel ++ [job] }, true)
  | .release => ({ x with reserved := x.reserved.erase job }, true)
  | .clear => ({ x with cancel := x.cancel.filter fun j => j != job }, true)

/-- The act that a phase of a JCAN sends: mode 0 reserves, then sets (2) or releases (3); mode 1 clears. -/
def jcanAct (mode : Nat) : CancelAct := match mode with | 0 => .reserve | 1 => .clear | 2 => .set | _ => .release

/-- A device's acknowledgement, and the next phase or the end (R392). -/
def State.jcanAck (s : State) (m : Msg) (job : BitVec 32) (mode d : Nat) (devs : List Nat) (acks : List (Nat × Bool)) : State :=
  let s := s.putMsg { m with kind := .jcan job mode d devs acks (mode == 2 || mode == 3) }
  if acks.length < devs.length then s
  else if mode ≠ 0 then s.due (.jcanComplete m.id)
  else
    let good := (acks.filter fun a => a.2).map Prod.fst
    let all := decide (good.length = devs.length)
    let mode := if all then 2 else 3
    let dest := if all then devs else good
    let s := s.putMsg { m with kind := .jcan job mode d dest [] true }
    if dest.isEmpty then s.due (.jcanComplete m.id)
    else dest.foldl (fun (s : State) v => s.due (.cancelArrive v m.ctx job (jcanAct mode))) s

/-- CANCEL_ARRIVE (R392): a message acts on a device's table and is acknowledged; on this device's it may be of another device's
JCAN. Whether another device has room is what it answers, a free value (log 19). -/
def execCancelArrive (dev ctx : Nat) (job : BitVec 32) (act : CancelAct) (s : State) : Out :=
  let mine := fun (m : Msg) => m.ctx == ctx && match m.kind with
    | .jcan j mode _ devs acks _ => j == job && jcanAct mode == act && devs.contains dev && !(acks.any fun a => a.1 == dev)
    | _ => false
  match s.msgs.find? mine with
  | none => .next (if dev = s.devNum ∧ (s.ctx ctx).st = .active then s.setCtx ctx ((s.ctx ctx).jcan job act).1 else s)
  | some m =>
    match m.kind with
    | .jcan _ mode d devs acks _ =>
      let r := (s.ctx ctx).jcan job act
      let room := if dev = s.devNum then r.2 else act != .reserve || (Config.freeWord s.tick 4).getLsbD 0
      let s := if dev = s.devNum then s.setCtx ctx r.1 else s
      .next (s.jcanAck m job mode d devs (acks ++ [(dev, room)]))
    | _ => .next s

/-- JCAN_COMPLETE (R392): every device has acknowledged, and D is written. -/
def execJcanComplete (op : Nat) (s : State) : Out :=
  match s.msg? op with
  | none => .next s
  | some m =>
    match m.kind with
    | .jcan _ mode _ devs acks _ =>
      if mode = 0 ∨ acks.length < devs.length then .next s
      else
        .next ((s.answerReg m.core m.agent op (if mode = 3 then 1 else 0)).endMsg m)
    | _ => .next s

end Sys2Proof.Machine
end

