-- ==== Sys2Proof/Machine/EvMem.lean ====
section
/-! DEFINITION. Events of the memory side: the pager's part (R434 to R438), the packets between home slices and base dies
(R189, R196 to R199), and what reaches or leaves the caches (R185, R188, R189). -/

namespace Sys2Proof.Machine

-- NAKs and the pager (R435, R436, R272) --------------------------------------------------------------------------------

/-- A NAK as the core takes it up (R436): OWNER and OUT_OF_RANGE are refused without asking; what the memory side would
now serve is resolved; the others go to the pager. -/
def State.asked (s : State) (c : Nat) (f : Access) (r : LaneReq) : LaneReq :=
  if r.answer.isSome then r
  else if !(resolvable r.code) then { r with answer := some false }
  else if (s.laneNak c f.kind f.scope r.va f.size).isNone then { r with answer := some true }
  else r

/-- A write that meets a read-duplicated page starts its collapse (R404). -/
def State.askCollapse (s : State) (c : Nat) (va : W64) : State :=
  match [Need.r, .w, .x].findSome? fun nd => (s.ctx (s.ctxOf c)).translate nd va with
  | some ia => s.collapseAt ia
  | none => s

/-- What stops a copy now: the address and the code. -/
def State.copyStop (s : State) (c : Nat) (o : CopyOp) : Option (W64 × BitVec 8) :=
  match o.coll with
  | none => match s.unitMeets c o with | .fault va code => some (va, code) | _ => none
  | some _ =>
    (s.stepOf c o).bind fun p => (p.1.unit p.2 o).bind fun u => s.collMeets c (s.collPieces c .r u.src u.n) (s.collPieces c .w u.dst u.n)

/-- A NAK of a copy: the pager is asked, or the copy ends (R272, R273). -/
def State.copyNak (s : State) (c : Nat) (o : CopyOp) : State :=
  match s.copyStop c o with
  | none => s.due (.copyLand c o.id)
  | some (va, code) =>
    if resolvable code then (s.putCopy c { o with suspended := some (va, code) }).askCollapse c va
    else s.due (.copyAbort c o.id code va)

/-- NAK_REPORT (R435, R272): the wave parks its memory issue; a copy suspends. -/
def execNakReport (core agent op : Nat) (s : State) : Out :=
  match s.agent? core agent with
  | none => .next s
  | some a =>
    match a.faults.find? fun f => f.id == op with
    | some f =>
      let ask := fun (g : Access) => if g.id = op then { g with reqs := g.reqs.map (s.asked core g) } else g
      let a := { a with memParked := true, faults := a.faults.map ask }
      let s := s.setAgent core agent a
      let s := if f.kind.write then f.reqs.foldl (fun (s : State) r => s.askCollapse core r.va) s else s
      .next (if a.allAnswered then s.due (.memoryIssueResume core agent) else s)
    | none =>
      match s.copyOp? core op with
      | some o => .next (if o.suspended.isSome then s else s.copyNak core o)
      | none => .next s

/-- The lanes of a core that wait for an answer on a page get it. -/
def State.answerAgent (s : State) (c k page : Nat) (ok : Bool) : State :=
  match s.agent? c k with
  | none => s
  | some a =>
    let hit := fun (r : LaneReq) => r.answer.isNone && resolvable r.code && s.pageAt c r.va == some page
    if a.faults.any fun f => f.reqs.any hit then
      let mark := fun (f : Access) => { f with reqs := f.reqs.map fun r => if hit r then { r with answer := some ok } else r }
      let a := { a with faults := a.faults.map mark }
      let s := s.setAgent c k a
      if a.memParked && a.allAnswered then s.due (.memoryIssueResume c k) else s
    else s

/-- A copy suspended on a page goes on, or ends (R272, R273). -/
def State.answerCopy (s : State) (c page : Nat) (ok : Bool) (o : CopyOp) : State :=
  match o.suspended with
  | none => s
  | some (va, code) =>
    if s.pageAt c va ≠ some page then s
    else if ok then (s.putCopy c { o with suspended := none }).due (.copyLand c o.id)
    else s.due (.copyAbort c o.id code va)

/-- Every wait of agents, copies and controllers' writes on a page is answered. -/
def State.answerPage (s : State) (page : Nat) (ok : Bool) : State :=
  (s.cores.foldl (fun (s : State) x =>
    let s := x.2.agents.foldl (fun (s : State) a => s.answerAgent x.1 a.1 page ok) s
    x.2.copies.foldl (fun (s : State) o => s.answerCopy x.1 page ok o) s) s).sysResend (if ok then none else some page)

/-- A reader of ranges, one after the other, waits for a page now. -/
def waitsFor (gone : List Nat) (page : Nat) : List (List Nat) → Bool
  | [] => false
  | [] :: rest => waitsFor gone page rest
  | (p :: ps) :: _ => (p :: ps).contains page && !((p :: ps).any gone.contains)

/-- The launch processor waits for a page for a plan of a context. -/
def State.planWants (s : State) (ctx : Nat) (a : W64) (gone : List Nat) (page : Nat) : Bool :=
  waitsFor gone page ((s.planRanges ctx a).map fun r => s.awaited ctx .r r.1 r.2)

/-- The same for a launch request, whose signals are read first. -/
def State.launchWants (s : State) (ctx : Nat) (r : LwReq) (page : Nat) : Bool :=
  (r.waits.any fun a => waitsFor r.gone page [s.awaited ctx .r a 16]) || s.planWants ctx r.plan r.gone page

/-- The same for the head of a context's task queue. -/
def State.taskWants (s : State) (ctx : Nat) (page : Nat) : Bool :=
  match (s.ctx ctx).taskQ with
  | t :: _ => match s.readNode ctx t with | .wait ps => ps.contains page | _ => false
  | [] => false

/-- The same for a launch of a plan by an agent. -/
def State.msgWants (s : State) (m : Msg) (page : Nat) : Bool :=
  match m.kind with
  | .plan a _ => s.planWants m.ctx a m.gone page
  | _ => false

/-- A part waits for the page of a fetch, or of a range that its instruction reads at issue (R47, R436). -/
def Part.wants (p : Part) (page : Nat) : Bool := p.wait == some (.fetch page)

/-- The pager refuses a page: those who wait for it to read know it, and their reading ends as each rule says (R436). -/
def State.turnDown (s : State) (page : Nat) : State :=
  let part := fun (p : Part) => if p.wants page then { p with nofetch := some page } else p
  let agent := fun (a : Agent) => { a with parts := a.parts.map fun p => (p.1, part p.2) }
  let core := fun (x : Core) => { x with agents := x.agents.map fun a => (a.1, agent a.2) }
  let ctx := fun (p : Nat × Ctx) =>
    let lw := p.2.lwQ.map fun r => if s.launchWants p.1 r page then { r with gone := page :: r.gone } else r
    let tg := if s.taskWants p.1 page then page :: p.2.taskGone else p.2.taskGone
    (p.1, { p.2 with lwQ := lw, taskGone := tg })
  { s with cores := s.cores.map fun x => (x.1, core x.2), ctxs := s.ctxs.map ctx,
           msgs := s.msgs.map fun m => if s.msgWants m page then { m with gone := page :: m.gone } else m }

/-- A sweep's Ladle or Hoop needs a page: for the tiles of a pass, or for a Whey slot (R354, R359). -/
def State.sweepWants (s : State) (v : Sweep) (page : Nat) : Bool :=
  let whey := fun (k : Nat) => s.touches v.ctx (v.whey k) 528 page
  (v.passes.any fun p => p.fetched && p.batch == 0 &&
    (s.touches v.ctx (v.ktile p.page) v.tileBytes page || s.touches v.ctx (v.vtile p.page) v.tileBytes page)) ||
    (v.slots.any fun q => q.2.held.any fun h => h.whey.any whey) ||
    s.msgs.any fun m => match m.kind with
      | .partial_ a _ _ (some k) => a == v.addr && m.ctx == v.ctx && whey k
      | _ => false

/-- The contexts for which something waits for a page: agents in core order, controllers' writes and reads, sweeps. -/
def State.askers (s : State) (page : Nat) : List Nat :=
  let in_ := fun (ctx : Nat) (va : W64) =>
    ([Need.r, .w].findSome? fun nd => (s.ctx ctx).translate nd va).any fun ia => s.home ia / 65536 == page
  let agents := s.cores.flatMap fun x =>
    let here := fun (va : W64) => s.pageAt x.1 va == some page
    let asks := (x.2.agents.any fun a => (a.2.faults.any fun f => f.reqs.any fun r => r.answer.isNone && here r.va) ||
        a.2.parts.any fun p => p.2.wants page) ||
      x.2.copies.any fun o => o.suspended.any fun f => here f.1
    if asks then [s.ctxOf x.1] else []
  let writes := (s.heldSys.filter fun h => (h.pieces.any fun p => in_ h.ctx p.1) || h.sigs.any fun g => in_ h.ctx g.1).map HeldSys.ctx
  let reads := (s.ctxs.filter fun x => (x.2.lwQ.any fun r => s.launchWants x.1 r page) || s.taskWants x.1 page).map Prod.fst
  let plans := (s.msgs.filter fun m => s.msgWants m page).map Msg.ctx
  let sweeps := (s.sweeps.filter fun v => s.sweepWants v page).map Sweep.ctx
  agents ++ writes ++ reads ++ plans ++ sweeps

/-- The context for which the pager maps a page: one that asks, else one whose window covers it. -/
def State.pageFor (s : State) (page : Nat) : Option Nat :=
  let covers := fun (x : Ctx) => x.st == .active && (List.range 8).any fun n =>
    let w := x.mw.getD n {}
    w.valid && decide (w.ibase * 2 ^ 21 ≤ page * 65536 ∧ page * 65536 < w.ibase * 2 ^ 21 + 2 ^ w.log2)
  match (s.askers page).head? with
  | some x => some x
  | none => (List.find? (fun (p : Nat × Ctx) => covers p.2) s.ctxs).map Prod.fst

/-- Bytes on their way to a home are lost with their frame, which is logged, one event for each line (R434). -/
def State.lostLine (s : State) (ctx line : Nat) : State :=
  let ia := line * 128
  match homeOf ia with
  | some (d, _) => s.find d (stackChan ia) 2 ctx 4 ia 2 true
  | none => s

/-- Write-backs that wait for a page are sent again, or discarded and logged (R434). -/
def State.settleWb (s : State) (page : Nat) (ok : Bool) : State :=
  let mine := s.heldWb.filter fun w => w.line * 128 / 65536 == page
  let s := { s with heldWb := s.heldWb.filter fun w => w.line * 128 / 65536 != page }
  mine.foldl (fun (s : State) w => if ok then s.homeWrite w.own w.line w.bytes w.marks else s.lostLine w.own w.line) s

/-- The requests of a die's slices that write to a page and have not been done. -/
def Die.writesTo (x : Die) (page : Nat) : List Req :=
  x.reqs.filter fun r => r.write && (!r.served || r.nak.isSome) && r.ia / 65536 == page

/-- Requests of slices for a page that were turned away are sent again (R434). -/
def State.resend (s : State) (page : Nat) : State :=
  (List.range 4).foldl (fun (s : State) d =>
    let x := s.die d
    let held := fun (r : Req) => r.tag.isNone && r.nak.isSome && r.ia / 65536 == page
    let mine := x.reqs.filter held
    if mine.isEmpty then s
    else
      let s := s.setDie d { x with reqs := x.reqs.map fun r => if held r then { r with served := false, nak := none } else r }
      { s with pending := s.pending ++ mine.map fun r => Instr.portSend d r.slice r.stack r.pch }) s

/-- A line that the cache ways do not hold is as its base die has it, once nothing is on its way there. -/
def State.fromBase (s : State) (line : Nat) : State :=
  if (s.wayOf (line * 128)).isSome then s
  else
    { s with mem := (List.range 128).foldl (fun (m : SMap 8) i => m.set (line * 128 + i) (s.dram.get (line * 128 + i))) s.mem,
             bad := s.baseBad line ++ s.bad.filter fun k => k / 4 != line }

/-- Requests of slices for a page: writes whose frame is gone for good lose their bytes (R434). -/
def State.dropReqs (s : State) (page : Nat) : State :=
  (List.range 4).foldl (fun (s : State) d =>
    let x := s.die d
    let mine := x.writesTo page
    if mine.isEmpty then s
    else
      let s := s.setDie d { x with reqs := x.reqs.filter fun r => !(mine.contains r) }
      ((mine.map fun r => (r.ctx, r.ia / 128)).eraseDups).foldl (fun (s : State) l => (s.lostLine l.1 l.2).fromBase l.2) s) s

/-- What a write of a slice leaves in the home's view of its block. -/
def Req.over (r : Req) (s : State) : State :=
  let put := (List.range 64).filter fun i => r.mask.getD i false && !(r.marks.contains ((r.ia + i) / 32))
  { s with mem := put.foldl (fun (m : SMap 8) i => m.set (r.ia + i) (r.data.getD i 0)) s.mem,
           bad := r.marks ++ s.bad.filter fun w => !(r.covers w) && !(r.marks.contains w) }

/-- The pager takes a frame. -/
def State.takeFrame (s : State) (page : Nat) (p : Page) : State :=
  { s with pages := s.pages.put page { p with frame := s.nextFrame }, nextFrame := s.nextFrame + 1, freed := s.freed.del page }

/-- A page's frame is replaced: its lines leave the caches, the new frame is zero (log 6), and the requests of slices that wait for
it will write what they carry (R402, R434). -/
def State.newFrame (s : State) (page : Nat) : State :=
  let s := (s.purge (page * 65536) 65536).blank (page * 65536) 65536
  (List.range 4).foldl (fun (s : State) d => ((s.die d).writesTo page).foldl (fun (s : State) r => r.over s) s) s

/-- PAGER_ANSWER (R434, R436): resolved, the page is mapped, or its frame replaced, and what waited goes on; refused, it
ends as each rule says. A read-duplicated or moving page is left to its own events, and a page of another device to that
device's pager (log 19). -/
def execPagerAnswer (page : Nat) (resolved : Bool) (s : State) : Out :=
  if resolved then
    let s := match s.pages.find? page with
      | some p => if p.retired then (s.newFrame page).takeFrame page { p with retired := false } else s
      | none =>
        match (if iaClass (page * 65536) ≤ 4 then s.pageFor page else none) with
        | some x => s.takeFrame page { owner := x }
        | none => s
    .next (((s.settleWb page true).resend page).answerPage page true)
  else .next (((((s.turnDown page).settleWb page false).dropReqs page).answerPage page false).attnRefused page)

/-- MEMORY_ISSUE_RESUME (R436): once every NAK has been answered, the replays run in issue order, and memory issue
resumes when all are complete. -/
def execMemoryIssueResume (core agent : Nat) (s : State) : Out :=
  match s.agent? core agent with
  | none => .next s
  | some a =>
    if !a.memParked || !a.allAnswered then .next s
    else .next ((s.replayAll core agent).modAgent core agent Agent.resumeMem)

-- Packets (R196 to R199) ------------------------------------------------------------------------------------------------

/-- Port and pseudo-channel of a request. -/
def Req.at_ (r : Req) (slice stack pch : Nat) : Bool := r.slice == slice && r.stack == stack && r.pch == pch

/-- The tags of a pseudo-channel that are outstanding (R197). -/
def Die.tags (x : Die) (slice stack pch : Nat) : List Nat := (x.reqs.filter fun r => r.at_ slice stack pch).filterMap Req.tag

/-- PORT_SEND (R197): the request that has waited longest takes the lowest free tag; one that was turned away waits for the pager
(R434). -/
def execPortSend (die slice stack pch : Nat) (s : State) : Out :=
  let x := s.die die
  let used := x.tags slice stack pch
  let pick := fun (q : Req) => q.at_ slice stack pch && q.tag.isNone && q.nak.isNone
  match (List.range 8).find? fun t => !(used.contains t), x.reqs.find? pick with
  | some t, some r =>
    let s := s.setDie die { x with reqs := updateFirst pick (fun q => { q with tag := some t }) x.reqs }
    .next (s.due (if r.write then .wr die slice stack pch t else .rd die slice stack pch t))
  | _, _ => .next s

def Die.req? (x : Die) (slice stack pch tag : Nat) : Option Req := x.reqs.find? fun r => r.at_ slice stack pch && r.tag == some tag

/-- Requests of a port to one block take effect in order (R198). -/
def Die.mayServe (x : Die) (r : Req) : Bool :=
  !((x.reqs.takeWhile fun q => q != r).any fun q => q.ia == r.ia && !q.served)

def State.putReq (s : State) (d : Nat) (r q : Req) : State :=
  let x := s.die d
  s.setDie d { x with reqs := updateFirst (fun u => u == r) (fun _ => q) x.reqs }

/-- RD (R198): checked first (R400), and served in port order. -/
def execRd (die slice stack pch tag : Nat) (s : State) : Out :=
  let x := s.die die
  match x.req? slice stack pch tag with
  | none => .next s
  | some r =>
    if r.write ∨ r.served then .next s
    else if !(x.mayServe r) then .next (s.due (.rd die slice stack pch tag))
    else
      match s.baseNak r.ctx r.ia with
      | some code => .next ((s.putReq die r { r with served := true, nak := some code }).due (.nak die slice stack pch tag code))
      | none =>
        let err := (eccWords r.ia 64).any fun w => s.dramBad.contains w
        let q := { r with served := true, data := s.dram.bytes r.ia 64, err }
        .next ((s.putReq die r q).due (.rdr die slice stack pch tag))

/-- An uncorrectable word that a base die meets in a row of its DRAM (R199, R443; log 22). -/
def State.metRow (s : State) (ctx w : Nat) : State :=
  let ia := w * 32
  match homeOf ia with
  | some (d, _) => s.dueNow (.errorEvent (16 * d + stackChan ia) 0 (ia / 2048) true (some ctx) ia)
  | none => s

/-- A masked write (R199): an ECC word that is uncorrectable and not covered whole stays as it is, which is logged; a word that
carries the check pattern receives it (R442); the rest is written. -/
def State.applyWr (s : State) (r : Req) : State :=
  let ws := (eccWords r.ia 64).filter fun w => (List.range 32).any fun i => r.mask.getD (w * 32 + i - r.ia) false
  let lost := ws.filter fun w => s.dramBad.contains w && !(r.covers w) && !(r.marks.contains w)
  let put := (List.range 64).filter fun i =>
    r.mask.getD i false && !(lost.contains ((r.ia + i) / 32)) && !(r.marks.contains ((r.ia + i) / 32))
  let s := { s with dram := put.foldl (fun (m : SMap 8) i => m.set (r.ia + i) (r.data.getD i 0)) s.dram,
                    dramBad := r.marks ++ s.dramBad.filter fun w => !(r.covers w) && !(r.marks.contains w) }
  lost.foldr (fun w (s : State) => s.metRow r.ctx w) s

/-- WR (R199). -/
def execWr (die slice stack pch tag : Nat) (s : State) : Out :=
  let x := s.die die
  match x.req? slice stack pch tag with
  | none => .next s
  | some r =>
    if !r.write ∨ r.served then .next s
    else if !(x.mayServe r) then .next (s.due (.wr die slice stack pch tag))
    else
      match s.baseNak r.ctx r.ia with
      | some code => .next ((s.putReq die r { r with served := true, nak := some code }).due (.nak die slice stack pch tag code))
      | none => .next (((s.applyWr r).putReq die r { r with served := true }).due (.wra die slice stack pch tag))

/-- A reply frees the tag, and the port sends what waits (R197). -/
def State.endReq (s : State) (d : Nat) (r : Req) : State :=
  let x := s.die d
  (s.setDie d { x with reqs := x.reqs.erase r }).due (.portSend d r.slice r.stack r.pch)

/-- RDR and WRA (R196). -/
def State.reply (s : State) (write : Bool) (die slice stack pch tag : Nat) : Out :=
  match (s.die die).req? slice stack pch tag with
  | some r => if r.write = write ∧ r.served ∧ r.nak.isNone then .next (s.endReq die r) else .next s
  | none => .next s

def execRdr (die slice stack pch tag : Nat) (s : State) : Out := s.reply false die slice stack pch tag
def execWra (die slice stack pch tag : Nat) (s : State) : Out := s.reply true die slice stack pch tag

/-- NAK (R196, R434): nothing was written; a write whose frame was retired frees its tag and waits for the pager. -/
def execNak (die slice stack pch tag : Nat) (code : BitVec 8) (s : State) : Out :=
  match (s.die die).req? slice stack pch tag with
  | some r =>
    if r.nak ≠ some code then .next s
    else if r.write ∧ code = 0x04 then
      .next ((s.putReq die r { r with tag := none }).due (.portSend die slice stack pch))
    else .next (s.endReq die r)
  | none => .next s

-- Slices and caches (R185, R188, R189) ----------------------------------------------------------------------------------

/-- SLICE_WRITE (R188): the masked bytes of one line reach their home and take a sequence tag; refused, they are not
written: behind a retired frame they wait (R434), at a read-duplicated page they start its collapse (R404). Of another device
or the host, it is what is written there; a page of which this device holds a replica is written after its collapse alone
(R405). -/
def execSliceWrite (ctx : Nat) (ia : Nat) (data : List (BitVec 8)) (mask : List Bool) (s : State) : Out :=
  let a := s.home ia
  let bs : Bytes := ((List.range (min data.length mask.length)).filter fun i => mask.getD i false).map fun i => (a + i, data.getD i 0)
  if a % 128 + data.length > 128 then .next s
  else if (homeOf a).isNone then
    .next (if s.replicaHeld a then s else { s with mem := bs.foldl (fun (m : SMap 8) (b : Nat × Byte) => m.set b.1 b.2) s.mem })
  else
    match s.nak ctx ia true with
    | none => .next (s.homeWrite ctx (a / 128) bs)
    | some code =>
      if code = 0x04 then .next { s with heldWb := s.heldWb ++ [{ own := ctx, line := a / 128, bytes := bs, marks := [] }] }
      else .next (if (s.baseNak ctx a).isNone then s.collapseAt ia else s)

/-- LINE_FILL (R189): a line enters L1, once the memory side has confirmed its page (R434). -/
def execLineFill (core : Nat) (ia : Nat) (s : State) : Out :=
  match (s.core core).ctx with
  | none => .next s
  | some x => if (s.nak x ia false).isSome then .next s else .next (s.fillL1 core x (ia / 128) true)

/-- WRITE_BACK (R185, R189, R191): a line leaves a cache; its dirty bytes go to the next level, and a replica has none. -/
def execWriteBack (level : CacheLevel) (line : Nat) (s : State) : Out :=
  match level with
  | .l1 c => if c < 128 then .next ((s.flushL1Line c line).dropL1Line c line) else .next s
  | .buffer u => if u < 32 then .next ((s.flushBufLine u line).dropBufLine u line) else .next s
  | .ways d => if (homeOf (line * 128)).map Prod.fst = some d then .next (s.dropWay line) else .next s
  | .replica d => if d < 4 then .next (s.dropReplica d line) else .next s

end Sys2Proof.Machine
end

