-- ==== Sys2Proof/Machine/EvPod.lean ====
section
/-! DEFINITION. Events of the pod and of page ownership: requests of other devices (R417 to R419), read-duplicated pages
and their collapse (R403 to R405), pages that pass to another context (R402), migration (R406, R380), and a peer that is
lost (R280, R382, R417). What other devices hold is outside the model (log 19). -/

namespace Sys2Proof.Machine

-- Ownership (R402) ------------------------------------------------------------------------------------------------------

/-- A page passes to a context or back to free: its lines are written back and invalidated, its frame is zeroed, and then
its owner changes. A page in use keeps its frame; a free one has none, and the context that owned it last is no longer its
owner. -/
def State.passPage (s : State) (p : Nat) (own : Option Nat) : State :=
  let s := s.wipe (p * 65536) 65536
  let s := { s with collapse := s.collapse.del p, replicas := s.replicas.del p, migrating := s.migrating.filter fun q => q != p }
  match s.pages.find? p, own with
  | some g, some c => { s with pages := s.pages.put p { g with owner := c, policy := 0 } }
  | some g, none => { s with pages := s.pages.del p, freed := s.freed.put p g.owner }
  | none, some c => s.takeFrame p { owner := c }
  | none, none => s

/-- PAGE_OWNER_CHANGE (R402): a page of classes 0 to 4, or a granule of a die's vault. -/
def execPageOwnerChange (page : PageRef) (owner : Option Nat) (s : State) : Out :=
  if owner.any fun c => decide (64 ≤ c) then .next s
  else
    match page with
    | .page n => if iaClass (n * 65536) ≤ 4 ∧ n < 2 ^ 40 then .next (s.passPage n owner) else .next s
    | .granule d g => if d < 4 ∧ g < 64 * (s.die d).vaultSteps * 12 then .next (s.passGranule d g owner) else .next s

-- Read-duplicated pages (R403 to R405) ----------------------------------------------------------------------------------

/-- COLLAPSE (R404): the home pager sends an invalidation to every device that holds a replica; while one is in progress
no second starts. -/
def execCollapse (page : Nat) (s : State) : Out :=
  match s.pages.find? page, s.collapse.find? page with
  | some p, none =>
    if p.policy ≠ 1 then .next s
    else
      let devs := (s.replicas.find? page).getD []
      let s := { s with collapse := s.collapse.put page devs }
      .next (if devs.isEmpty then s.due (.collapseDone page) else s)
  | _, _ => .next s

/-- REPLICA_INVALIDATE (R404): this device unmaps its replica of another device's page and discards the page's lines, or
another device acknowledges that it has. -/
def execReplicaInvalidate (page : Nat) (dev : Nat) (s : State) : Out :=
  if dev = s.devNum then
    let t := s.purge (page * 65536) 65536
    .next (if s.replicaHeld (page * 65536) then
      { t with replicas := t.replicas.del page, repMem := t.repMem.clear (page * 65536) 65536 } else t)
  else
    match s.collapse.find? page with
    | none => .next s
    | some devs =>
      let left := devs.filter fun d => d != dev
      let s := { s with collapse := s.collapse.put page left,
                        replicas := s.replicas.put page (((s.replicas.find? page).getD []).filter fun d => d != dev) }
      .next (if left.isEmpty ∧ devs ≠ [] then s.due (.collapseDone page) else s)

/-- COLLAPSE_DONE (R404): every acknowledgement is in; POLICY becomes 0 and the faulting lanes are replayed. -/
def execCollapseDone (page : Nat) (s : State) : Out :=
  match s.collapse.find? page, s.pages.find? page with
  | some [], some p =>
    let s := { s with pages := s.pages.put page { p with policy := 0 }, collapse := s.collapse.del page, replicas := s.replicas.del page }
    .next (s.answerPage page true)
  | _, _ => .next s

/-- The bytes of a page as its home gives them: those of `data`, by their offsets, and zeros. -/
def pageOf (m : SMap 8) (page : Nat) (data : List (Nat × BitVec 8)) : SMap 8 :=
  data.foldl (fun (m : SMap 8) b => if b.1 < 65536 then m.set (page * 65536 + b.1) b.2 else m) (m.clear (page * 65536) 65536)

/-- REPLICA_MAKE (R403): this device's pager fills a replica of another device's page, a class 5 page, with what its home holds;
or another device makes one of a read-duplicated page of this device, which its collapse will reach. -/
def execReplicaMake (page dev : Nat) (data : List (Nat × BitVec 8)) (s : State) : Out :=
  if dev = s.devNum then
    let ia := page * 65536
    if iaClass ia ≠ 5 ∨ podDev ia = s.devNum ∨ (remoteAddr (ia % 2 ^ 43)).isNone then .next s
    else
      let s := s.purge ia 65536
      .next { s with mem := pageOf s.mem page data, repMem := pageOf s.repMem page data, replicas := s.replicas.put page [dev] }
  else
    match s.pages.find? page with
    | some p =>
      if p.policy = 1 ∧ (s.collapse.find? page).isNone then
        .next { s with replicas := s.replicas.put page (insertNat dev ((s.replicas.find? page).getD [])) }
      else .next s
    | none => .next s

-- Requests of other devices (R417 to R419) ------------------------------------------------------------------------------

/-- What a pod request for a byte is answered with where it is not served: OWNER before the device number is set, in the
device-reserved window for anything but engines, and for a context that is not ACTIVE or does not own the page. -/
def State.podNak (s : State) (ctx off : Nat) (write engine : Bool) : Option (BitVec 8) :=
  if !s.numSet || (s.ctx ctx).st != .active then some 0x02
  else if 2 ^ 42 ≤ off then (if engine then none else some 0x02)
  else
    match remoteAddr off with
    | none => some 0x03
    | some a => s.pageNak ctx a write

/-- Bytes of a request, whether an engine sends it, and whether it may write. -/
def podSize : PodReq → Nat
  | .read n _ => n
  | .write bs _ => bs.length
  | .atom _ n _ _ _ => n
  | .plan _ => 0

def podEngine : PodReq → Bool
  | .read _ e | .write _ e | .atom _ _ _ _ e => e
  | .plan _ => true

def podWrites : PodReq → Bool
  | .read .. | .plan _ => false
  | _ => true

/-- What a request that is served does at the home (R416, R417): an atomic operation whose old value is uncorrectable does nothing
(R441). -/
def State.podServe (s : State) (ctx at_ : Nat) : PodReq → State
  | .read n _ => (s.askRd ctx [(at_, n)]).metWords ctx at_ n
  | .write bs _ =>
    let prs : Bytes := ((List.range bs.length).zip bs).map fun p => (at_ + p.1, p.2)
    ((prs.map fun p => p.1 / 128).eraseDups).foldl (fun (s : State) l => s.homeWrite ctx l (prs.filter fun p => p.1 / 128 == l)) s
  | .atom fn n v w _ =>
    let s := s.askRd ctx [(at_, n)]
    if at_ % n ≠ 0 then s
    else if s.memBad at_ n then s.metWords ctx at_ n
    else
      let x := atomNew fn (8 * n) (s.mem.readLE at_ n) v.toNat w.toNat
      (s.homePut (bytesAt at_ n x) []).sendWrites ctx [(at_, n, x)] true
  | .plan _ => s

/-- A plan that another device's controller has accepted becomes resident here, once it is one of at most 32 (R316, R394). -/
def State.planTold (s : State) (r : RemotePlan) (again : Instr) : State :=
  if !s.numSet || (s.ctx r.ctx).st != .active then s
  else if 32 ≤ s.plans.length then s.due again
  else match s.announced r with
    | some p => s.acceptPlan p
    | none => s

/-- An access of another device is answered at the home, where every byte of it may be served; a write or an atomic operation on a
read-duplicated page starts the collapse (R404). What engines send to the reserved window acts through the events of pipes,
sweeps, steps and invocations. -/
def State.podAccess (s : State) (ctx off : Nat) (req : PodReq) : State :=
  let nak := fun (o : Nat) (w : Bool) => s.podNak ctx o w (podEngine req)
  let ends := [off, off + podSize req - 1]
  if 2 ^ 42 ≤ off then s
  else if ends.any fun o => (nak o false).isSome then s
  else if podWrites req && ends.any fun o => (nak o true).isSome then
    ends.foldl (fun (s : State) o => s.collapseAt ((remoteAddr o).getD 0)) s
  else match remoteAddr off with
    | some a => s.podServe ctx a req
    | none => s

/-- POD_REQUEST (R316, R416, R417, R419). -/
def execPodRequest (ctx : Nat) (off : Nat) (req : PodReq) (s : State) : Out :=
  match req with
  | .plan r => .next (s.planTold r (.podRequest ctx off req))
  | _ => .next (s.podAccess ctx off req)

-- Migration (R406, R380) ------------------------------------------------------------------------------------------------

/-- The pages of this device in which a result lies. -/
def State.resultPages (s : State) (ctx : Nat) (e : HEntry) : List Nat :=
  ((cut2M e.addr.toNat e.size).flatMap fun p =>
    match (s.ctx ctx).translate .r (BitVec.ofNat 64 p.1) with
    | some ia =>
      let a := s.home ia
      if iaClass a ≤ 4 then (List.range ((a + p.2 - 1) / 65536 + 1 - a / 65536)).map fun i => a / 65536 + i else []
    | none => []).filter fun g => (s.pages.find? g).any fun p => p.owner == ctx

/-- Bytes that the pager writes into frames of a context's pages, past every cache. -/
def State.pagerPut (s : State) (ctx a : Nat) (bs : List Byte) : State :=
  let put := (List.range bs.length).filter fun i => (s.pages.find? ((a + i) / 65536)).any fun p => p.owner == ctx
  let done := fun (m : SMap 8) => put.foldl (fun (m : SMap 8) i => m.set (a + i) (bs.getD i 0)) m
  { s with mem := done s.mem, dram := done s.dram }

/-- The pages of a result on another device, at the same offsets here: the pager maps them and copies what they hold. -/
def State.copyHome (s : State) (ctx x : Nat) (e : HEntry) : State :=
  (cut2M e.addr.toNat e.size).foldl (fun (s : State) p =>
    match (s.ctx ctx).translate .r (BitVec.ofNat 64 p.1) with
    | some ia =>
      match (if iaClass ia = 5 ∧ podDev ia = x then remoteAddr (ia % 2 ^ 43) else none) with
      | none => s
      | some a =>
        let ps := (List.range ((a + p.2 - 1) / 65536 + 1 - a / 65536)).map fun i => a / 65536 + i
        let s := ps.foldl (fun (s : State) g => if (s.pages.find? g).isNone then s.takeFrame g { owner := ctx } else s) s
        s.pagerPut ctx a (s.mem.bytes ia p.2)
    | none => s) s

/-- MIGRATE (R406): the pages of a RESOLVED result on this device become read-only, the other device copies them, LOC
changes, and the pages are released; or a result of another device comes here, or moves between others. Writes that
waited then meet the page as it is. This device, the result's home or not, keeps a forwarding pointer for a handle whose
result has left it, until it is back (R380); a result that comes here does so once the device it leaves has acknowledged
(log 41). -/
def execMigrate (handle : BitVec 64) (dev : Nat) (s : State) : Out :=
  let ctx := s.ownerOf handle
  match s.hentry ctx handle with
  | none => .next s
  | some e =>
    let x := e.loc.getD s.devNum
    if e.st ≠ .resolved ∨ dev = x then .next s
    else if x = s.devNum then
      let ps := s.resultPages ctx e
      let rest := ps.filter fun p => !(s.migrating.contains p)
      if !rest.isEmpty then
        .next (State.due { s with migrating := rest.foldl (fun l p => insertNat p l) s.migrating } (.migrate handle dev))
      else
        let s := s.putEntry handle { e with loc := some dev }
        let s := { s with forwards := s.forwards.put handle.toNat dev }
        let s := ps.foldl (fun (s : State) p => s.passPage p none) s
        .next (ps.foldl (fun (s : State) p => s.answerPage p true) s)
    else
      let s := s.putEntry handle { e with loc := some dev }
      .next (if dev = s.devNum then { s.copyHome ctx x e with forwards := s.forwards.del handle.toNat } else s)

-- A lost peer (R280, R382, R417) ----------------------------------------------------------------------------------------

/-- The steps whose peer, the next or the previous rank, is the device end with code 0x12 (R273, R279, R280). No access was
refused, so CPQRY shows address 0 for them: the spec states none (R277; DESIGN CHOICE, log 59). -/
def State.lostSteps (s : State) (dev : Nat) : List Instr :=
  s.cores.flatMap fun x => x.2.copies.filterMap fun o =>
    match o.coll with
    | some y =>
      let g := (s.die (dieOf x.1)).groups.find? y.group
      let peer := fun (g : Group) (k : Nat) => (g.members[(g.rank + k) % g.members.length]?).any fun m => m.1 == dev
      if g.any fun g => peer g 1 || peer g (g.members.length - 1) then some (.copyAbort x.1 o.id 0x12 0) else none
    | none => none

/-- The handles whose target, LOC or home is the device break with reason UNREACHABLE (R382): an entry whose LOC is still to be
chosen goes with the home of its input handle. -/
def State.lostHandles (s : State) (dev : Nat) : State :=
  let on := fun (e : HEntry) => match e.loc with | some d => d == dev | none => e.via == some dev
  let mine := s.hrt.filter fun p => p.2.st == .pending && decide (p.1 < 2 ^ 24) && on p.2
  let s := mine.foldl (fun (s : State) p =>
    let h := s.handleOf p.1 p.2.gen
    s.settle p.2.owner h (.broken 3 0 h)) s
  let going := s.msgs.filter fun m => match m.kind with
    | .task _ d => d == dev
    | .invoke _ h | .drop h => handleHome h == dev
    | _ => false
  going.foldl (fun (s : State) m =>
    match m.kind with
    | .task t _ | .invoke t _ => (s.endMsg m).settle m.ctx t.handle (.broken 3 0 t.handle)
    | _ => s.dropMsg m.id) s

/-- PEER_UNREACHABLE (R280, R382, R388, R417): a port reports it, until the device is heard of again. -/
def execPeerUnreachable (dev : Nat) (s : State) : Out :=
  if dev = s.devNum then .next s
  else
    let s := { s with pending := s.pending ++ s.lostSteps dev, lostDevs := insertNat dev s.lostDevs }
    .next (s.lostHandles dev)

end Sys2Proof.Machine
end

