-- ==== Sys2Proof/Machine/EvError.lean ====
section
/-! DEFINITION. Events of faults and of time: correctable and uncorrectable errors and the retirement of units (R443 to
R447), the bytes of log and trace records (R446, R458, R459), refresh debt and activation alerts (R449), the host link
(R411) and the ports (R416), and the time base (R451 to R453). -/

namespace Sys2Proof.Machine

-- Registers that the masters write and that have no field of their own (R408, R410, R416, R443) --------------------------

/-- The number of such a register in `regs`. -/
def regKey : MgmtReg → Option Nat
  | .qosWeight q c => some (2 ^ 40 + 4 * q + c)
  | .qosCredit q c => some (2 * 2 ^ 40 + 4 * q + c)
  | .linkKey p => some (3 * 2 ^ 40 + p)
  | .ptpConfig => some (4 * 2 ^ 40)
  | .retireWindow c => some (5 * 2 ^ 40 + c)
  | .retireThreshold c => some (6 * 2 ^ 40 + c)
  | _ => none

def State.reg (s : State) (r : MgmtReg) (dflt : Nat) : Nat := ((regKey r).bind fun k => s.regs.find? k).getD dflt

/-- The queues that weigh the classes (R410): those of 4 times 64 slices, 12 base-die ports and 24 UALink ports. -/
def qosQueues : Nat := 292

/-- The weight of a QoS class at a queue (R410): 4, 4, 2 and 1 until the owner writes it. -/
def State.qosWeight (s : State) (queue cls : Nat) : Nat := s.reg (.qosWeight queue cls) ([4, 4, 2, 1].getD cls 1)

-- Units (R443) -------------------------------------------------------------------------------------------------------------

/-- Resource classes: 0 a row of DRAM, unit = bank × 65536 + row; 1 a line frame of a slice, unit = slice × 65536 + frame,
the vault's frames first; 2 a line of a pool, unit = core × 65536 + line; 3 a lane, unit = port × 16 + lane. What has no such
unit has class 4, an L1 or a cluster's buffer under its number as the unit, or class 5, a merge state (log 22). -/
def unitClass (cls : Nat) : Bool := decide (cls < 4)

/-- An event on a unit: the record with the times of the last window, the table keeping 1 024 units of a class. -/
def Die.countUnit (x : Die) (cls unit now window : Nat) : Die × UnitRec :=
  let old := (x.units.find? fun u => u.cls == cls && u.unit == unit).getD { cls := cls, unit := unit, times := [] }
  let r : UnitRec := { old with times := now :: old.times.filter fun t => decide (now < t + window) }
  let rest := x.units.filter fun u => !(u.cls == cls && u.unit == unit)
  let same := rest.filter fun u => u.cls == cls
  let latest := fun (u : UnitRec) => u.times.foldl max 0
  let rest :=
    if same.length < 1024 then rest
    else
      match same.foldl (fun (b : Option UnitRec) u => match b with
        | some v => if latest u < latest v then some u else b
        | none => some u) none with
      | some v => rest.erase v
      | none => rest
  ({ x with units := rest ++ [r] }, r)

/-- Spares of a place: 4 rows of a bank, 64 frames of a slice, 32 lines of a core. -/
def spareLimit (cls : Nat) : Nat := match cls with | 0 => 4 | 1 => 64 | _ => 32

def spareKey (cls unit : Nat) : Nat := cls * 2 ^ 40 + unit / 65536

/-- Takes a spare where one is left. -/
def Die.takeSpare (x : Die) (cls unit : Nat) : Option Die :=
  let n := x.spares.getD (spareKey cls unit) 0
  if n < spareLimit cls then some { x with spares := x.spares.put (spareKey cls unit) (n + 1) } else none

/-- The frame of an address is retired (R443): accesses meet NAK RETIRED until the pager remaps it. Where no page is mapped to the
frame, no access reaches it, and the pager takes it no more (log 65). -/
def State.retireFrame (s : State) (ia : Nat) : State :=
  match s.pages.find? (ia / 65536) with
  | some p => { s with pages := s.pages.put (ia / 65536) { p with retired := true } }
  | none => s

/-- What is done with a unit that finds no spare (R444). -/
def State.noSpare (s : State) (d cls unit at_ : Nat) : State :=
  match cls with
  | 0 => s.retireFrame at_
  | 1 =>
    let x := s.die d
    s.setDie d { x with vaultBad := insertNat (at_ % 2 ^ 51 / 65536) x.vaultBad }
  | 2 => s.modCore (unit / 65536) fun (x : Core) => { x with noNew := true }
  | _ => s

/-- A lane is dropped (R411, R416, R443): the Miodeper link runs on 8 lanes, a port on 2 or 1, a die-to-die link at half
rate. Only timing changes. -/
def State.dropLane (s : State) (d ch port : Nat) : State :=
  match ch with
  | 12 => { s with link := { s.link with lanes := 8 } }
  | 11 => { s with link := { s.link with ua := s.link.ua.put port (if s.link.ua.getD port 4 = 4 then 2 else 1) } }
  | _ =>
    let x := s.die d
    s.setDie d { x with d2dHalf := insertNat port x.d2dHalf }

/-- A frame of a slice's cache ways is disabled (R443): the line in it leaves. -/
def State.dropFrame (s : State) (d unit : Nat) : State :=
  let there := fun (p : Nat × WLine) => p.2.frame == unit % 65536 && (homeOf (p.1 * 128)).map Prod.snd == some (unit / 65536)
  (((s.die d).ways.filter there).map Prod.fst).foldl (fun (s : State) l => s.dropWay l) s

/-- A spare stands in the place of a unit, and no event is counted on it yet. -/
def Die.renew (x : Die) (cls unit : Nat) : Die := { x with units := x.units.filter fun u => !(u.cls == cls && u.unit == unit) }

/-- A lasting unit is retired (R443, R444), which is logged. -/
def State.retireUnit (s : State) (d ch cls unit ctx at_ : Nat) : State :=
  let log := fun (s : State) (kind : Nat) => s.find d ch kind ctx s.freeDetail at_ 0 true
  let ways := cls == 1 && decide ((s.die d).vaultSteps * 6144 ≤ unit % 65536)
  if cls = 3 then (log s 4).dropLane d ch (unit / 16)
  else if ways then log (s.dropFrame d unit) 4
  else
    match (s.die d).takeSpare cls unit with
    | some x => log (s.setDie d (x.renew cls unit)) 4
    | none => (log s 5).noSpare d cls unit at_

/-- An event on a unit (R443): at the threshold it is lasting, which is logged, and it is retired. -/
def State.onUnit (s : State) (d ch cls unit ctx at_ : Nat) : State :=
  if unitClass cls then
    let window := s.reg (.retireWindow cls) 1000000000
    let (x, r) := (s.die d).countUnit cls unit s.now window
    let s := s.setDie d x
    if !r.retired && decide (s.reg (.retireThreshold cls) 4 ≤ r.times.length) then
      let mark := fun (u : UnitRec) => if u.cls = cls ∧ u.unit = unit then { u with retired := true } else u
      let x := s.die d
      let s := s.setDie d { x with units := x.units.map mark }
      (s.find d ch 3 ctx s.freeDetail at_ 0 true).retireUnit d ch cls unit ctx at_
    else s
  else s

-- What an uncorrectable event does to the bits (R440, R442) ---------------------------------------------------------------

/-- An ECC word of a row, or of a base die's cache, went bad: as the base die has it, and as its slice will get it where its
cache ways do not hold the line. -/
def State.badRow (s : State) (ia : Nat) : State :=
  if 4 < iaClass ia then s
  else
    let s := { s with dramBad := insertNat (ia / 32) s.dramBad }
    if (s.wayOf ia).isSome then s else { s with bad := s.baseBad (ia / 128) ++ s.bad.filter fun k => k / 4 != ia / 128 }

/-- The word of an address that a copy of its line holds went bad. -/
def CLine.spoil (l : CLine) (ia : Nat) : CLine := { l with bad := l.bad ||| ((0xFFFFFFFF#128 <<< (ia % 128 / 32 * 32)) &&& l.valid) }

def spoilIn (t : AList CLine) (ia : Nat) : AList CLine :=
  match t.find? (ia / 128) with
  | some l => t.put (ia / 128) (l.spoil ia)
  | none => t

/-- The word of an address went bad in a slice of a die: in its vault or in its cache ways, which hold the line or a replica of
it. -/
def State.badCave (s : State) (d ia : Nat) : State :=
  let held := iaClass ia = 7 || (s.wayOf ia).isSome
  let s := if held && (homeOf ia).map Prod.fst == some d then { s with bad := insertNat (ia / 32) s.bad } else s
  if ((s.die d).reps.find? (ia / 128)).isSome then s.setDie d { s.die d with reps := spoilIn (s.die d).reps ia } else s

/-- A word of a line of a core's pool went bad: of the line's data, or of the vector register that lies there (R16, R440). -/
def Core.badLine (x : Core) (line : Nat) : Core :=
  let w := line * 4
  let reg := fun (a : Agent) =>
    let k := (line * 128 - a.regBase) / 32
    let mine := decide (a.regBase ≤ line * 128 ∧ k < a.vregs * 8) && a.role != .copy
    if mine && !((List.range 4).any fun i => a.vbad.contains (k + i)) then { a with vbad := insertNat k a.vbad } else a
  if line * 128 < x.regB then { x with agents := x.agents.map fun p => (p.1, reg p.2) }
  else if (List.range 4).any fun i => x.badPool.contains (w + i) then x
  else { x with badPool := insertNat w x.badPool }

/-- A held partial of a merge state of a die's Hoop went bad. -/
def State.badState (s : State) (d unit : Nat) : State :=
  let spoil := fun (h : Held) => if h.whey.isNone then { h with bad := true } else h
  let hit := fun (v : Sweep) =>
    if v.leadDie = d then
      { v with slots := v.slots.map fun (q : Nat × QSlot) =>
          if v.base + q.1 = unit then (q.1, { q.2 with held := q.2.held.map spoil }) else q }
    else v
  { s with sweeps := s.sweeps.map hit }

/-- The bits that went bad: the ECC word of an address, where the channel's part of the device holds it; one of a line of a
pool, where none of the line is bad yet; a held partial of a merge state. -/
def State.goBad (s : State) (d ch cls unit at_ : Nat) : State :=
  match cls with
  | 0 => s.badRow at_
  | 1 => s.badCave d at_
  | 2 => s.modCore (unit / 65536) fun (x : Core) => x.badLine (unit % 65536)
  | 3 => s
  | 5 => s.badState d unit
  | _ =>
    if ch = 6 then s.badRow at_
    else if ch = 8 ∧ unit < 128 then s.modCore unit fun (x : Core) => { x with l1 := spoilIn x.l1 at_ }
    else if ch = 9 ∧ unit < 32 then
      let k := s.cluster unit
      s.setCluster unit { k with buf := spoilIn k.buf at_, au := spoilIn k.au at_ }
    else s

/-- The plan whose counters or controller state went bad is drained (R342, R440): an event of the launch processor's
channel whose place is a plan slot. -/
def State.badPlan (s : State) (slot : Nat) : State :=
  (s.plans.filter fun p => p.2.slot == slot && p.2.ending.isNone).foldl (fun (s : State) p => s.drainPlan p.1 3 0xFD 0 0) s

/-- ERROR_EVENT (R443, R445): the event is counted on its channel, logged, and counted on its unit. An uncorrectable event
in a row of DRAM retires its frame at once, which is an event of the next NCLK (R448's example). -/
def execErrorEvent (chan : Nat) (cls unit : Nat) (uncorrectable : Bool) (ctx : Option Nat) (at_ : Nat) (s : State) : Out :=
  let d := chan / 16
  let ch := chan % 16
  let who := ctx.getD 0xFF
  if 64 ≤ chan ∨ ch = 15 ∨ (cls = 2 ∧ 128 * 65536 ≤ unit) then .next s
  else if !uncorrectable then .next ((s.find d ch 1 who s.freeDetail at_ 1 true).onUnit d ch cls unit who at_)
  else
    let s := s.find d ch 2 who s.freeDetail at_ 2 true
    if ch = 13 then .next (s.badPlan at_)
    else
      let s := s.goBad d ch cls unit at_
      if cls = 0 then
        if (s.pages.find? (at_ / 65536)).any Page.retired then .next s
        else .next ((s.findNext d ch 4 who s.freeDetail at_).retireFrame at_)
      else .next (s.onUnit d ch cls unit who at_)

-- Refresh (R449) -----------------------------------------------------------------------------------------------------------

def refreshKey (stack pch : Nat) : Nat := stack * 64 + pch

/-- REFRESH (R449): a refresh that falls due is issued, with one that was postponed, or postponed, up to 8. -/
def execRefresh (die stack pch : Nat) (issue : Bool) (s : State) : Out :=
  let x := s.die die
  let n := x.postponed.getD (refreshKey stack pch) 0
  let m := if issue then n - 1 else min 8 (n + 1)
  .next (s.setDie die { x with postponed := x.postponed.put (refreshKey stack pch) m })

/-- ACTIVATION_ALERT (R449): served within its window; with 8 refreshes postponed, an owed one goes first and the alert is
counted as alert-with-debt. -/
def execActivationAlert (die stack pch : Nat) (s : State) : Out :=
  let x := s.die die
  let n := x.postponed.getD (refreshKey stack pch) 0
  if n < 8 then .next s
  else
    let s := s.setDie die { x with postponed := x.postponed.put (refreshKey stack pch) 7 }
    .next (s.find die stack 0 0xFF 0 0 3 false)

-- Records as they lie in memory (R446, R458, R459) ------------------------------------------------------------------------

/-- The 32 bytes of an error-log entry (R446). -/
def LogEntry.bytes (e : LogEntry) : List Byte :=
  leBytes e.event 8 ++ leBytes e.time 8 ++ leBytes e.channel 1 ++ leBytes e.kind 1 ++ leBytes e.ctx 1 ++ leBytes 0 1 ++
    leBytes e.detail 4 ++ leBytes e.where_ 8

/-- The 32 bytes of a trace record (R458). -/
def TraceRec.bytes (r : TraceRec) : List Byte :=
  leBytes r.time 8 ++ leBytes r.type 1 ++ leBytes r.flags 1 ++ leBytes (r.device % 1024) 2 ++ leBytes r.core 1 ++ leBytes r.ctx 1 ++
    leBytes 0 2 ++ leBytes r.payload.toNat 16

/-- The physical address of the record at a position of a die's trace buffer (R459; log 66). -/
def Die.tracePlace (x : Die) (p : Nat) : Nat := x.trBase + 32 * (p % (2 ^ x.trLog2 / 32))

-- The time base (R452, R453, R458) -----------------------------------------------------------------------------------------

/-- A CLK_SYNC record on each die. -/
def State.clkSync (s : State) (offset delay : Int) : State :=
  let w32 := fun (x : Int) => BitVec.ofInt 32 x
  let pay : BitVec 128 := w32 s.ptp.rate ++ (w32 delay ++ BitVec.ofInt 64 offset)
  (List.range 4).foldl (fun (s : State) d => s.trace d 1 0xFF 0xFF pay) s

/-- LOCKED becomes HOLDOVER, keeping the last rate; what the record shows as offset and delay is not stated: free values
(log 23). -/
def State.loseLock (s : State) : State :=
  if s.ptp.st = .locked then
    let s := { s with ptp := { s.ptp with st := .holdover, good := 0 } }
    s.clkSync (Config.freeWord s.tick 2).toInt (Config.freeWord s.tick 3).toInt
  else s

/-- PTP_EXCHANGE (R452): the flit leaves at t1; a link that is down carries none. -/
def execPtpExchange (s : State) : Out :=
  if s.link.down then .next s else .next { s with ptp := { s.ptp with t1 := some s.now } }

/-- The rate that cancels an offset over 16 ms, in parts per 10^9, within 100 ppm. -/
def slew (offset : Int) : Int := max (-100000) (min 100000 (offset * 125 / 2))

/-- PTP_REPLY (R452, R453): the reply of an exchange arrives now, t4. The first sets the time base, which never goes back
(R451); later ones slew it. -/
def execPtpReply (t2 t3 : Nat) (s : State) : Out :=
  match s.ptp.t1, s.link.down with
  | some t1, false =>
    let t4 := s.now
    let fwd : Int := (t2 : Int) - t1
    let back : Int := (t4 : Int) - t3
    let offset := (fwd - back) / 2
    let delay := (fwd + back) / 2
    let p : Ptp := { s.ptp with t1 := none, rate := slew offset }
    match s.ptp.st with
    | .unsync =>
      let now := max s.now ((t3 : Int) + delay).toNat
      let p : Ptp := { p with st := .holdover, good := 0, offsets := [], bound := 65535, lastGood := now, last := now, rate := 0 }
      .next (State.clkSync { s with now := now, ptp := p } offset delay)
    | st =>
      let offs := (offset :: s.ptp.offsets).take 8
      let ok := decide (offset.natAbs ≤ 50)
      let good := if ok then s.ptp.good + 1 else 0
      let p : Ptp := { p with offsets := offs, good := good, last := t4 }
      let p : Ptp := if ok then { p with lastGood := t4, bound := offs.foldl (fun m o => max m o.natAbs) 0 + 20 } else p
      let st' : PtpSt :=
        if st = .locked then (if 1000 < offset.natAbs then .holdover else .locked)
        else if 8 ≤ good then .locked else .holdover
      let p : Ptp := { p with st := st', good := if st' = .holdover ∧ st = .locked then 0 else good }
      .next (State.clkSync { s with ptp := p } offset delay)
  | _, _ => .next s

/-- PTP_TIMEOUT (R453): 3 ms without a completed exchange. -/
def execPtpTimeout (s : State) : Out := if s.ptp.last + 3000000 ≤ s.now then .next s.loseLock else .next s

-- Links (R411, R416, R443) -------------------------------------------------------------------------------------------------

/-- LANE_FAIL (R411, R416): link 0 is the Miodeper link, 1 to 24 are the UALink ports, and a higher number is a die-to-die
link of the die (link − 25) mod 4; the lane is dropped, which is logged. -/
def execLaneFail (link lane : Nat) (s : State) : Out :=
  let (d, ch, port) : Nat × Nat × Nat :=
    if link = 0 then (0, 12, 0) else if link ≤ 24 then ((link - 1) / 6, 11, link - 1) else ((link - 25) % 4, 10, (link - 25) / 4)
  .next ((s.find d ch 4 0xFF s.freeDetail (port * 16 + lane) 0 true).dropLane d ch port)

/-- FLIT_REPLAY (R411): after 8 failed replays of one flit the link retrains. -/
def execFlitReplay (ok : Bool) (s : State) : Out :=
  let l := s.link
  if l.down || l.retraining then .next s
  else if ok then .next { s with link := { l with failed := 0 } }
  else if l.failed + 1 < 8 then .next { s with link := { l with failed := l.failed + 1 } }
  else .next { s with link := { l with failed := 0, retraining := true } }

/-- LINK_DOWN (R411, R453): a link that fails to retrain is down; the time base holds over. -/
def execLinkDown (s : State) : Out :=
  if s.link.retraining then
    .next (State.loseLock { s with link := { s.link with retraining := false, down := true }, ptp := { s.ptp with t1 := none } })
  else .next s

/-- LINK_RETRAIN (R411): the link carries traffic again. -/
def execLinkRetrain (s : State) : Out := .next { s with link := { s.link with retraining := false } }

end Sys2Proof.Machine
end

