-- ==== Sys2Proof/Machine/EvHost.lean ====
section
/-! DEFINITION. Events of the host adapter and of the boot ROM: launch requests (R413, R414), signal watches (R415),
firmware (R423) and attestation (R425). -/

namespace Sys2Proof.Machine

-- Launch windows (R413, R414) ----------------------------------------------------------------------------------------------

/-- The request in 64 bytes; none where it is discarded for its form. -/
def LwReq.ofData (data : BitVec 512) : Option LwReq :=
  let w := fun (k : Nat) => data.extractLsb' (64 * k) 64
  let prio := (data.extractLsb' 320 8).toNat
  let flags := (data.extractLsb' 328 8).toNat
  let waits := (List.range 4).map fun k => w (1 + k)
  if prio < 4 ∧ flags < 2 ∧ data.extractLsb' 336 176 = 0 ∧ waits.all (fun (a : W64) => a.toNat % 16 = 0) then
    some { plan := w 0, waits := waits.filter fun a => a != 0, prio := prio, errStop := decide (flags = 1) }
  else none

/-- LAUNCH_REQUEST (R413): one aligned 64-byte write to offset 0 of an ACTIVE context's window; only the discard at a full
queue is counted. -/
def execLaunchRequest (ctx off size : Nat) (data : BitVec 512) (s : State) : Out :=
  let x := s.ctx ctx
  if s.link.down || s.fw.recovery || x.st != .active || off != 0 || size != 64 then .next s
  else
    match LwReq.ofData data with
    | none => .next s
    | some r =>
      if 256 ≤ x.lwQ.length then .next (s.setCtx ctx { x with lwDropped := x.lwDropped + 1 })
      else .next ((s.setCtx ctx { x with lwQ := x.lwQ ++ [r] }).due (.launchWaitSatisfied ctx x.lwQ.length))

/-- What the adapter finds at a signal: it cannot read it, it waits, or VALUE and STATUS. -/
inductive SigRead where
  | lost
  | wait
  | val (value status : W64)
  deriving DecidableEq, Repr

/-- A signal as a SYS acquire of the adapter reads it, but for a page of `gone`, which the pager has refused it (R414). -/
def State.readSig (s : State) (ctx : Nat) (gone : List Nat) (a : W64) : SigRead :=
  match waitPage gone [s.awaited ctx .r a 16], s.homeBytes ctx a 16 with
  | some _, _ => .wait
  | none, some bs => .val (BitVec.ofNat 64 (leNat (bs.take 8))) (BitVec.ofNat 64 (leNat (bs.drop 8)))
  | none, none => .lost

def SigRead.status (r : SigRead) : W64 := match r with | .val _ t => t | _ => 0

/-- A request refused by its signals, with reason 0x20 or 0x21 (R285, R414). -/
def State.refuseLaunch (s : State) (ctx : Nat) (r : LwReq) (reason : Nat) : State :=
  s.refusePlan ctx { s.checkPlan ctx r.plan r.prio with reason := reason }

/-- The signals of a request, as one check finds them. -/
def State.readSigs (s : State) (ctx : Nat) (r : LwReq) : List SigRead := r.waits.map (s.readSig ctx r.gone)

/-- A request's waits are satisfied. -/
def State.launchable (s : State) (ctx : Nat) (r : LwReq) : Bool :=
  (s.readSigs ctx r).all fun g => match g with | .val v _ => v.sle 0 | _ => false

/-- A check of a context's requests: those whose waits are satisfied, and were not yet, are found so in arrival order (R414). -/
def State.checkWaits (s : State) (ctx : Nat) : State :=
  let x := s.ctx ctx
  let mark := fun (p : List LwReq × Nat) (r : LwReq) =>
    if r.found.isNone && s.launchable ctx r then (p.1 ++ [{ r with found := some p.2 }], p.2 + 1) else (p.1 ++ [r], p.2)
  let p := x.lwQ.foldl mark ([], s.nextId)
  State.setCtx { s with nextId := p.2 } ctx { x with lwQ := p.1 }

/-- A request that was found satisfied before has not been passed yet (R414); one whose plan waits for the pager holds back no
other. -/
def State.launchBefore (s : State) (r : LwReq) : Bool :=
  s.ctxs.any fun x => x.2.lwQ.any fun q =>
    (match q.found, r.found with | some m, some n => decide (m < n) | _, _ => false) && !(s.planAwaits x.1 q.plan q.gone)

/-- A request leaves its queue; those behind it move up. -/
def State.endLaunch (s : State) (ctx idx : Nat) : State :=
  let up := fun (e : Instr) => match e with
    | .launchWaitSatisfied c j => if c = ctx ∧ idx < j then .launchWaitSatisfied c (j - 1) else e
    | _ => e
  State.setCtx { s with pending := s.pending.map up } ctx { s.ctx ctx with lwQ := (s.ctx ctx).lwQ.eraseIdx idx }

/-- LAUNCH_WAIT_SATISFIED (R414): the signals are checked, and once every one of a request is at most 0 the plan controller gets
its plan, in the order in which requests were found satisfied; a signal that cannot be read, or with ERR_STOP a STATUS,
refuses it. -/
def execLaunchWaitSatisfied (ctx idx : Nat) (s : State) : Out :=
  let s := s.checkWaits ctx
  match (s.ctx ctx).lwQ[idx]? with
  | none => .next s
  | some r =>
    let gone := s.endLaunch ctx idx
    if (s.ctx ctx).st ≠ .active then .next gone
    else if (s.readSigs ctx r).contains .lost then .next (gone.refuseLaunch ctx r 0x21)
    else if r.found.isNone ∨ s.launchBefore r then .next (s.due (.launchWaitSatisfied ctx idx))
    else if r.errStop && (s.readSigs ctx r).any fun g => g.status != 0 then .next (gone.refuseLaunch ctx r 0x20)
    else if s.planAwaits ctx r.plan r.gone || decide (32 ≤ s.plans.length) then .next (s.due (.launchWaitSatisfied ctx idx))
    else .next (gone.launchPlan ctx r.plan r.prio).2

/-- LW_CREDIT (R413): the free entries of the queue. -/
def Ctx.lwCredit (x : Ctx) : Nat := 256 - x.lwQ.length

/-- What a read of a context's launch window gives (R413): LW_CREDIT and LW_DROPPED, and nothing elsewhere or in recovery
(R423). -/
def State.windowRead (s : State) (ctx off : Nat) : Option Nat :=
  if s.fw.recovery then none
  else if off = 64 then some (s.ctx ctx).lwCredit
  else if off = 72 then some (s.ctx ctx).lwDropped
  else none

-- Watches (R415) -----------------------------------------------------------------------------------------------------------

/-- WATCH_ARM (R415): one of 256; it fires at once where its condition holds. In recovery no virtual function is there to arm it
(R423). -/
def execWatchArm (ctx idx : Nat) (addr threshold : BitVec 64) (vector : Nat) (s : State) : Out :=
  if s.fw.recovery || decide (256 ≤ idx) then .next s
  else
    let x := s.ctx ctx
    let w : Watch := { addr := addr, threshold := threshold, vector := vector, armed := true }
    .next ((s.setCtx ctx { x with watches := x.watches.put idx w }).due (.watchFire ctx idx))

/-- WATCH_FIRE (R415): the vector fires and the watch disarms; while the link is down watches stop (R411). -/
def execWatchFire (ctx idx : Nat) (s : State) : Out :=
  let x := s.ctx ctx
  match x.watches.find? idx with
  | none => .next s
  | some w =>
    if !w.armed || s.link.down || s.fw.recovery then .next s
    else
      match s.readSig ctx [] w.addr with
      | .val v _ =>
        if v.sle w.threshold then
          .next { s.setCtx ctx { x with watches := x.watches.put idx { w with armed := false } } with msix := s.msix ++ [w.vector] }
        else .next (s.due (.watchFire ctx idx))
      | _ => .next (s.due (.watchFire ctx idx))

-- Firmware (R423) ----------------------------------------------------------------------------------------------------------

/-- The checks of the boot ROM: the signature over the body's digest, and the security version. -/
def imageGood (i : Image) (minSvn : Nat) : Bool := Config.rootVerifies i.body i.signature && decide (minSvn ≤ i.svn)

/-- A good image runs. -/
def Firmware.run (f : Firmware) (i : Image) : Firmware := { f with recovery := false, svn := i.svn, body := i.body, flash := some i }

/-- DEVICE_RESET (R423, R453): every register is as after reset, the fuses and the flash stay, and the boot ROM verifies
the image in the flash, which the event names where it has been written from outside. -/
def execDeviceReset (image : Option Image) (s : State) : Out :=
  let img := image.orElse fun _ => s.fw.flash
  let base : Firmware := { minSvn := s.fw.minSvn, flash := img }
  let fw := match img with
    | some i => if imageGood i s.fw.minSvn then base.run i else { base with recovery := true }
    | none => { base with recovery := true }
  .next { State.reset with agenda := s.agenda, tick := s.tick, nextId := s.nextId, fw := fw }

/-- RECOVERY_IMAGE (R423): only in recovery; a good image runs and is written to flash. -/
def execRecoveryImage (image : Image) (s : State) : Out :=
  if s.fw.recovery && imageGood image s.fw.minSvn then .next { s with fw := s.fw.run image } else .next s

/-- SVN_RAISE (R423): up to the running image's own version. -/
def execSvnRaise (svn : Nat) (s : State) : Out :=
  if !s.fw.recovery && decide (s.fw.minSvn < svn ∧ svn ≤ s.fw.svn) then .next { s with fw := { s.fw with minSvn := svn } }
  else .next s

-- Attestation (R425) -------------------------------------------------------------------------------------------------------

/-- The CTX_STATE register of a context (R393). -/
def Ctx.stateReg (x : Ctx) : Nat :=
  (match x.st with | .free => 0 | .active => 1 | .teardown => 2) + x.part * 16 + if x.hostMap then 128 else 0

def Window.regs (w : Window) : List Nat :=
  let bit := fun (b : Bool) (n : Nat) => if b then n else 0
  [w.vbase * 2 ^ 21, w.ibase * 2 ^ 21, bit w.r 1 + bit w.w 2 + bit w.x 4 + bit w.valid 8 + w.log2 * 256]

/-- The registers of the attested blocks, in the order of R422's table; their layout as bytes is the model's (log 24). -/
def State.attested (s : State) : List Nat :=
  let ctxs := (List.range 64).flatMap fun c =>
    let x := s.ctx c
    [x.stateReg] ++ ((List.range 8).flatMap fun n => (x.mw.getD n {}).regs) ++
      ((List.range 16).flatMap fun n => let r := x.hostRanges.getD n (0, 0); [r.1, r.2]) ++
      [x.cbCores, x.cbEnergy] ++ ((List.range 4).map fun k => x.cbBw.getD k 0) ++ [x.ttBase.toNat, x.ttCount]
  let dies := (List.range 4).flatMap fun d => (s.die d).vaultSteps :: (s.die d).vaultOwn.flatMap fun p => [p.1, p.2]
  let pager := s.pages.flatMap fun p => [p.1, p.2.frame, p.2.owner, p.2.policy, if p.2.retired then 1 else 0]
  let weights := (List.range qosQueues).flatMap fun q => (List.range 4).map fun k => s.qosWeight q k
  let fabric := (s.routes.flatMap fun p => [p.1, p.2]) ++ (s.shadowRoutes.flatMap fun p => [p.1, p.2]) ++ s.swaps ++
    [if s.swapDone then 1 else 0] ++
    weights ++ ((s.regs.filter fun p => decide (2 * 2 ^ 40 ≤ p.1 ∧ p.1 < 3 * 2 ^ 40)).flatMap fun p => [p.1, p.2]) ++
    (List.range 4).flatMap fun d => (s.die d).groups.flatMap fun g => g.1 :: g.2.rank :: g.2.members.flatMap fun m => [m.1, m.2]
  ctxs ++ dies ++ pager ++ fabric ++ [s.devNum]

/-- The plans of a context, in acceptance order. -/
def State.plansOf (s : State) (ctx : Nat) : List PlanSt := (s.plans.filter fun p => p.2.ctx == ctx).map Prod.snd

/-- Bytes 0 to 255 of a report. -/
def State.reportBody (s : State) (ctx : Nat) (nonce : BitVec 256) : List Byte :=
  let ps := s.plansOf ctx
  let plans := if ps.isEmpty then List.replicate 64 0
    else leBytes (Config.sha512 (ps.flatMap fun p => leBytes p.digest.toNat 64)).toNat 64
  leBytes 0x41545331 4 ++ leBytes 1 2 ++ leBytes ps.length 2 ++ leBytes s.now 8 ++ leBytes s.devNum 2 ++ leBytes ctx 2 ++
    leBytes s.fw.svn 4 ++ leBytes nonce.toNat 32 ++ leBytes s.fw.body 64 ++
    leBytes (Config.sha512 (s.attested.flatMap fun v => leBytes v 8)).toNat 64 ++ plans ++ List.replicate 8 0

/-- ATTESTATION_REQUEST (R425): the report, signed by the identity key, in one step. -/
def execAttestationRequest (ctx : Nat) (nonce : BitVec 256) (s : State) : Out :=
  if s.fw.recovery then .next s
  else
    let body := s.reportBody ctx nonce
    .next { s with report := some (body ++ leBytes (Config.identitySign s.fw.svn body).toNat 64) }

end Sys2Proof.Machine
end

