-- ==== Sys2Proof/Machine/EvReg.lean ====
section
/-! DEFINITION. Ownership of the device (R420 to R422) and the writes of management registers: power (R1), the Cave carve
(R24, R25), contexts and their windows and budgets (R323, R393 to R397), partitions (R408), the error snapshot (R448),
tracing (R459, R460), the device number (R418), and the registers that have no row of their own. -/

namespace Sys2Proof.Machine

-- Ownership (R420 to R422) -------------------------------------------------------------------------------------------------

/-- A write of a master that is not the owner is ignored and counted (R421). -/
def State.foreignWrite (s : State) : State := { s with mgmt := { s.mgmt with nonOwnerWrites := s.mgmt.nonOwnerWrites + 1 } }

/-- Ownership falls vacant, and a new election opens (R420, R421). -/
def State.vacate (s : State) : State :=
  { s with mgmt := { s.mgmt with owner := none, claims := [], opened := s.now, handover := none } }

/-- After 1 s without a heartbeat nobody owns the device, whatever comes next (R421). -/
def State.lapsed (s : State) : State :=
  if s.mgmt.owner.isSome ∧ s.mgmt.heartbeat + 1000000000 ≤ s.now then s.vacate else s

/-- A write that only the owner may make. -/
def State.ownerWrite (s : State) (master : Nat) (f : State → State) : Out :=
  .next (if s.lapsed.mgmt.owner = some master then f s.lapsed else s.lapsed.foreignWrite)

/-- A master becomes the owner. -/
def State.elect (s : State) (master : Nat) : State :=
  { s with mgmt := { s.mgmt with owner := some master, heartbeat := s.now, handover := none, claims := [] } }

/-- The winner of an election: claims equal in both numbers are all rejected; then the lowest priority, then the lowest
nonce. -/
def winner (claims : List (Nat × Nat × Nat)) : Option Nat :=
  let alone := claims.filter fun c => (claims.filter fun d => d.2 == c.2).length == 1
  (alone.foldl (fun (b : Option (Nat × Nat × Nat)) c =>
    match b with
    | some d => if c.2.1 < d.2.1 ∨ (c.2.1 = d.2.1 ∧ c.2.2 < d.2.2) then some c else b
    | none => some c) none).map Prod.fst

/-- An open election whose 10 ms are over is decided (R420); one without claims, or without a winner, stays open. -/
def State.decided (s : State) : State :=
  if s.mgmt.owner.isSome || s.mgmt.claims.isEmpty || decide (s.now < s.mgmt.opened + 10000000) then s
  else
    match winner s.mgmt.claims with
    | some m => s.elect m
    | none => { s with mgmt := { s.mgmt with claims := [], opened := s.now } }

/-- OWNERSHIP_CLAIM (R420): a claim in an open election; a master's later claim replaces its earlier one. The first claim after
10 ms without any starts another 10 ms (DESIGN CHOICE, log 59). -/
def execOwnershipClaim (master prio nonce : Nat) (s : State) : Out :=
  let s := s.lapsed.decided
  if s.mgmt.owner.isSome then .next (if s.mgmt.owner = some master then s else s.foreignWrite)
  else
    let rest := s.mgmt.claims.filter fun c => c.1 != master
    let opened := if s.mgmt.claims.isEmpty ∧ s.mgmt.opened + 10000000 ≤ s.now then s.now else s.mgmt.opened
    .next { s with mgmt := { s.mgmt with claims := rest ++ [(master, prio, nonce % 2 ^ 32)], opened } }

/-- ELECTION_DECIDE (R420). -/
def execElectionDecide (s : State) : Out := .next s.decided

/-- HEARTBEAT (R421). -/
def execHeartbeat (master : Nat) (s : State) : Out :=
  s.ownerWrite master fun s => { s with mgmt := { s.mgmt with heartbeat := s.now } }

/-- OWNER_LAPSE (R421). -/
def execOwnerLapse (s : State) : Out := .next s.lapsed

/-- HANDOVER (R422): the owner names a successor's claim. -/
def execHandover (master prio nonce : Nat) (s : State) : Out :=
  s.ownerWrite master fun s => { s with mgmt := { s.mgmt with handover := some (prio, nonce % 2 ^ 32, s.now) } }

/-- ACCEPT (R422): the same claim within 100 ms. -/
def execAccept (master prio nonce : Nat) (s : State) : Out :=
  let s := s.lapsed
  let other := if s.mgmt.owner = some master then s else s.foreignWrite
  match s.mgmt.handover with
  | some (p, n, t) => .next (if prio = p ∧ nonce % 2 ^ 32 = n ∧ s.now ≤ t + 100000000 then s.elect master else other)
  | none => .next other

/-- HANDOVER_LAPSE (R422). -/
def execHandoverLapse (s : State) : Out :=
  match s.mgmt.handover with
  | some (_, _, t) => if t + 100000000 < s.now then .next { s with mgmt := { s.mgmt with handover := none } } else .next s
  | none => .next s

-- Power and carve (R1, R24, R25) -------------------------------------------------------------------------------------------

/-- POWER_LIMIT_WRITE (R1): 1 500 to 3 200 W. -/
def execPowerLimitWrite (master watts : Nat) (s : State) : Out :=
  s.ownerWrite master fun s => if 1500 ≤ watts ∧ watts ≤ 3200 then { s with powerLimit := watts } else s

/-- The moment forbids a carve write: a resident plan has a pipe homed on the die, or a sweep is on it (R24). -/
def State.carveBusy (s : State) (d : Nat) : Bool :=
  (s.plans.any fun p => p.2.pipes.any fun q =>
    q.homeDie == d && (p.2.stages[q.consumer]?).any fun t => t.device == s.devNum) ||
    s.sweeps.any fun v => v.leadDie == d || (List.range v.npages).any fun k => s.pageDie v k == d

/-- First byte of a die's vault that `steps` do not reach (R23). -/
def vaultTop (steps : Nat) : Nat := 64 * steps * 786432

/-- Steps that leave the vault: their lines go, and their bytes and owners with them (R25). -/
def State.cutVault (s : State) (d lo hi : Nat) : State :=
  let s := s.wipe (granuleAt d 0 + lo) (hi - lo)
  let x := s.die d
  s.setDie d { x with vaultOwn := x.vaultOwn.filter fun p => decide (p.1 * 65536 < lo), vaultBad := x.vaultBad.filter fun g => decide (g * 65536 < lo) }

/-- Frames that pass from the cache ways of a die's slices to the vault give up their lines (R23, R25, R189). -/
def State.giveWays (s : State) (d steps : Nat) : State :=
  (((s.die d).ways.filter fun w => decide (w.2.frame < steps * 6144)).map Prod.fst).foldl (fun (s : State) l => s.dropWay l) s

/-- CARVE_WRITE (R24, R25). -/
def execCarveWrite (master die : Nat) (v : BitVec 32) (s : State) : Out :=
  s.ownerWrite master fun s =>
    let new := v.toNat % 16
    let old := (s.die die).vaultSteps
    if 8 < new ∨ new = old ∨ s.carveBusy die then s
    else
      let x := s.die die
      let s := s.setDie die { x with reps := [] }
      let s := if new < old then s.cutVault die (vaultTop new) (vaultTop old) else s
      let s := s.giveWays die new
      let x := s.die die
      s.setDie die { x with vaultSteps := new }

-- Contexts (R393 to R397) --------------------------------------------------------------------------------------------------

/-- CTX_ACTIVATE (R395): the context owned no page before. -/
def execCtxActivate (master ctx : Nat) (s : State) : Out :=
  s.ownerWrite master fun s =>
    if (s.ctx ctx).st = .free then
      State.setCtx { s with freed := s.freed.filter fun p => p.2 != ctx } ctx { s.ctx ctx with st := .active }
    else s

/-- CTX_TEARDOWN (R395, steps 1 and 2): admission stops, and every plan of the context is drained with state FAULT and
reason 0xFE; TEARDOWN_FREE does the rest once they are gone. -/
def execCtxTeardown (master ctx : Nat) (s : State) : Out :=
  s.ownerWrite master fun s =>
    if (s.ctx ctx).st = .active then
      let s := s.setCtx ctx { s.ctx ctx with st := .teardown }
      let s := (s.plans.filter fun p => p.2.ctx == ctx).foldl (fun (s : State) p => s.drainPlan p.1 3 0xFE 0 0) s
      s.due (.teardownFree ctx)
    else s

/-- Steps 3 to 6 of a teardown. -/
def State.releaseCtx (s : State) (ctx : Nat) : State :=
  let cores := (s.cores.filter fun x => x.2.ctx == some ctx).map Prod.fst
  let s := cores.foldl (fun (s : State) c => s.freeRun c) s
  let open_ := s.hrt.filter fun p => decide (p.1 < 2 ^ 24) && p.2.owner == ctx && p.2.st == .pending
  let s := open_.foldl (fun (s : State) p =>
    let h := s.handleOf p.1 p.2.gen
    s.settle ctx h (.broken 2 0 h)) s
  let s := s.dropSweeps fun v => v.ctx != ctx
  let s := s.setCtx ctx { s.ctx ctx with cancel := [], reserved := [], taskQ := [], taskGone := [], lwQ := [] }
  let s := { s with clusters := s.clusters.map fun (u : Nat × Cluster) => (u.1, u.2.clearBars ctx), msgs := s.msgs.filter fun m => m.ctx != ctx,
                    heldSys := s.heldSys.filter fun h => h.ctx != ctx }
  let s := ((s.pages.filter fun (p : Nat × Page) => p.2.owner == ctx).map Prod.fst).foldl (fun (s : State) p => s.passPage p none) s
  (List.range 4).foldl (fun (s : State) d =>
    (((s.die d).vaultOwn.filter fun g => g.2 == ctx).map Prod.fst).foldl (fun (s : State) g => s.passGranule d g none) s) s

/-- TEARDOWN_FREE (R395, steps 3 to 7). -/
def execTeardownFree (ctx : Nat) (s : State) : Out :=
  if (s.ctx ctx).st ≠ .teardown then .next s
  else if s.plans.any fun p => p.2.ctx == ctx then .next (s.due (.teardownFree ctx))
  else
    let s := s.releaseCtx ctx
    .next (s.setCtx ctx { s.ctx ctx with st := .free })

/-- A context that has something on the device keeps its windows (R397). -/
def State.ctxBusy (s : State) (ctx : Nat) : Bool :=
  (s.cores.any fun x => x.2.ctx == some ctx && (!x.2.wgs.isEmpty || x.2.image.isSome)) || !(s.ctx ctx).taskQ.isEmpty ||
    (s.plans.any fun p => p.2.ctx == ctx) || s.sweeps.any fun v => v.ctx == ctx

/-- A window as three registers give it (R396). -/
def Window.ofRegs (va ia ctl : BitVec 64) : Window :=
  { vbase := va.toNat / 2 ^ 21, ibase := ia.toNat % 2 ^ 56 / 2 ^ 21, log2 := ctl.toNat / 256 % 64, valid := ctl.getLsbD 3,
    x := ctl.getLsbD 2, w := ctl.getLsbD 1, r := ctl.getLsbD 0 }

/-- The conditions that refuse a window (R397). -/
def State.windowBad (s : State) (ctx n : Nat) (w : Window) : Bool :=
  let x := s.ctx ctx
  let size := 2 ^ w.log2
  let lo := w.vbase * 2 ^ 21
  let ia := w.ibase * 2 ^ 21
  let tops := (List.range 2).map fun k => (0xFD + k) * 2 ^ 56
  let overlaps := fun (m : Nat) =>
    let y := x.mw.getD m {}
    m != n && y.valid && decide (lo < y.vbase * 2 ^ 21 + 2 ^ y.log2 ∧ y.vbase * 2 ^ 21 < lo + size)
  decide (lo % size ≠ 0 ∨ ia % size ≠ 0 ∨ w.log2 < 21 ∨ 53 < w.log2) ||
    (tops.any fun t => decide (lo < t + 2 ^ 56 ∧ t < lo + size)) || (List.range 8).any overlaps ||
    (iaClass ia == 5 && decide (2 ^ 42 ≤ ia % 2 ^ 43 ∨ 2 ^ 42 < size)) || (iaClass ia == 6 && !x.hostMap) || s.ctxBusy ctx

/-- MAP_WINDOW_WRITE (R397): refused, all three registers stay and MW_ERR is set. -/
def execMapWindowWrite (master ctx n : Nat) (va ia ctl : BitVec 64) (s : State) : Out :=
  s.ownerWrite master fun s =>
    if 8 ≤ n then s
    else
      let x := s.ctx ctx
      let new := Window.ofRegs va ia ctl
      let old := x.mw.getD n {}
      if (new.valid || (old.valid && decide (new ≠ old))) && s.windowBad ctx n new then { s with mwErr := true }
      else s.setCtx ctx { x with mw := x.mw.put n new }

/-- CB_CORES_WRITE (R323): it takes effect as cores are freed. -/
def execCbCoresWrite (master ctx : Nat) (v : BitVec 32) (s : State) : Out :=
  s.ownerWrite master fun s => (s.setCtx ctx { s.ctx ctx with cbCores := v.toNat % 256 }).due .planStart

-- Partitions (R408) --------------------------------------------------------------------------------------------------------

/-- SWAP_REQ (R408): the sources of the partition stall, which changes no value and no order (R450). -/
def execSwapReq (master part : Nat) (s : State) : Out :=
  s.ownerWrite master fun s =>
    if 8 ≤ part ∨ s.swaps.contains part then s else { s with swaps := s.swaps ++ [part], swapDone := false }

/-- Entries of a partition in a routing table. -/
def routeKey (part entry : Nat) : Nat := part * 2 ^ 32 + entry
def ofPart (part : Nat) (t : AList Nat) : AList Nat := t.filter fun p => p.1 / 2 ^ 32 == part
def notPart (part : Nat) (t : AList Nat) : AList Nat := t.filter fun p => p.1 / 2 ^ 32 != part

/-- SWAP_DONE (R408): the active and the shadow tables of the partition are exchanged, and injection resumes. -/
def execSwapDone (s : State) : Out :=
  match s.swaps with
  | [] => .next s
  | p :: rest =>
    let into := fun (t u : AList Nat) => (ofPart p u).foldl (fun (t : AList Nat) e => t.put e.1 e.2) (notPart p t)
    .next { s with swaps := rest, swapDone := true, routes := into s.routes s.shadowRoutes, shadowRoutes := into s.shadowRoutes s.routes }

-- Snapshot and trace (R448, R459, R460) ------------------------------------------------------------------------------------

/-- SNAP_REQ (R448). -/
def execSnapReq (master : Nat) (s : State) : Out :=
  s.ownerWrite master fun s =>
    let dies := (List.range 4).map s.die
    { s with snap := some { chans := dies.map Die.chan, lost := dies.map Die.lost, elWr := dies.map Die.elWr,
                            elRd := dies.map Die.elRd, logs := dies.map Die.log, nextEvent := s.nextEvent } }

/-- TR_BASE_WRITE (R459): while EN is 0; BASE is aligned to the buffer's size, so that the bits below it are 0 (log 66). -/
def execTrBaseWrite (master die : Nat) (v : BitVec 64) (s : State) : Out :=
  s.ownerWrite master fun s =>
    let x := s.die die
    if x.trEn then s
    else
      let base := v.toNat % 2 ^ 56 / 2 ^ x.trLog2 * 2 ^ x.trLog2
      s.setDie die { x with trBase := base, trWr := 0, trRd := 0, trace := [] }

/-- TR_CTL_WRITE (R459). -/
def execTrCtlWrite (master die : Nat) (v : BitVec 32) (s : State) : Out :=
  s.ownerWrite master fun s =>
    let x := s.die die
    let l := v.toNat / 2 % 32
    let y : Die := if !x.trEn && decide (20 ≤ l ∧ l ≤ 30 ∧ l ≠ x.trLog2) then { x with trLog2 := l, trWr := 0, trRd := 0, trace := [] } else x
    s.setDie die { y with trEn := v.getLsbD 0, trMask := v.extractLsb' 9 7 }

/-- TR_RD_WRITE (R460): from RD to WR. -/
def execTrRdWrite (die : Nat) (v : BitVec 64) (s : State) : Out :=
  let x := s.die die
  if x.trRd ≤ v.toNat ∧ v.toNat ≤ x.trWr then .next (s.setDie die { x with trRd := v.toNat }) else .next s

/-- TR_DROPPED_WRITE (R459). -/
def execTrDroppedWrite (master die : Nat) (s : State) : Out :=
  s.ownerWrite master fun s => s.setDie die { s.die die with trDropped := 0 }

-- The rest -----------------------------------------------------------------------------------------------------------------

/-- DEVICE_NUMBER_WRITE (R418): while no context is ACTIVE. -/
def execDeviceNumberWrite (master : Nat) (v : BitVec 10) (s : State) : Out :=
  s.ownerWrite master fun s =>
    if s.ctxs.any fun x => x.2.st == .active then s else { s with devNum := v.toNat, numSet := true }

def State.modCtx (s : State) (c : Nat) (f : Ctx → Ctx) : State := if c < 64 then s.setCtx c (f (s.ctx c)) else s

/-- A host range of a context (R412): its base and its size. -/
def Ctx.setRange (x : Ctx) (n : Nat) (f : Nat × Nat → Nat × Nat) : Ctx :=
  if n < 16 then { x with hostRanges := x.hostRanges.put n (f (x.hostRanges.getD n (0, 0))) } else x

/-- An entry of a die's collective group table (R278). -/
def State.putGroup (s : State) (d g : Nat) (f : Group → Group) : State :=
  if d < 4 ∧ g < 2 ^ 32 then
    let x := s.die d
    s.setDie d { x with groups := x.groups.put g (f (x.groups.getD g {})) }
  else s

/-- A page becomes read-duplicated once no cache holds dirty bytes of it (R399, R403); only a collapse makes it normal
again (R404). -/
def State.setPolicy (s : State) (p v : Nat) : State :=
  match s.pages.find? p with
  | some g =>
    if v = 1 ∧ g.policy = 0 then
      let s := s.purge (p * 65536) 65536
      { s with pages := s.pages.put p { g with policy := 1 } }
    else s
  | none => s

/-- What a register takes from a write (R278, R323, R370, R393, R397, R408, R410, R412, R416, R443, R447). -/
def State.putReg (s : State) (reg : MgmtReg) (v : Nat) : State :=
  match reg with
  | .cbEnergy c => s.modCtx c fun x => { x with cbEnergy := v % 2 ^ 32 }
  | .cbBw c k => s.modCtx c fun x => if k < 4 then { x with cbBw := x.cbBw.put k (v % 2 ^ 32) } else x
  | .ttBase c => s.modCtx c fun x => { x with ttBase := BitVec.ofNat 64 (v / 16 * 16) }
  | .ttCount c => s.modCtx c fun x => { x with ttCount := v % 65536 }
  | .part c => s.modCtx c fun x => if x.st = .free then { x with part := v % 8 } else x
  | .hostMap c => s.modCtx c fun x => { x with hostMap := decide (v % 2 = 1) }
  | .hostRangeBase c n => s.modCtx c fun x => x.setRange n fun r => (v, r.2)
  | .hostRangeSize c n => s.modCtx c fun x => x.setRange n fun r => (r.1, v)
  | .mwErr => if v = 0 then { s with mwErr := false } else s
  | .elRd d =>
    let x := s.die d
    if d < 4 ∧ x.elRd ≤ v ∧ v ≤ x.elWr then s.setDie d { x with elRd := v } else s
  | .pagePolicy p => s.setPolicy p v
  | .shadowRoute p e => if p < 8 ∧ e < 2 ^ 32 then { s with shadowRoutes := s.shadowRoutes.put (routeKey p e) v } else s
  | .groupMember d g r => s.putGroup d g fun x => { x with members := x.members.set r (v / 4 % 1024, v % 4) }
  | .groupSize d g => s.putGroup d g fun x =>
      if v ≤ 1024 then { x with members := x.members.take v ++ List.replicate (v - x.members.length) (0, 0) } else x
  | .groupRank d g => s.putGroup d g fun x => { x with rank := v }
  | .qosWeight q c => if q < qosQueues ∧ c < 4 ∧ 1 ≤ v ∧ v ≤ 15 then { s with regs := s.regs.put (2 ^ 40 + 4 * q + c) v } else s
  | .qosCredit q c => if q < qosQueues ∧ c < 4 then { s with regs := s.regs.put (2 * 2 ^ 40 + 4 * q + c) v } else s
  | r => match regKey r with
    | some k => { s with regs := s.regs.put k v }
    | none => s

/-- REGISTER_WRITE (R421, R422). -/
def execRegisterWrite (master : Nat) (reg : MgmtReg) (v : Nat) (s : State) : Out := s.ownerWrite master fun s => s.putReg reg v

end Sys2Proof.Machine
end

