-- ==== Sys2Proof/Machine/Float.lean ====
section
/-! DEFINITION. Floating-point instructions: FALU, FFMA, FCMP, FSFU, HALU and DALU (R119 to R132). -/

namespace Sys2Proof.Machine

def fop1 (f : Nat → Nat × FFlags) : LaneOp := fun _ vs => f (vs.getD 0 0)
def fop2 (f : Nat → Nat → Nat × FFlags) : LaneOp := fun _ vs => f (vs.getD 0 0) (vs.getD 1 0)

def State.f32op1 (s : State) (a d : Reg) (f : RMode → Nat → Nat × FFlags) : Out :=
  s.alu true d 32 [(a, 32)] (fop1 (f s.mode))
def State.f32op2 (s : State) (b a d : Reg) (f : RMode → Nat → Nat → Nat × FFlags) : Out :=
  s.alu true d 32 [(a, 32), (b, 32)] (fop2 (f s.mode))

-- FALU (R122 to R125)
def execFadd (b a d : Reg) (s : State) : Out := s.f32op2 b a d fun m x y => Fmt.f32.addOp m x y
def execFsub (b a d : Reg) (s : State) : Out := s.f32op2 b a d fun m x y => Fmt.f32.subOp m x y
def execFmul (b a d : Reg) (s : State) : Out := s.f32op2 b a d fun m x y => Fmt.f32.mulOp m x y
def execFmin (b a d : Reg) (s : State) : Out := s.f32op2 b a d fun _ x y => (Fmt.f32.fmin x y, 0)
def execFmax (b a d : Reg) (s : State) : Out := s.f32op2 b a d fun _ x y => (Fmt.f32.fmax x y, 0)
def execFminm (b a d : Reg) (s : State) : Out := s.f32op2 b a d fun _ x y => (Fmt.f32.fminm x y, 0)
def execFmaxm (b a d : Reg) (s : State) : Out := s.f32op2 b a d fun _ x y => (Fmt.f32.fmaxm x y, 0)

/-- A NaN gives the canonical NaN, anything else its sign operation (R122). -/
def signOp (f : Nat → Nat) (x : Nat) : Nat := if (Fmt.f32.decode x).isNan then Fmt.f32.nanCode else f x

def execFabs (a d : Reg) (s : State) : Out := s.f32op1 a d fun _ x => (signOp (fun x => x % 2 ^ 31) x, 0)
def execFneg (a d : Reg) (s : State) : Out := s.f32op1 a d fun _ x => (signOp (fun x => (x + 2 ^ 31) % 2 ^ 32) x, 0)
def execFcpys (b a d : Reg) (s : State) : Out :=
  s.f32op2 b a d fun _ x y => (signOp (fun x => x % 2 ^ 31 + y / 2 ^ 31 * 2 ^ 31) x, 0)

def execFfloor (a d : Reg) (s : State) : Out := s.f32op1 a d fun _ x => ((integralF32 .rd x).1, 0)
def execFceil (a d : Reg) (s : State) : Out := s.f32op1 a d fun _ x => ((integralF32 .ru x).1, 0)
def execFtrunc (a d : Reg) (s : State) : Out := s.f32op1 a d fun _ x => ((integralF32 .rz x).1, 0)
def execFrint (a d : Reg) (s : State) : Out :=
  s.f32op1 a d fun m x => let r := integralF32 m x; (r.1, if r.2 then FFlags.inexact else 0)
def execFclass (a d : Reg) (s : State) : Out := s.f32op1 a d fun _ x => (fclassF32 x, 0)

-- FFMA (R126)
/-- An operation on each half of a packed pair (R84, R119). -/
def halves (f : Nat → Nat × FFlags) : Nat × FFlags :=
  let r0 := f 0
  let r1 := f 1
  (r0.1 + r1.1 * 65536, r0.2 ||| r1.2)

/-- Half `h` of a 32-bit value. -/
def half (x h : Nat) : Nat := x / 65536 ^ h % 65536

/-- ±(a × b) ± d with one rounding, in FP32, FP64 or packed pairs; D is addend and destination (R126). -/
def State.ffma (s : State) (t : BitVec 3) (b a d : Reg) (negP negD : Bool) : Out :=
  let w := if t = 1#3 then 64 else 32
  let m := s.mode
  s.alu true d w [(a, w), (b, w), (d, w)] fun _ vs =>
    let x := vs.getD 0 0
    let y := vs.getD 1 0
    let z := vs.getD 2 0
    match t.toNat with
    | 0 => Fmt.f32.fmaOp m negP negD x y z
    | 1 => Fmt.f64.fmaOp m negP negD x y z
    | 2 => halves fun h => Fmt.f16.fmaOp m negP negD (half x h) (half y h) (half z h)
    | _ => halves fun h => Fmt.bf16.fmaOp m negP negD (half x h) (half y h) (half z h)

def execFma (t : BitVec 3) (b a d : Reg) (s : State) : Out := s.ffma t b a d false false
def execFms (t : BitVec 3) (b a d : Reg) (s : State) : Out := s.ffma t b a d false true
def execNfma (t : BitVec 3) (b a d : Reg) (s : State) : Out := s.ffma t b a d true false
def execNfms (t : BitVec 3) (b a d : Reg) (s : State) : Out := s.ffma t b a d true true

-- FCMP (R127)
def State.fcmp (s : State) (code : Nat) (k w : BitVec 1) (b a d : Reg) : Out :=
  let n := if w = 0#1 then 32 else 64
  s.cmp k d [(a, n), (b, n)] fun vs => fcond (if w = 0#1 then .f32 else .f64) code (vs.getD 0 0) (vs.getD 1 0)

def execFcmpEq (k w : BitVec 1) (b a d : Reg) (s : State) : Out := s.fcmp 0 k w b a d
def execFcmpNe (k w : BitVec 1) (b a d : Reg) (s : State) : Out := s.fcmp 1 k w b a d
def execFcmpLt (k w : BitVec 1) (b a d : Reg) (s : State) : Out := s.fcmp 2 k w b a d
def execFcmpLe (k w : BitVec 1) (b a d : Reg) (s : State) : Out := s.fcmp 3 k w b a d
def execFcmpUnord (k w : BitVec 1) (b a d : Reg) (s : State) : Out := s.fcmp 4 k w b a d
def execFcmpOrd (k w : BitVec 1) (b a d : Reg) (s : State) : Out := s.fcmp 5 k w b a d

-- FSFU (R128, R129)
def State.fsfu (s : State) (a d : Reg) (f : Val → Val × FFlags) : Out := s.f32op1 a d fun m x => fsfuOp f m x

def execFrcp (a d : Reg) (s : State) : Out := s.fsfu a d frcpVal
def execFrsq (a d : Reg) (s : State) : Out := s.fsfu a d frsqVal
def execFsqrt (a d : Reg) (s : State) : Out := s.fsfu a d fsqrtVal
def execFex2 (a d : Reg) (s : State) : Out := s.fsfu a d fex2Val
def execFlg2 (a d : Reg) (s : State) : Out := s.fsfu a d flg2Val
def execFsinp (a d : Reg) (s : State) : Out := s.fsfu a d fsinpVal
def execFcosp (a d : Reg) (s : State) : Out := s.fsfu a d fcospVal
def execFtanh (a d : Reg) (s : State) : Out := s.fsfu a d ftanhVal
def execFdiv (b a d : Reg) (s : State) : Out := s.f32op2 b a d fun m x y => Fmt.f32.divOp m x y

-- HALU (R131)
def State.halu (s : State) (f : BitVec 1) (b a d : Reg) (op : Fmt → RMode → Nat → Nat → Nat × FFlags) : Out :=
  s.f32op2 b a d fun m x y => halves fun h => op (if f = 0#1 then .f16 else .bf16) m (half x h) (half y h)

def execHadd2 (f : BitVec 1) (b a d : Reg) (s : State) : Out := s.halu f b a d fun f m x y => f.addOp m x y
def execHsub2 (f : BitVec 1) (b a d : Reg) (s : State) : Out := s.halu f b a d fun f m x y => f.subOp m x y
def execHmul2 (f : BitVec 1) (b a d : Reg) (s : State) : Out := s.halu f b a d fun f m x y => f.mulOp m x y
def execHmin2 (f : BitVec 1) (b a d : Reg) (s : State) : Out := s.halu f b a d fun f _ x y => (f.fmin x y, 0)
def execHmax2 (f : BitVec 1) (b a d : Reg) (s : State) : Out := s.halu f b a d fun f _ x y => (f.fmax x y, 0)

-- DALU (R132)
def State.dalu (s : State) (b a d : Reg) (f : RMode → Nat → Nat → Nat × FFlags) : Out :=
  s.alu true d 64 [(a, 64), (b, 64)] (fop2 (f s.mode))

def execDadd (b a d : Reg) (s : State) : Out := s.dalu b a d fun m x y => Fmt.f64.addOp m x y
def execDsub (b a d : Reg) (s : State) : Out := s.dalu b a d fun m x y => Fmt.f64.subOp m x y
def execDmul (b a d : Reg) (s : State) : Out := s.dalu b a d fun m x y => Fmt.f64.mulOp m x y
def execDmin (b a d : Reg) (s : State) : Out := s.dalu b a d fun _ x y => (Fmt.f64.fmin x y, 0)
def execDmax (b a d : Reg) (s : State) : Out := s.dalu b a d fun _ x y => (Fmt.f64.fmax x y, 0)
def execDdiv (b a d : Reg) (s : State) : Out := s.dalu b a d fun m x y => Fmt.f64.divOp m x y

end Sys2Proof.Machine
end

