-- ==== Sys2Proof/Machine/MaskOps.lean ====
section
/-! DEFINITION. The MASK group (R115 to R118). -/

namespace Sys2Proof.Machine

/-- The runner of the MASK group: the fields must be legal (R115, R117), then the effect. -/
def State.maskOp (s : State) (ok : Bool) (reads writes : List Opnd) (eff : State → State) : Out :=
  finish do
    s.interlock reads writes
    s.notCopy
    need ok s.illegalOperand
    .ok (eff s).advance

/-- md for the em lanes (R116). -/
def State.maskUnderEm (s : State) (d : Reg) (x : BitVec 64) : State :=
  s.modMe fun a => a.mset d.toNat (maskMerge (a.mget d.toNat) x s.em)

/-- A mask operation on two masks. -/
def State.mask2 (s : State) (b a d : Reg) (f : BitVec 64 → BitVec 64 → BitVec 64) : Out :=
  s.maskOp (maskOk d && maskOk a && maskOk b) [] [] fun s =>
    s.maskUnderEm d (f (s.me.mget a.toNat) (s.me.mget b.toNat))

/-- A mask operation on one mask. -/
def State.mask1 (s : State) (a d : Reg) (f : BitVec 64 → BitVec 64) : Out :=
  s.maskOp (maskOk d && maskOk a) [] [] fun s => s.maskUnderEm d (f (s.me.mget a.toNat))

def execMand (b a d : Reg) (s : State) : Out := s.mask2 b a d fun x y => x &&& y
def execMor (b a d : Reg) (s : State) : Out := s.mask2 b a d fun x y => x ||| y
def execMxor (b a d : Reg) (s : State) : Out := s.mask2 b a d fun x y => x ^^^ y
def execMandn (b a d : Reg) (s : State) : Out := s.mask2 b a d fun x y => x &&& ~~~y
def execMnot (a d : Reg) (s : State) : Out := s.mask1 a d fun x => ~~~x
def execMmov (a d : Reg) (s : State) : Out := s.mask1 a d fun x => x

/-- The index of the lowest 1 bit, or 64 (R115). -/
def ffs (x : BitVec 64) : Nat := ((List.range 64).find? fun i => x.getLsbD i).getD 64

def execMpopc (a d : Reg) (s : State) : Out :=
  s.maskOp (isSz d && maskOk a) [] [(d, 64)] fun s =>
    s.setS d (BitVec.ofNat 64 (popCount (s.me.mget a.toNat &&& s.em)))
def execMffs (a d : Reg) (s : State) : Out :=
  s.maskOp (isSz d && maskOk a) [] [(d, 64)] fun s => s.setS d (BitVec.ofNat 64 (ffs (s.me.mget a.toNat &&& s.em)))

/-- MSAVE: the bits of every lane of the split receive em (R115, R116). -/
def execMsave (d : Reg) (s : State) : Out :=
  s.maskOp (maskOk d) [] [] fun s =>
    s.modMe fun a => a.mset d.toNat (maskMerge (a.mget d.toNat) s.em s.myPart.lanes)

/-- MREST: em from a mask, limited to the split's lanes; it may be empty (R115, R117). -/
def execMrest (a : Reg) (s : State) : Out :=
  s.maskOp (maskOk a) [] [] fun s => s.modPart fun p => { p with em := s.me.mget a.toNat &&& p.lanes }

def execMset (d : Reg) (s : State) : Out := s.maskOp (maskOk d) [] [] fun s => s.maskUnderEm d (BitVec.allOnes 64)
def execMclr (d : Reg) (s : State) : Out := s.maskOp (maskOk d) [] [] fun s => s.maskUnderEm d 0
def execMtos (a d : Reg) (s : State) : Out :=
  s.maskOp (isSz d && maskOk a) [] [(d, 64)] fun s => s.setS d (s.me.mget a.toNat)
def execMfrs (a d : Reg) (s : State) : Out :=
  s.maskOp (maskOk d && isSz a) [(a, 64)] [] fun s => s.modMe fun x => x.mset d.toNat (s.sval a)

end Sys2Proof.Machine
end

