-- ==== Sys2Proof/Machine/WaveOps.lean ====
section
/-! DEFINITION. The WAVE group, across the lanes of a wave (R137 to R143). -/

namespace Sys2Proof.Machine

/-- The runner of the WAVE group: legality of the fields (R137, R143), the interlock, and the stream reads, always as
vectors. `srcs` are the register sources. -/
def State.wave (s : State) (ok : Bool) (srcs : List Opnd) (writes : List Opnd) (eff : State → Pulled → State) : Out :=
  finish do
    s.interlock srcs writes
    s.notCopy
    need (ok && streamsOnce (srcs.map Prod.fst) && s.streamsOk srcs) s.illegalOperand
    let (s, got) ← s.pullAll true srcs
    .ok (eff s got).advance

/-- The value of a lane of a vector source. A q register delivers no element for an inactive lane (R244): what a
shuffle or a broadcast finds there is a free value, a function of em and of what the register delivers: equal operands and em
give equal results (R144; log 14). -/
def State.laneVal (s : State) (got : Pulled) (a : Reg) (l : Nat) : Nat :=
  if isStream a && !(s.em.getLsbD l) then (Config.freeLane s.em (got.getD (streamNo a) []) l).toNat else s.val got l (a, 32)

/-- A result written to a scalar, or to a vector register in every active lane (R137). -/
def State.toAll (s : State) (d : Reg) (v : Nat) : State :=
  if isVec d then (s.covered d 32).modMe fun a => (lanesOf s.em).foldl (fun a l => a.vput d.toNat 32 l v) a else s.putScalar d 32 v

/-- Results per active lane (R137). -/
def State.toLanes (s : State) (d : Reg) (f : Nat → Nat) : State :=
  (s.covered d 32).modMe fun a => ((lanesOf s.em).map fun l => (l, f l)).foldl (fun a r => a.vput d.toNat 32 r.1 r.2) a

-- Reductions (R138, R139) -----------------------------------------------------------------------------------------

/-- A list of 64 values folded by the fixed pairwise tree: neighbours are combined level by level (R138). -/
def treePairs (f : Nat → Nat → Nat × FFlags) : List Nat → List Nat × FFlags
  | x :: y :: rest =>
    let r := f x y
    let t := treePairs f rest
    (r.1 :: t.1, r.2 ||| t.2)
  | l => (l, 0)

def tree (f : Nat → Nat → Nat × FFlags) : Nat → List Nat → Nat × FFlags
  | 0, l => (l.headD 0, 0)
  | n + 1, l =>
    let p := treePairs f l
    let r := tree f n p.1
    (r.1, p.2 ||| r.2)

def negZero : Nat := 0x80000000
def addS32 (x y : Nat) : Nat × FFlags := ((x + y) % 2 ^ 32, 0)

/-- WRED of a sum (R138): an inactive lane contributes the identity. -/
def State.wredSum (s : State) (a d : Reg) (ident : Nat) (f : Nat → Nat → Nat × FFlags) : Out :=
  s.wave (dstOk d 32 && waveSrcOk a) [(a, 32)] [(d, 32)] fun s got =>
    let r := tree f 6 ((List.range 64).map fun l => if s.em.getLsbD l then s.laneVal got a l else ident)
    (s.toAll d r.1).raise r.2

/-- The other reductions (R139): a fold over the active lanes from the result for no lane. -/
def State.wredFold (s : State) (a d : Reg) (none_ : Nat) (f : Nat → Nat → Nat) : Out :=
  s.wave (dstOk d 32 && waveSrcOk a) [(a, 32)] [(d, 32)] fun s got =>
    let vs := (lanesOf s.em).map fun l => s.laneVal got a l
    s.toAll d (match vs with | [] => none_ | v :: rest => rest.foldl f v)

def execWredAddF32 (a d : Reg) (s : State) : Out := s.wredSum a d negZero addF32rne
def execWredAddS32 (a d : Reg) (s : State) : Out := s.wredSum a d 0 addS32
/-- The minimum of one active lane that is NaN is the canonical NaN (R123, R139). -/
def execWredMinF32 (a d : Reg) (s : State) : Out :=
  s.wave (dstOk d 32 && waveSrcOk a) [(a, 32)] [(d, 32)] fun s got =>
    s.toAll d (((lanesOf s.em).map fun l => s.laneVal got a l).foldl (foldF Fmt.f32.fmin) (none, 0x7F800000)).2
where
  /-- Folds with the first value taken through the operation with itself. -/
  foldF (f : Nat → Nat → Nat) (acc : Option Nat × Nat) (v : Nat) : Option Nat × Nat :=
    match acc.1 with
    | none => (some (f v v), f v v)
    | some x => (some (f x v), f x v)
def execWredMaxF32 (a d : Reg) (s : State) : Out :=
  s.wave (dstOk d 32 && waveSrcOk a) [(a, 32)] [(d, 32)] fun s got =>
    s.toAll d (((lanesOf s.em).map fun l => s.laneVal got a l).foldl (execWredMinF32.foldF Fmt.f32.fmax) (none, 0xFF800000)).2
def execWredMinS32 (a d : Reg) (s : State) : Out :=
  s.wredFold a d 0x7FFFFFFF fun x y => if sInt 32 y < sInt 32 x then y else x
def execWredMaxS32 (a d : Reg) (s : State) : Out :=
  s.wredFold a d 0x80000000 fun x y => if sInt 32 x < sInt 32 y then y else x
def execWredAnd (a d : Reg) (s : State) : Out := s.wredFold a d 0xFFFFFFFF Nat.land
def execWredOr (a d : Reg) (s : State) : Out := s.wredFold a d 0 Nat.lor

-- Scans (R140) -----------------------------------------------------------------------------------------------------

/-- One Kogge–Stone round with distance `k`: values, and the flags of each position's own addition and of those that
led to it. -/
def scanRound (f : Nat → Nat → Nat × FFlags) (t : List (Nat × FFlags)) (k : Nat) : List (Nat × FFlags) :=
  (List.range 64).map fun l =>
    let u := t.getD l (0, 0)
    if l < k then u
    else
      let v := t.getD (l - k) (0, 0)
      let r := f v.1 u.1
      (r.1, r.2 ||| v.2 ||| u.2)

/-- WSCAN (R140): flags come only from additions that lead to active lanes. -/
def State.wscan (s : State) (a d : Reg) (ident : Nat) (f : Nat → Nat → Nat × FFlags) : Out :=
  s.wave (isVec d && waveSrcOk a) [(a, 32)] [(d, 32)] fun s got =>
    let t0 := (List.range 64).map fun l => (if s.em.getLsbD l then s.laneVal got a l else ident, (0 : FFlags))
    let t := [1, 2, 4, 8, 16, 32].foldl (scanRound f) t0
    (s.toLanes d fun l => (t.getD l (0, 0)).1).raise
      ((lanesOf s.em).foldl (fun g l => g ||| (t.getD l (0, 0)).2) 0)

def execWscanAddF32 (a d : Reg) (s : State) : Out := s.wscan a d negZero addF32rne
def execWscanAddS32 (a d : Reg) (s : State) : Out := s.wscan a d 0 addS32

-- Shuffles and broadcasts (R141, R142) --------------------------------------------------------------------------------

/-- A shuffle (R141): `src` gives the source lane of a lane and its B value. -/
def State.shfl (s : State) (b a d : Reg) (src : Nat → Nat → Int) : Out :=
  s.wave (isVec d && waveSrcOk a && (isSz b || waveSrcOk b)) [(a, 32), (b, 32)] [(d, 32)] fun s got =>
    s.toLanes d fun l =>
      let k := src l (s.val got l (b, 32))
      if 0 ≤ k ∧ k < 64 then s.laneVal got a k.toNat else s.laneVal got a l

def execShflIdx (b a d : Reg) (s : State) : Out := s.shfl b a d fun _ x => (x % 64 : Nat)
def execShflUp (b a d : Reg) (s : State) : Out := s.shfl b a d fun l x => (l : Int) - x
def execShflDown (b a d : Reg) (s : State) : Out := s.shfl b a d fun l x => (l : Int) + x
def execShflXor (b a d : Reg) (s : State) : Out := s.shfl b a d fun l x => (Nat.xor l (x % 64) : Nat)

/-- A vote on a mask (R137). -/
def State.vote (s : State) (a d : Reg) (f : BitVec 64 → Bool) : Out :=
  s.wave (isSz d && maskOk a) [] [(d, 64)] fun s _ => s.setS d (if f (s.me.mget a.toNat &&& s.em) then 1 else 0)

def execWvoteAny (a d : Reg) (s : State) : Out := s.vote a d fun x => x != 0
def execWvoteAll (a d : Reg) (s : State) : Out := s.vote a d fun x => x == s.em

def execWballot (a d : Reg) (s : State) : Out :=
  s.wave (isSz d && waveSrcOk a) [(a, 32)] [(d, 64)] fun s got =>
    s.setS d (maskOf ((lanesOf s.em).filter fun l => s.laneVal got a l != 0))

def execWbcast (b a d : Reg) (s : State) : Out :=
  s.wave (isVec d && waveSrcOk a && isSz b) [(a, 32), (b, 64)] [(d, 32)] fun s got =>
    s.toAll d (s.laneVal got a ((s.sval b).toNat % 64))

def execWgetl (b a d : Reg) (s : State) : Out :=
  s.wave (isSz d && waveSrcOk a && isSz b) [(a, 32), (b, 64)] [(d, 64)] fun s got =>
    s.putScalar d 32 (s.laneVal got a ((s.sval b).toNat % 64))

/-- WSETL writes one lane, if it is active (R137). -/
def execWsetl (b a d : Reg) (s : State) : Out :=
  s.wave (isVec d && isSz a && isSz b) [(a, 64), (b, 64)] [(d, 32)] fun s _ =>
    let l := (s.sval b).toNat % 64
    if s.em.getLsbD l then s.modMe fun x => x.vput d.toNat 32 l (s.sval a).toNat else s

end Sys2Proof.Machine
end

