-- ==== Sys2Proof/Machine/Dispatch.lean ====
section
/-! DEFINITION. One arm per row of the opcode table. The definition is noncomputable because Lean's code generator has
no constructor tags above 244. -/

namespace Sys2Proof.Machine

open Host noncomputable section

def exec (i : Instr) (s : State) : Host.Outcome State Fault Refusal :=
  match i with
  | .emptyLineTimeout core who => Sys2Proof.Machine.execEmptyLineTimeout core who s
  | .rendezvousTimeout core gng => Sys2Proof.Machine.execRendezvousTimeout core gng s
  | .wswapEffect core => Sys2Proof.Machine.execWswapEffect core s
  | .vatComplete core op => Sys2Proof.Machine.execVatComplete core op s
  | .vatFault core code => Sys2Proof.Machine.execVatFault core code s
  | .launchLoad core ctx lr why => Sys2Proof.Machine.execLaunchLoad core ctx lr why s
  | .wgAdmit core => Sys2Proof.Machine.execWgAdmit core s
  | .wavePromote core agent => Sys2Proof.Machine.execWavePromote core agent s
  | .partWake core agent part => Sys2Proof.Machine.execPartWake core agent part s
  | .trywaitExpire core agent part => Sys2Proof.Machine.execTrywaitExpire core agent part s
  | .preemptRequest core => Sys2Proof.Machine.execPreemptRequest core s
  | .preemptSave core => Sys2Proof.Machine.execPreemptSave core s
  | .preemptForce core => Sys2Proof.Machine.execPreemptForce core s
  | .resume core => Sys2Proof.Machine.execResume core s
  | .accessComplete core agent cls op => Sys2Proof.Machine.execAccessComplete core agent cls op s
  | .xstLand core op => Sys2Proof.Machine.execXstLand core op s
  | .copyLand core op => Sys2Proof.Machine.execCopyLand core op s
  | .copyVisible core op => Sys2Proof.Machine.execCopyVisible core op s
  | .copyAbort core op code addr => Sys2Proof.Machine.execCopyAbort core op code addr s
  | .collStart core op => Sys2Proof.Machine.execCollStart core op s
  | .collChunkArrive core op data => Sys2Proof.Machine.execCollChunkArrive core op data s
  | .collEnd core op => Sys2Proof.Machine.execCollEnd core op s
  | .peerUnreachable dev => Sys2Proof.Machine.execPeerUnreachable dev s
  | .planStart => Sys2Proof.Machine.execPlanStart s
  | .planDrain plan st reason stage pipe => Sys2Proof.Machine.execPlanDrain plan st reason stage pipe s
  | .reserveServed plan pipe => Sys2Proof.Machine.execReserveServed plan pipe s
  | .commitArrive plan pipe ticket => Sys2Proof.Machine.execCommitArrive plan pipe ticket s
  | .releaseArrive plan pipe ticket => Sys2Proof.Machine.execReleaseArrive plan pipe ticket s
  | .sealArrive plan pipe home => Sys2Proof.Machine.execSealArrive plan pipe home s
  | .occupancySample plan => Sys2Proof.Machine.execOccupancySample plan s
  | .balance plan => Sys2Proof.Machine.execBalance plan s
  | .coreMoveLoad core => Sys2Proof.Machine.execCoreMoveLoad core s
  | .deadlockSnapshot plan remoteQuiet remoteCount sent received => Sys2Proof.Machine.execDeadlockSnapshot plan remoteQuiet remoteCount sent received s
  | .energyWindow => Sys2Proof.Machine.execEnergyWindow s
  | .energyUpdate core => Sys2Proof.Machine.execEnergyUpdate core s
  | .clockStretch => Sys2Proof.Machine.execClockStretch s
  | .passBegin ctx sweep die => Sys2Proof.Machine.execPassBegin ctx sweep die s
  | .batchAssign ctx sweep core agent => Sys2Proof.Machine.execBatchAssign ctx sweep core agent s
  | .partialArrive op => Sys2Proof.Machine.execPartialArrive op s
  | .hoopWaitExpire op => Sys2Proof.Machine.execHoopWaitExpire op s
  | .taskEnqueue op => Sys2Proof.Machine.execTaskEnqueue op s
  | .taskStart ctx => Sys2Proof.Machine.execTaskStart ctx s
  | .invocationArrive op => Sys2Proof.Machine.execInvocationArrive op s
  | .handleSettle handle how => Sys2Proof.Machine.execHandleSettle handle how s
  | .queueReport dev ctx len => Sys2Proof.Machine.execQueueReport dev ctx len s
  | .cancelArrive dev ctx job act => Sys2Proof.Machine.execCancelArrive dev ctx job act s
  | .jcanComplete op => Sys2Proof.Machine.execJcanComplete op s
  | .migrate handle dev => Sys2Proof.Machine.execMigrate handle dev s
  | .nakReport core agent op => Sys2Proof.Machine.execNakReport core agent op s
  | .pagerAnswer page resolved => Sys2Proof.Machine.execPagerAnswer page resolved s
  | .memoryIssueResume core agent => Sys2Proof.Machine.execMemoryIssueResume core agent s
  | .rd die slice stack pch tag => Sys2Proof.Machine.execRd die slice stack pch tag s
  | .wr die slice stack pch tag => Sys2Proof.Machine.execWr die slice stack pch tag s
  | .rdr die slice stack pch tag => Sys2Proof.Machine.execRdr die slice stack pch tag s
  | .wra die slice stack pch tag => Sys2Proof.Machine.execWra die slice stack pch tag s
  | .nak die slice stack pch tag code => Sys2Proof.Machine.execNak die slice stack pch tag code s
  | .portSend die slice stack pch => Sys2Proof.Machine.execPortSend die slice stack pch s
  | .sliceWrite ctx ia data mask => Sys2Proof.Machine.execSliceWrite ctx ia data mask s
  | .lineFill core ia => Sys2Proof.Machine.execLineFill core ia s
  | .writeBack level line => Sys2Proof.Machine.execWriteBack level line s
  | .podRequest ctx off req => Sys2Proof.Machine.execPodRequest ctx off req s
  | .collapse page => Sys2Proof.Machine.execCollapse page s
  | .replicaInvalidate page dev => Sys2Proof.Machine.execReplicaInvalidate page dev s
  | .collapseDone page => Sys2Proof.Machine.execCollapseDone page s
  | .replicaMake page dev data => Sys2Proof.Machine.execReplicaMake page dev data s
  | .pageOwnerChange page owner => Sys2Proof.Machine.execPageOwnerChange page owner s
  | .errorEvent chan cls unit uncorrectable ctx at_ => Sys2Proof.Machine.execErrorEvent chan cls unit uncorrectable ctx at_ s
  | .activationAlert die stack pch => Sys2Proof.Machine.execActivationAlert die stack pch s
  | .ptpExchange => Sys2Proof.Machine.execPtpExchange s
  | .ptpReply t2 t3 => Sys2Proof.Machine.execPtpReply t2 t3 s
  | .ptpTimeout => Sys2Proof.Machine.execPtpTimeout s
  | .laneFail link lane => Sys2Proof.Machine.execLaneFail link lane s
  | .flitReplay ok => Sys2Proof.Machine.execFlitReplay ok s
  | .linkDown => Sys2Proof.Machine.execLinkDown s
  | .deviceReset image => Sys2Proof.Machine.execDeviceReset image s
  | .recoveryImage image => Sys2Proof.Machine.execRecoveryImage image s
  | .svnRaise svn => Sys2Proof.Machine.execSvnRaise svn s
  | .attestationRequest ctx nonce => Sys2Proof.Machine.execAttestationRequest ctx nonce s
  | .launchRequest ctx off size data => Sys2Proof.Machine.execLaunchRequest ctx off size data s
  | .launchWaitSatisfied ctx idx => Sys2Proof.Machine.execLaunchWaitSatisfied ctx idx s
  | .watchArm ctx idx addr threshold vector => Sys2Proof.Machine.execWatchArm ctx idx addr threshold vector s
  | .watchFire ctx idx => Sys2Proof.Machine.execWatchFire ctx idx s
  | .ownershipClaim master prio nonce => Sys2Proof.Machine.execOwnershipClaim master prio nonce s
  | .electionDecide => Sys2Proof.Machine.execElectionDecide s
  | .heartbeat master => Sys2Proof.Machine.execHeartbeat master s
  | .ownerLapse => Sys2Proof.Machine.execOwnerLapse s
  | .handover master prio nonce => Sys2Proof.Machine.execHandover master prio nonce s
  | .accept master prio nonce => Sys2Proof.Machine.execAccept master prio nonce s
  | .handoverLapse => Sys2Proof.Machine.execHandoverLapse s
  | .powerLimitWrite master watts => Sys2Proof.Machine.execPowerLimitWrite master watts s
  | .carveWrite master die v => Sys2Proof.Machine.execCarveWrite master die v s
  | .ctxActivate master ctx => Sys2Proof.Machine.execCtxActivate master ctx s
  | .ctxTeardown master ctx => Sys2Proof.Machine.execCtxTeardown master ctx s
  | .teardownFree ctx => Sys2Proof.Machine.execTeardownFree ctx s
  | .mapWindowWrite master ctx n va ia ctl => Sys2Proof.Machine.execMapWindowWrite master ctx n va ia ctl s
  | .cbCoresWrite master ctx v => Sys2Proof.Machine.execCbCoresWrite master ctx v s
  | .swapReq master part => Sys2Proof.Machine.execSwapReq master part s
  | .swapDone => Sys2Proof.Machine.execSwapDone s
  | .snapReq master => Sys2Proof.Machine.execSnapReq master s
  | .trBaseWrite master die v => Sys2Proof.Machine.execTrBaseWrite master die v s
  | .trCtlWrite master die v => Sys2Proof.Machine.execTrCtlWrite master die v s
  | .trRdWrite die v => Sys2Proof.Machine.execTrRdWrite die v s
  | .trDroppedWrite master die => Sys2Proof.Machine.execTrDroppedWrite master die s
  | .deviceNumberWrite master v => Sys2Proof.Machine.execDeviceNumberWrite master v s
  | .registerWrite master reg v => Sys2Proof.Machine.execRegisterWrite master reg v s
  | .drainLineLand core op => Sys2Proof.Machine.execDrainLineLand core op s
  | .yieldExpire core agent => Sys2Proof.Machine.execYieldExpire core agent s
  | .linkRetrain => Sys2Proof.Machine.execLinkRetrain s
  | .stretchEnd => Sys2Proof.Machine.execStretchEnd s
  | .refresh die stack pch issue => Sys2Proof.Machine.execRefresh die stack pch issue s
  | .ztrap x => Sys2Proof.Machine.execZtrap x s
  | .nop => Sys2Proof.Machine.execNop s
  | .exit => Sys2Proof.Machine.execExit s
  | .wsync => Sys2Proof.Machine.execWsync s
  | .srd a d => Sys2Proof.Machine.execSrd a d s
  | .swr a d => Sys2Proof.Machine.execSwr a d s
  | .rft => Sys2Proof.Machine.execRft s
  | .clkrd d => Sys2Proof.Machine.execClkrd d s
  | .tmark a => Sys2Proof.Machine.execTmark a s
  | .erd a d => Sys2Proof.Machine.execErd a d s
  | .winb a => Sys2Proof.Machine.execWinb a s
  | .yield => Sys2Proof.Machine.execYield s
  | .bkpt => Sys2Proof.Machine.execBkpt s
  | .trap c => Sys2Proof.Machine.execTrap c s
  | .safept n => Sys2Proof.Machine.execSafept n s
  | .limm im => Sys2Proof.Machine.execLimm im s
  | .iadd w b a d => Sys2Proof.Machine.execIadd w b a d s
  | .isub w b a d => Sys2Proof.Machine.execIsub w b a d s
  | .imul w b a d => Sys2Proof.Machine.execImul w b a d s
  | .imulhs w b a d => Sys2Proof.Machine.execImulhs w b a d s
  | .imulhn w b a d => Sys2Proof.Machine.execImulhn w b a d s
  | .imad w b a d => Sys2Proof.Machine.execImad w b a d s
  | .imins w b a d => Sys2Proof.Machine.execImins w b a d s
  | .iminn w b a d => Sys2Proof.Machine.execIminn w b a d s
  | .imaxs w b a d => Sys2Proof.Machine.execImaxs w b a d s
  | .imaxn w b a d => Sys2Proof.Machine.execImaxn w b a d s
  | .iabs w a d => Sys2Proof.Machine.execIabs w a d s
  | .ineg w a d => Sys2Proof.Machine.execIneg w a d s
  | .and w b a d => Sys2Proof.Machine.execAnd w b a d s
  | .or w b a d => Sys2Proof.Machine.execOr w b a d s
  | .xor w b a d => Sys2Proof.Machine.execXor w b a d s
  | .andn w b a d => Sys2Proof.Machine.execAndn w b a d s
  | .shl w b a d => Sys2Proof.Machine.execShl w b a d s
  | .shr w b a d => Sys2Proof.Machine.execShr w b a d s
  | .sra w b a d => Sys2Proof.Machine.execSra w b a d s
  | .rotl w b a d => Sys2Proof.Machine.execRotl w b a d s
  | .popc w a d => Sys2Proof.Machine.execPopc w a d s
  | .clz w a d => Sys2Proof.Machine.execClz w a d s
  | .brev w a d => Sys2Proof.Machine.execBrev w a d s
  | .iaddss w b a d => Sys2Proof.Machine.execIaddss w b a d s
  | .iaddsn w b a d => Sys2Proof.Machine.execIaddsn w b a d s
  | .isubss w b a d => Sys2Proof.Machine.execIsubss w b a d s
  | .isubsn w b a d => Sys2Proof.Machine.execIsubsn w b a d s
  | .mov w a d => Sys2Proof.Machine.execMov w a d s
  | .sel w m b a d => Sys2Proof.Machine.execSel w m b a d s
  | .icmpEq k w b a d => Sys2Proof.Machine.execIcmpEq k w b a d s
  | .icmpNe k w b a d => Sys2Proof.Machine.execIcmpNe k w b a d s
  | .icmpLtS k w b a d => Sys2Proof.Machine.execIcmpLtS k w b a d s
  | .icmpLeS k w b a d => Sys2Proof.Machine.execIcmpLeS k w b a d s
  | .icmpLtN k w b a d => Sys2Proof.Machine.execIcmpLtN k w b a d s
  | .icmpLeN k w b a d => Sys2Proof.Machine.execIcmpLeN k w b a d s
  | .icmpTst k w b a d => Sys2Proof.Machine.execIcmpTst k w b a d s
  | .bfxi l p a d => Sys2Proof.Machine.execBfxi l p a d s
  | .bfii l p a d => Sys2Proof.Machine.execBfii l p a d s
  | .iaddi im a d => Sys2Proof.Machine.execIaddi im a d s
  | .andi im a d => Sys2Proof.Machine.execAndi im a d s
  | .ori im a d => Sys2Proof.Machine.execOri im a d s
  | .xori im a d => Sys2Proof.Machine.execXori im a d s
  | .shfiShl w n a d => Sys2Proof.Machine.execShfiShl w n a d s
  | .shfiShr w n a d => Sys2Proof.Machine.execShfiShr w n a d s
  | .shfiSra w n a d => Sys2Proof.Machine.execShfiSra w n a d s
  | .shfiRotl w n a d => Sys2Proof.Machine.execShfiRotl w n a d s
  | .movi im j d => Sys2Proof.Machine.execMovi im j d s
  | .icmpi im a c m => Sys2Proof.Machine.execIcmpi im a c m s
  | .fadd b a d => Sys2Proof.Machine.execFadd b a d s
  | .fsub b a d => Sys2Proof.Machine.execFsub b a d s
  | .fmul b a d => Sys2Proof.Machine.execFmul b a d s
  | .fmin b a d => Sys2Proof.Machine.execFmin b a d s
  | .fmax b a d => Sys2Proof.Machine.execFmax b a d s
  | .fabs a d => Sys2Proof.Machine.execFabs a d s
  | .fneg a d => Sys2Proof.Machine.execFneg a d s
  | .fcpys b a d => Sys2Proof.Machine.execFcpys b a d s
  | .fminm b a d => Sys2Proof.Machine.execFminm b a d s
  | .fmaxm b a d => Sys2Proof.Machine.execFmaxm b a d s
  | .ffloor a d => Sys2Proof.Machine.execFfloor a d s
  | .fceil a d => Sys2Proof.Machine.execFceil a d s
  | .ftrunc a d => Sys2Proof.Machine.execFtrunc a d s
  | .frint a d => Sys2Proof.Machine.execFrint a d s
  | .fclass a d => Sys2Proof.Machine.execFclass a d s
  | .fma t b a d => Sys2Proof.Machine.execFma t b a d s
  | .fms t b a d => Sys2Proof.Machine.execFms t b a d s
  | .nfma t b a d => Sys2Proof.Machine.execNfma t b a d s
  | .nfms t b a d => Sys2Proof.Machine.execNfms t b a d s
  | .fcmpEq k w b a d => Sys2Proof.Machine.execFcmpEq k w b a d s
  | .fcmpNe k w b a d => Sys2Proof.Machine.execFcmpNe k w b a d s
  | .fcmpLt k w b a d => Sys2Proof.Machine.execFcmpLt k w b a d s
  | .fcmpLe k w b a d => Sys2Proof.Machine.execFcmpLe k w b a d s
  | .fcmpUnord k w b a d => Sys2Proof.Machine.execFcmpUnord k w b a d s
  | .fcmpOrd k w b a d => Sys2Proof.Machine.execFcmpOrd k w b a d s
  | .frcp a d => Sys2Proof.Machine.execFrcp a d s
  | .frsq a d => Sys2Proof.Machine.execFrsq a d s
  | .fsqrt a d => Sys2Proof.Machine.execFsqrt a d s
  | .fex2 a d => Sys2Proof.Machine.execFex2 a d s
  | .flg2 a d => Sys2Proof.Machine.execFlg2 a d s
  | .fsinp a d => Sys2Proof.Machine.execFsinp a d s
  | .fcosp a d => Sys2Proof.Machine.execFcosp a d s
  | .ftanh a d => Sys2Proof.Machine.execFtanh a d s
  | .fdiv b a d => Sys2Proof.Machine.execFdiv b a d s
  | .cvtF32S32 rm a d => Sys2Proof.Machine.execCvtF32S32 rm a d s
  | .cvtF32N32 rm a d => Sys2Proof.Machine.execCvtF32N32 rm a d s
  | .cvtS32F32 rm a d => Sys2Proof.Machine.execCvtS32F32 rm a d s
  | .cvtN32F32 rm a d => Sys2Proof.Machine.execCvtN32F32 rm a d s
  | .cvtF32F16 sr sat rm a d => Sys2Proof.Machine.execCvtF32F16 sr sat rm a d s
  | .cvtF16F32 a d => Sys2Proof.Machine.execCvtF16F32 a d s
  | .cvtF32Bf16 sr sat rm a d => Sys2Proof.Machine.execCvtF32Bf16 sr sat rm a d s
  | .cvtBf16F32 a d => Sys2Proof.Machine.execCvtBf16F32 a d s
  | .cvtF32E4m3 sr sat rm a d => Sys2Proof.Machine.execCvtF32E4m3 sr sat rm a d s
  | .cvtF32E5m2 sr sat rm a d => Sys2Proof.Machine.execCvtF32E5m2 sr sat rm a d s
  | .cvtE4m3F32 a d => Sys2Proof.Machine.execCvtE4m3F32 a d s
  | .cvtE5m2F32 a d => Sys2Proof.Machine.execCvtE5m2F32 a d s
  | .cvtF32E2m3 sr sat rm a d => Sys2Proof.Machine.execCvtF32E2m3 sr sat rm a d s
  | .cvtF32E3m2 sr sat rm a d => Sys2Proof.Machine.execCvtF32E3m2 sr sat rm a d s
  | .cvtE2m3F32 a d => Sys2Proof.Machine.execCvtE2m3F32 a d s
  | .cvtE3m2F32 a d => Sys2Proof.Machine.execCvtE3m2F32 a d s
  | .cvtF32E2m1 sr sat rm a d => Sys2Proof.Machine.execCvtF32E2m1 sr sat rm a d s
  | .cvtE2m1F32 a d => Sys2Proof.Machine.execCvtE2m1F32 a d s
  | .cvtF32F64 a d => Sys2Proof.Machine.execCvtF32F64 a d s
  | .cvtF64F32 sat rm a d => Sys2Proof.Machine.execCvtF64F32 sat rm a d s
  | .cvtF64S64 rm a d => Sys2Proof.Machine.execCvtF64S64 rm a d s
  | .cvtS64F64 rm a d => Sys2Proof.Machine.execCvtS64F64 rm a d s
  | .cvtF32S64 rm a d => Sys2Proof.Machine.execCvtF32S64 rm a d s
  | .cvtE8m0F32 a d => Sys2Proof.Machine.execCvtE8m0F32 a d s
  | .cvtF32E8m0 sr sat rm a d => Sys2Proof.Machine.execCvtF32E8m0 sr sat rm a d s
  | .cvtS32S8 a d => Sys2Proof.Machine.execCvtS32S8 a d s
  | .hadd2 f b a d => Sys2Proof.Machine.execHadd2 f b a d s
  | .hsub2 f b a d => Sys2Proof.Machine.execHsub2 f b a d s
  | .hmul2 f b a d => Sys2Proof.Machine.execHmul2 f b a d s
  | .hmin2 f b a d => Sys2Proof.Machine.execHmin2 f b a d s
  | .hmax2 f b a d => Sys2Proof.Machine.execHmax2 f b a d s
  | .dadd b a d => Sys2Proof.Machine.execDadd b a d s
  | .dsub b a d => Sys2Proof.Machine.execDsub b a d s
  | .dmul b a d => Sys2Proof.Machine.execDmul b a d s
  | .dmin b a d => Sys2Proof.Machine.execDmin b a d s
  | .dmax b a d => Sys2Proof.Machine.execDmax b a d s
  | .ddiv b a d => Sys2Proof.Machine.execDdiv b a d s
  | .wredAddF32 a d => Sys2Proof.Machine.execWredAddF32 a d s
  | .wredAddS32 a d => Sys2Proof.Machine.execWredAddS32 a d s
  | .wredMinF32 a d => Sys2Proof.Machine.execWredMinF32 a d s
  | .wredMaxF32 a d => Sys2Proof.Machine.execWredMaxF32 a d s
  | .wredMinS32 a d => Sys2Proof.Machine.execWredMinS32 a d s
  | .wredMaxS32 a d => Sys2Proof.Machine.execWredMaxS32 a d s
  | .wredAnd a d => Sys2Proof.Machine.execWredAnd a d s
  | .wredOr a d => Sys2Proof.Machine.execWredOr a d s
  | .wscanAddF32 a d => Sys2Proof.Machine.execWscanAddF32 a d s
  | .wscanAddS32 a d => Sys2Proof.Machine.execWscanAddS32 a d s
  | .shflIdx b a d => Sys2Proof.Machine.execShflIdx b a d s
  | .shflUp b a d => Sys2Proof.Machine.execShflUp b a d s
  | .shflDown b a d => Sys2Proof.Machine.execShflDown b a d s
  | .shflXor b a d => Sys2Proof.Machine.execShflXor b a d s
  | .wvoteAny a d => Sys2Proof.Machine.execWvoteAny a d s
  | .wvoteAll a d => Sys2Proof.Machine.execWvoteAll a d s
  | .wballot a d => Sys2Proof.Machine.execWballot a d s
  | .wbcast b a d => Sys2Proof.Machine.execWbcast b a d s
  | .wgetl b a d => Sys2Proof.Machine.execWgetl b a d s
  | .wsetl b a d => Sys2Proof.Machine.execWsetl b a d s
  | .mand b a d => Sys2Proof.Machine.execMand b a d s
  | .mor b a d => Sys2Proof.Machine.execMor b a d s
  | .mxor b a d => Sys2Proof.Machine.execMxor b a d s
  | .mandn b a d => Sys2Proof.Machine.execMandn b a d s
  | .mnot a d => Sys2Proof.Machine.execMnot a d s
  | .mmov a d => Sys2Proof.Machine.execMmov a d s
  | .mpopc a d => Sys2Proof.Machine.execMpopc a d s
  | .mffs a d => Sys2Proof.Machine.execMffs a d s
  | .msave d => Sys2Proof.Machine.execMsave d s
  | .mrest a => Sys2Proof.Machine.execMrest a s
  | .mset d => Sys2Proof.Machine.execMset d s
  | .mclr d => Sys2Proof.Machine.execMclr d s
  | .mtos a d => Sys2Proof.Machine.execMtos a d s
  | .mfrs a d => Sys2Proof.Machine.execMfrs a d s
  | .sbind a q => Sys2Proof.Machine.execSbind a q s
  | .sskip a q => Sys2Proof.Machine.execSskip a q s
  | .sflag q d => Sys2Proof.Machine.execSflag q d s
  | .sunb q => Sys2Proof.Machine.execSunb q s
  | .spos q d => Sys2Proof.Machine.execSpos q d s
  | .waitc ld st eng xc => Sys2Proof.Machine.execWaitc ld st eng xc s
  | .bra o => Sys2Proof.Machine.execBra o s
  | .call o => Sys2Proof.Machine.execCall o s
  | .brc c r o => Sys2Proof.Machine.execBrc c r o s
  | .brdT r o => Sys2Proof.Machine.execBrdT r o s
  | .brdF r o => Sys2Proof.Machine.execBrdF r o s
  | .bany r o => Sys2Proof.Machine.execBany r o s
  | .ball r o => Sys2Proof.Machine.execBall r o s
  | .bnone r o => Sys2Proof.Machine.execBnone r o s
  | .beodSet d q o => Sys2Proof.Machine.execBeodSet d q o s
  | .beodClr d q o => Sys2Proof.Machine.execBeodClr d q o s
  | .jmp a => Sys2Proof.Machine.execJmp a s
  | .callr a => Sys2Proof.Machine.execCallr a s
  | .ret => Sys2Proof.Machine.execRet s
  | .ldb im a d => Sys2Proof.Machine.execLdb im a d s
  | .ldbs im a d => Sys2Proof.Machine.execLdbs im a d s
  | .ldh im a d => Sys2Proof.Machine.execLdh im a d s
  | .ldhs im a d => Sys2Proof.Machine.execLdhs im a d s
  | .ldw im a d => Sys2Proof.Machine.execLdw im a d s
  | .ldd im a d => Sys2Proof.Machine.execLdd im a d s
  | .ldq im a d => Sys2Proof.Machine.execLdq im a d s
  | .stb im a d => Sys2Proof.Machine.execStb im a d s
  | .sth im a d => Sys2Proof.Machine.execSth im a d s
  | .stw im a d => Sys2Proof.Machine.execStw im a d s
  | .std im a d => Sys2Proof.Machine.execStd im a d s
  | .stq im a d => Sys2Proof.Machine.execStq im a d s
  | .ldo sc ord sz a d => Sys2Proof.Machine.execLdo sc ord sz a d s
  | .sto sc ord sz a d => Sys2Proof.Machine.execSto sc ord sz a d s
  | .atomAdd w sc ord a d => Sys2Proof.Machine.execAtomAdd w sc ord a d s
  | .atomMins w sc ord a d => Sys2Proof.Machine.execAtomMins w sc ord a d s
  | .atomMinn w sc ord a d => Sys2Proof.Machine.execAtomMinn w sc ord a d s
  | .atomMaxs w sc ord a d => Sys2Proof.Machine.execAtomMaxs w sc ord a d s
  | .atomMaxn w sc ord a d => Sys2Proof.Machine.execAtomMaxn w sc ord a d s
  | .atomAnd w sc ord a d => Sys2Proof.Machine.execAtomAnd w sc ord a d s
  | .atomOr w sc ord a d => Sys2Proof.Machine.execAtomOr w sc ord a d s
  | .atomXor w sc ord a d => Sys2Proof.Machine.execAtomXor w sc ord a d s
  | .atomExch w sc ord a d => Sys2Proof.Machine.execAtomExch w sc ord a d s
  | .atomCas w sc ord a d => Sys2Proof.Machine.execAtomCas w sc ord a d s
  | .atomFadd w sc ord a d => Sys2Proof.Machine.execAtomFadd w sc ord a d s
  | .atomFmin w sc ord a d => Sys2Proof.Machine.execAtomFmin w sc ord a d s
  | .atomFmax w sc ord a d => Sys2Proof.Machine.execAtomFmax w sc ord a d s
  | .redAdd w sc ord a d => Sys2Proof.Machine.execRedAdd w sc ord a d s
  | .redMins w sc ord a d => Sys2Proof.Machine.execRedMins w sc ord a d s
  | .redMinn w sc ord a d => Sys2Proof.Machine.execRedMinn w sc ord a d s
  | .redMaxs w sc ord a d => Sys2Proof.Machine.execRedMaxs w sc ord a d s
  | .redMaxn w sc ord a d => Sys2Proof.Machine.execRedMaxn w sc ord a d s
  | .redAnd w sc ord a d => Sys2Proof.Machine.execRedAnd w sc ord a d s
  | .redOr w sc ord a d => Sys2Proof.Machine.execRedOr w sc ord a d s
  | .redXor w sc ord a d => Sys2Proof.Machine.execRedXor w sc ord a d s
  | .redFadd w sc ord a d => Sys2Proof.Machine.execRedFadd w sc ord a d s
  | .redFmin w sc ord a d => Sys2Proof.Machine.execRedFmin w sc ord a d s
  | .redFmax w sc ord a d => Sys2Proof.Machine.execRedFmax w sc ord a d s
  | .fence sc ord => Sys2Proof.Machine.execFence sc ord s
  | .pref a => Sys2Proof.Machine.execPref a s
  | .wbk a => Sys2Proof.Machine.execWbk a s
  | .invl a => Sys2Proof.Machine.execInvl a s
  | .spempty b a => Sys2Proof.Machine.execSpempty b a s
  | .spfull b a => Sys2Proof.Machine.execSpfull b a s
  | .spqry a d => Sys2Proof.Machine.execSpqry a d s
  | .binit b a => Sys2Proof.Machine.execBinit b a s
  | .barv a d => Sys2Proof.Machine.execBarv a d s
  | .bexp b a => Sys2Proof.Machine.execBexp b a s
  | .bwait b a d => Sys2Proof.Machine.execBwait b a d s
  | .btry b a d => Sys2Proof.Machine.execBtry b a d s
  | .bqry a d => Sys2Proof.Machine.execBqry a d s
  | .barx a d => Sys2Proof.Machine.execBarx a d s
  | .bclr a => Sys2Proof.Machine.execBclr a s
  | .xstW a d => Sys2Proof.Machine.execXstW a d s
  | .xstD a d => Sys2Proof.Machine.execXstD a d s
  | .cpyin b a d => Sys2Proof.Machine.execCpyin b a d s
  | .cpyout b a d => Sys2Proof.Machine.execCpyout b a d s
  | .cpyss b a d => Sys2Proof.Machine.execCpyss b a d s
  | .ppush b a d => Sys2Proof.Machine.execPpush b a d s
  | .ppull b a d => Sys2Proof.Machine.execPpull b a d s
  | .coll b a d => Sys2Proof.Machine.execColl b a d s
  | .cpyg b a d => Sys2Proof.Machine.execCpyg b a d s
  | .cpqry a d => Sys2Proof.Machine.execCpqry a d s
  | .gang a => Sys2Proof.Machine.execGang a s
  | .vacq => Sys2Proof.Machine.execVacq s
  | .vrel => Sys2Proof.Machine.execVrel s
  | .wload a => Sys2Proof.Machine.execWload a s
  | .wswap => Sys2Proof.Machine.execWswap s
  | .mma b a d => Sys2Proof.Machine.execMma b a d s
  | .mmac b a d => Sys2Proof.Machine.execMmac b a d s
  | .mzero d => Sys2Proof.Machine.execMzero d s
  | .mdrain a d => Sys2Proof.Machine.execMdrain a d s
  | .mqry a d => Sys2Proof.Machine.execMqry a d s
  | .prsv a d => Sys2Proof.Machine.execPrsv a d s
  | .pcmt b a => Sys2Proof.Machine.execPcmt b a s
  | .crsv a d => Sys2Proof.Machine.execCrsv a d s
  | .crel b a => Sys2Proof.Machine.execCrel b a s
  | .pseal a => Sys2Proof.Machine.execPseal a s
  | .pqry b a d => Sys2Proof.Machine.execPqry b a d s
  | .lsub b a d => Sys2Proof.Machine.execLsub b a d s
  | .lseal b a d => Sys2Proof.Machine.execLseal b a d s
  | .lpass b a d => Sys2Proof.Machine.execLpass b a d s
  | .hmrg b a => Sys2Proof.Machine.execHmrg b a s
  | .hget b a d => Sys2Proof.Machine.execHget b a d s
  | .hrel b a => Sys2Proof.Machine.execHrel b a s
  | .lqry b a d => Sys2Proof.Machine.execLqry b a d s
  | .rinv b a d => Sys2Proof.Machine.execRinv b a d s
  | .rinvh b a d => Sys2Proof.Machine.execRinvh b a d s
  | .hres a d => Sys2Proof.Machine.execHres a d s
  | .hdrop a => Sys2Proof.Machine.execHdrop a s
  | .rret b a => Sys2Proof.Machine.execRret b a s
  | .tspawn a d => Sys2Proof.Machine.execTspawn a d s
  | .jcan b a d => Sys2Proof.Machine.execJcan b a d s
  | .sigdec b a => Sys2Proof.Machine.execSigdec b a s
  | .sigwait b a d => Sys2Proof.Machine.execSigwait b a d s
  | .sigadd b a => Sys2Proof.Machine.execSigadd b a s
  | .plnch b a d => Sys2Proof.Machine.execPlnch b a d s

end

end Sys2Proof.Machine
end

