-- ==== Sys2Proof/WellFormed.lean ====
section
/-! DEFINITION. Well-formed instructions: the operand fields the spec admits (R49, R53 to R59, and the operand rules of
each group) and, for an event, numbers that name places the device has (R7, R10, R22, R193). A word whose fields break
a rule still decodes, and its meaning takes ILLEGAL_OPERAND; an event whose numbers name nothing has no effect. -/

namespace Sys2Proof

open Machine

/-- Width of the operands of the FMA rows: T = 1 is f64 (R54, R66). -/
def fmaWidth (t : BitVec 3) : Nat := if t = 1#3 then 64 else 32

/-- The fields of an instruction, or the numbers of an event, are ones the spec admits. -/
def Instr.wf : Instr → Bool
  | .emptyLineTimeout core _ => decide (core < 128)
  | .rendezvousTimeout core gng => decide (core < 128 ∧ gng.wg < 8)
  | .wswapEffect core => decide (core < 128)
  | .vatComplete core _ => decide (core < 128)
  | .vatFault core _ => decide (core < 128)
  | .launchLoad core ctx _ _ => decide (core < 128 ∧ ctx < 64)
  | .wgAdmit core => decide (core < 128)
  | .wavePromote core agent => decide (core < 128 ∧ agent < 136)
  | .partWake core agent _ => decide (core < 128 ∧ agent < 136)
  | .trywaitExpire core agent _ => decide (core < 128 ∧ agent < 136)
  | .preemptRequest core => decide (core < 128)
  | .preemptSave core => decide (core < 128)
  | .preemptForce core => decide (core < 128)
  | .resume core => decide (core < 128)
  | .accessComplete core agent _ _ => decide (core < 128 ∧ agent < 136)
  | .xstLand core _ => decide (core < 128)
  | .copyLand core _ => decide (core < 128)
  | .copyVisible core _ => decide (core < 128)
  | .copyAbort core _ _ _ => decide (core < 128)
  | .collStart core _ => decide (core < 128)
  | .collChunkArrive core _ _ => decide (core < 128)
  | .collEnd core _ => decide (core < 128)
  | .peerUnreachable dev => decide (dev < 1024)
  | .planStart => true
  | .planDrain _ _ _ _ _ => true
  | .reserveServed _ _ => true
  | .commitArrive _ _ _ => true
  | .releaseArrive _ _ _ => true
  | .sealArrive _ _ _ => true
  | .occupancySample _ => true
  | .balance _ => true
  | .coreMoveLoad core => decide (core < 128)
  | .deadlockSnapshot _ _ _ _ _ => true
  | .energyWindow => true
  | .energyUpdate core => decide (core < 128)
  | .clockStretch => true
  | .passBegin ctx _ die => decide (ctx < 64 ∧ die < 4)
  | .batchAssign ctx _ core agent => decide (ctx < 64 ∧ core < 128 ∧ agent < 136)
  | .partialArrive _ => true
  | .hoopWaitExpire _ => true
  | .taskEnqueue m => match m with | .own _ => true | .pod t => decide (t.ctx < 64)
  | .taskStart ctx => decide (ctx < 64)
  | .invocationArrive m => match m with | .own _ => true | .pod t => decide (t.ctx < 64)
  | .handleSettle _ _ => true
  | .queueReport dev ctx _ => decide (dev < 1024 ∧ ctx < 64)
  | .cancelArrive dev ctx _ _ => decide (dev < 1024 ∧ ctx < 64)
  | .jcanComplete _ => true
  | .migrate _ dev => decide (dev < 1024)
  | .nakReport core agent _ => decide (core < 128 ∧ agent < 136)
  | .pagerAnswer _ _ => true
  | .memoryIssueResume core agent => decide (core < 128 ∧ agent < 136)
  | .rd die slice stack pch tag => decide (die < 4 ∧ slice < 64 ∧ stack < 3 ∧ pch < 64 ∧ tag < 8)
  | .wr die slice stack pch tag => decide (die < 4 ∧ slice < 64 ∧ stack < 3 ∧ pch < 64 ∧ tag < 8)
  | .rdr die slice stack pch tag => decide (die < 4 ∧ slice < 64 ∧ stack < 3 ∧ pch < 64 ∧ tag < 8)
  | .wra die slice stack pch tag => decide (die < 4 ∧ slice < 64 ∧ stack < 3 ∧ pch < 64 ∧ tag < 8)
  | .nak die slice stack pch tag _ => decide (die < 4 ∧ slice < 64 ∧ stack < 3 ∧ pch < 64 ∧ tag < 8)
  | .portSend die slice stack pch => decide (die < 4 ∧ slice < 64 ∧ stack < 3 ∧ pch < 64)
  | .sliceWrite ctx _ _ _ => decide (ctx < 64)
  | .lineFill core _ => decide (core < 128)
  | .writeBack _ _ => true
  | .podRequest ctx _ req => decide (ctx < 64) && match req with
    | .read n _ => decide (64 ≤ n ∧ n ≤ 256)
    | .write bs _ => decide (64 ≤ bs.length ∧ bs.length ≤ 256)
    | .atom fn n _ _ _ => decide (fn < 13 ∧ (n = 4 ∨ n = 8))
    | .plan r => decide (r.ctx = ctx)
  | .collapse _ => true
  | .replicaInvalidate _ dev => decide (dev < 1024)
  | .collapseDone _ => true
  | .replicaMake _ dev _ => decide (dev < 1024)
  | .pageOwnerChange _ _ => true
  | .errorEvent _ _ _ _ _ _ => true
  | .activationAlert die stack pch => decide (die < 4 ∧ stack < 3 ∧ pch < 64)
  | .ptpExchange => true
  | .ptpReply _ _ => true
  | .ptpTimeout => true
  | .laneFail _ _ => true
  | .flitReplay _ => true
  | .linkDown => true
  | .deviceReset _ => true
  | .recoveryImage _ => true
  | .svnRaise _ => true
  | .attestationRequest ctx _ => decide (ctx < 64)
  | .launchRequest ctx _ _ _ => decide (ctx < 64)
  | .launchWaitSatisfied ctx _ => decide (ctx < 64)
  | .watchArm ctx _ _ _ _ => decide (ctx < 64)
  | .watchFire ctx _ => decide (ctx < 64)
  | .ownershipClaim master prio _ => decide (master < 1024 ∧ prio < 256)
  | .electionDecide => true
  | .heartbeat master => decide (master < 1024)
  | .ownerLapse => true
  | .handover master prio _ => decide (master < 1024 ∧ prio < 256)
  | .accept master prio _ => decide (master < 1024 ∧ prio < 256)
  | .handoverLapse => true
  | .powerLimitWrite master _ => decide (master < 1024)
  | .carveWrite master die _ => decide (master < 1024 ∧ die < 4)
  | .ctxActivate master ctx => decide (master < 1024 ∧ ctx < 64)
  | .ctxTeardown master ctx => decide (master < 1024 ∧ ctx < 64)
  | .teardownFree ctx => decide (ctx < 64)
  | .mapWindowWrite master ctx _ _ _ _ => decide (master < 1024 ∧ ctx < 64)
  | .cbCoresWrite master ctx _ => decide (master < 1024 ∧ ctx < 64)
  | .swapReq master _ => decide (master < 1024)
  | .swapDone => true
  | .snapReq master => decide (master < 1024)
  | .trBaseWrite master die _ => decide (master < 1024 ∧ die < 4)
  | .trCtlWrite master die _ => decide (master < 1024 ∧ die < 4)
  | .trRdWrite die _ => decide (die < 4)
  | .trDroppedWrite master die => decide (master < 1024 ∧ die < 4)
  | .deviceNumberWrite master _ => decide (master < 1024)
  | .registerWrite master _ _ => decide (master < 1024)
  | .drainLineLand core _ => decide (core < 128)
  | .yieldExpire core agent => decide (core < 128 ∧ agent < 136)
  | .linkRetrain => true
  | .stretchEnd => true
  | .refresh die stack pch _ => decide (die < 4 ∧ stack < 3 ∧ pch < 64)
  | .ztrap _ => true
  | .nop => true
  | .exit => true
  | .wsync => true
  | .srd a d => isSz d && decide (a.toNat < 32)
  | .swr a d => isSz a && swrNumbers.contains d.toNat
  | .rft => true
  | .clkrd d => evenScalar d
  | .tmark a => isSz a
  | .erd a d => isSz a && isSz d
  | .winb a => isSz a
  | .yield => true
  | .bkpt => true
  | .trap c => decide (0x20 ≤ c.toNat ∧ c.toNat ≤ 0x3F)
  | .safept _ => true
  | .limm _ => true
  | .iadd w b a d => aluOk d (wide w) [(a, wide w), (b, wide w)]
  | .isub w b a d => aluOk d (wide w) [(a, wide w), (b, wide w)]
  | .imul w b a d => aluOk d (wide w) [(a, wide w), (b, wide w)]
  | .imulhs w b a d => aluOk d (wide w) [(a, wide w), (b, wide w)]
  | .imulhn w b a d => aluOk d (wide w) [(a, wide w), (b, wide w)]
  | .imad w b a d => aluOk d (wide w) [(a, wide w), (b, wide w), (d, wide w)]
  | .imins w b a d => aluOk d (wide w) [(a, wide w), (b, wide w)]
  | .iminn w b a d => aluOk d (wide w) [(a, wide w), (b, wide w)]
  | .imaxs w b a d => aluOk d (wide w) [(a, wide w), (b, wide w)]
  | .imaxn w b a d => aluOk d (wide w) [(a, wide w), (b, wide w)]
  | .iabs w a d => aluOk d (wide w) [(a, wide w)]
  | .ineg w a d => aluOk d (wide w) [(a, wide w)]
  | .and w b a d => aluOk d (wide w) [(a, wide w), (b, wide w)]
  | .or w b a d => aluOk d (wide w) [(a, wide w), (b, wide w)]
  | .xor w b a d => aluOk d (wide w) [(a, wide w), (b, wide w)]
  | .andn w b a d => aluOk d (wide w) [(a, wide w), (b, wide w)]
  | .shl w b a d => aluOk d (wide w) [(a, wide w), (b, wide w)]
  | .shr w b a d => aluOk d (wide w) [(a, wide w), (b, wide w)]
  | .sra w b a d => aluOk d (wide w) [(a, wide w), (b, wide w)]
  | .rotl w b a d => aluOk d (wide w) [(a, wide w), (b, wide w)]
  | .popc w a d => aluOk d (wide w) [(a, wide w)]
  | .clz w a d => aluOk d (wide w) [(a, wide w)]
  | .brev w a d => aluOk d (wide w) [(a, wide w)]
  | .iaddss w b a d => aluOk d (wide w) [(a, wide w), (b, wide w)]
  | .iaddsn w b a d => aluOk d (wide w) [(a, wide w), (b, wide w)]
  | .isubss w b a d => aluOk d (wide w) [(a, wide w), (b, wide w)]
  | .isubsn w b a d => aluOk d (wide w) [(a, wide w), (b, wide w)]
  | .mov w a d => aluOk d (wide w) [(a, wide w)]
  | .sel w _ b a d => aluOk d (wide w) [(a, wide w), (b, wide w)]
  | .icmpEq k w b a d => cmpOk k d [(a, wide w), (b, wide w)]
  | .icmpNe k w b a d => cmpOk k d [(a, wide w), (b, wide w)]
  | .icmpLtS k w b a d => cmpOk k d [(a, wide w), (b, wide w)]
  | .icmpLeS k w b a d => cmpOk k d [(a, wide w), (b, wide w)]
  | .icmpLtN k w b a d => cmpOk k d [(a, wide w), (b, wide w)]
  | .icmpLeN k w b a d => cmpOk k d [(a, wide w), (b, wide w)]
  | .icmpTst k w b a d => cmpOk k d [(a, wide w), (b, wide w)]
  | .bfxi l p a d => bitFieldOk d l p && aluOk d (immWidth d) [(a, immWidth d)]
  | .bfii l p a d => bitFieldOk d l p && aluOk d (immWidth d) [(a, immWidth d), (d, immWidth d)]
  | .iaddi _ a d => aluOk d (immWidth d) [(a, immWidth d)]
  | .andi _ a d => aluOk d (immWidth d) [(a, immWidth d)]
  | .ori _ a d => aluOk d (immWidth d) [(a, immWidth d)]
  | .xori _ a d => aluOk d (immWidth d) [(a, immWidth d)]
  | .shfiShl w n a d => shiftOk w n && aluOk d (wide w) [(a, wide w)]
  | .shfiShr w n a d => shiftOk w n && aluOk d (wide w) [(a, wide w)]
  | .shfiSra w n a d => shiftOk w n && aluOk d (wide w) [(a, wide w)]
  | .shfiRotl w n a d => shiftOk w n && aluOk d (wide w) [(a, wide w)]
  | .movi _ _ d => dstOk d (immWidth d)
  | .icmpi _ a c m => decide (c.toNat < 11) && maskDstOk m.toNat [(a, if isSz a then 64 else 32)]
  | .fadd b a d => aluOk d 32 [(a, 32), (b, 32)]
  | .fsub b a d => aluOk d 32 [(a, 32), (b, 32)]
  | .fmul b a d => aluOk d 32 [(a, 32), (b, 32)]
  | .fmin b a d => aluOk d 32 [(a, 32), (b, 32)]
  | .fmax b a d => aluOk d 32 [(a, 32), (b, 32)]
  | .fabs a d => aluOk d 32 [(a, 32)]
  | .fneg a d => aluOk d 32 [(a, 32)]
  | .fcpys b a d => aluOk d 32 [(a, 32), (b, 32)]
  | .fminm b a d => aluOk d 32 [(a, 32), (b, 32)]
  | .fmaxm b a d => aluOk d 32 [(a, 32), (b, 32)]
  | .ffloor a d => aluOk d 32 [(a, 32)]
  | .fceil a d => aluOk d 32 [(a, 32)]
  | .ftrunc a d => aluOk d 32 [(a, 32)]
  | .frint a d => aluOk d 32 [(a, 32)]
  | .fclass a d => aluOk d 32 [(a, 32)]
  | .fma t b a d => decide (t.toNat < 4) && aluOk d (fmaWidth t) [(a, fmaWidth t), (b, fmaWidth t), (d, fmaWidth t)]
  | .fms t b a d => decide (t.toNat < 4) && aluOk d (fmaWidth t) [(a, fmaWidth t), (b, fmaWidth t), (d, fmaWidth t)]
  | .nfma t b a d => decide (t.toNat < 4) && aluOk d (fmaWidth t) [(a, fmaWidth t), (b, fmaWidth t), (d, fmaWidth t)]
  | .nfms t b a d => decide (t.toNat < 4) && aluOk d (fmaWidth t) [(a, fmaWidth t), (b, fmaWidth t), (d, fmaWidth t)]
  | .fcmpEq k w b a d => cmpOk k d [(a, wide w), (b, wide w)]
  | .fcmpNe k w b a d => cmpOk k d [(a, wide w), (b, wide w)]
  | .fcmpLt k w b a d => cmpOk k d [(a, wide w), (b, wide w)]
  | .fcmpLe k w b a d => cmpOk k d [(a, wide w), (b, wide w)]
  | .fcmpUnord k w b a d => cmpOk k d [(a, wide w), (b, wide w)]
  | .fcmpOrd k w b a d => cmpOk k d [(a, wide w), (b, wide w)]
  | .frcp a d => aluOk d 32 [(a, 32)]
  | .frsq a d => aluOk d 32 [(a, 32)]
  | .fsqrt a d => aluOk d 32 [(a, 32)]
  | .fex2 a d => aluOk d 32 [(a, 32)]
  | .flg2 a d => aluOk d 32 [(a, 32)]
  | .fsinp a d => aluOk d 32 [(a, 32)]
  | .fcosp a d => aluOk d 32 [(a, 32)]
  | .ftanh a d => aluOk d 32 [(a, 32)]
  | .fdiv b a d => aluOk d 32 [(a, 32), (b, 32)]
  | .cvtF32S32 _ a d => aluOk d 32 [(a, 32)]
  | .cvtF32N32 _ a d => aluOk d 32 [(a, 32)]
  | .cvtS32F32 _ a d => aluOk d 32 [(a, 32)]
  | .cvtN32F32 _ a d => aluOk d 32 [(a, 32)]
  | .cvtF32F16 sr _ rm a d => cvtOk sr rm && aluOk d 32 [(a, 64)]
  | .cvtF16F32 a d => aluOk d 64 [(a, 32)]
  | .cvtF32Bf16 sr _ rm a d => cvtOk sr rm && aluOk d 32 [(a, 64)]
  | .cvtBf16F32 a d => aluOk d 64 [(a, 32)]
  | .cvtF32E4m3 sr _ rm a d => cvtOk sr rm && aluOk d 32 [(a, 32)]
  | .cvtF32E5m2 sr _ rm a d => cvtOk sr rm && aluOk d 32 [(a, 32)]
  | .cvtE4m3F32 a d => aluOk d 32 [(a, 32)]
  | .cvtE5m2F32 a d => aluOk d 32 [(a, 32)]
  | .cvtF32E2m3 sr _ rm a d => cvtOk sr rm && aluOk d 32 [(a, 32)]
  | .cvtF32E3m2 sr _ rm a d => cvtOk sr rm && aluOk d 32 [(a, 32)]
  | .cvtE2m3F32 a d => aluOk d 32 [(a, 32)]
  | .cvtE3m2F32 a d => aluOk d 32 [(a, 32)]
  | .cvtF32E2m1 sr _ rm a d => cvtOk sr rm && aluOk d 32 [(a, 32)]
  | .cvtE2m1F32 a d => aluOk d 32 [(a, 32)]
  | .cvtF32F64 a d => aluOk d 64 [(a, 32)]
  | .cvtF64F32 _ _ a d => aluOk d 32 [(a, 64)]
  | .cvtF64S64 _ a d => aluOk d 64 [(a, 64)]
  | .cvtS64F64 _ a d => aluOk d 64 [(a, 64)]
  | .cvtF32S64 _ a d => aluOk d 64 [(a, 32)]
  | .cvtE8m0F32 a d => aluOk d 32 [(a, 32)]
  | .cvtF32E8m0 sr _ rm a d => cvtOk sr rm && aluOk d 32 [(a, 32)]
  | .cvtS32S8 a d => aluOk d 32 [(a, 32)]
  | .hadd2 _ b a d => aluOk d 32 [(a, 32), (b, 32)]
  | .hsub2 _ b a d => aluOk d 32 [(a, 32), (b, 32)]
  | .hmul2 _ b a d => aluOk d 32 [(a, 32), (b, 32)]
  | .hmin2 _ b a d => aluOk d 32 [(a, 32), (b, 32)]
  | .hmax2 _ b a d => aluOk d 32 [(a, 32), (b, 32)]
  | .dadd b a d => aluOk d 64 [(a, 64), (b, 64)]
  | .dsub b a d => aluOk d 64 [(a, 64), (b, 64)]
  | .dmul b a d => aluOk d 64 [(a, 64), (b, 64)]
  | .dmin b a d => aluOk d 64 [(a, 64), (b, 64)]
  | .dmax b a d => aluOk d 64 [(a, 64), (b, 64)]
  | .ddiv b a d => aluOk d 64 [(a, 64), (b, 64)]
  | .wredAddF32 a d => dstOk d 32 && waveSrcOk a
  | .wredAddS32 a d => dstOk d 32 && waveSrcOk a
  | .wredMinF32 a d => dstOk d 32 && waveSrcOk a
  | .wredMaxF32 a d => dstOk d 32 && waveSrcOk a
  | .wredMinS32 a d => dstOk d 32 && waveSrcOk a
  | .wredMaxS32 a d => dstOk d 32 && waveSrcOk a
  | .wredAnd a d => dstOk d 32 && waveSrcOk a
  | .wredOr a d => dstOk d 32 && waveSrcOk a
  | .wscanAddF32 a d => isVec d && waveSrcOk a
  | .wscanAddS32 a d => isVec d && waveSrcOk a
  | .shflIdx b a d => isVec d && waveSrcOk a && (isSz b || waveSrcOk b) && streamsOnce [a, b]
  | .shflUp b a d => isVec d && waveSrcOk a && (isSz b || waveSrcOk b) && streamsOnce [a, b]
  | .shflDown b a d => isVec d && waveSrcOk a && (isSz b || waveSrcOk b) && streamsOnce [a, b]
  | .shflXor b a d => isVec d && waveSrcOk a && (isSz b || waveSrcOk b) && streamsOnce [a, b]
  | .wvoteAny a d => isSz d && maskOk a
  | .wvoteAll a d => isSz d && maskOk a
  | .wballot a d => isSz d && waveSrcOk a
  | .wbcast b a d => isVec d && waveSrcOk a && isSz b
  | .wgetl b a d => isSz d && waveSrcOk a && isSz b
  | .wsetl b a d => isVec d && isSz a && isSz b
  | .mand b a d => maskOk d && maskOk a && maskOk b
  | .mor b a d => maskOk d && maskOk a && maskOk b
  | .mxor b a d => maskOk d && maskOk a && maskOk b
  | .mandn b a d => maskOk d && maskOk a && maskOk b
  | .mnot a d => maskOk d && maskOk a
  | .mmov a d => maskOk d && maskOk a
  | .mpopc a d => isSz d && maskOk a
  | .mffs a d => isSz d && maskOk a
  | .msave d => maskOk d
  | .mrest a => maskOk a
  | .mset d => maskOk d
  | .mclr d => maskOk d
  | .mtos a d => isSz d && maskOk a
  | .mfrs a d => maskOk d && isSz a
  | .sbind a _ => isSz a
  | .sskip a _ => isSz a
  | .sflag _ d => isSz d
  | .sunb _ => true
  | .spos _ d => isSz d
  | .waitc _ _ _ _ => true
  | .bra _ => true
  | .call _ => true
  | .brc c r _ => decide (c.toNat < 6) && isSz r
  | .brdT r _ => maskOk r
  | .brdF r _ => maskOk r
  | .bany r _ => maskOk r
  | .ball r _ => maskOk r
  | .bnone r _ => maskOk r
  | .beodSet _ _ _ => true
  | .beodClr _ _ _ => true
  | .jmp a => isScalar a
  | .callr a => isScalar a
  | .ret => true
  | .ldb _ a d => loadOk d 8 a
  | .ldbs _ a d => loadOk d 8 a
  | .ldh _ a d => loadOk d 16 a
  | .ldhs _ a d => loadOk d 16 a
  | .ldw _ a d => loadOk d 32 a
  | .ldd _ a d => loadOk d 64 a
  | .ldq _ a d => loadOk d 128 a
  | .stb _ a d => storeOk d 8 a
  | .sth _ a d => storeOk d 16 a
  | .stw _ a d => storeOk d 32 a
  | .std _ a d => storeOk d 64 a
  | .stq _ a d => storeOk d 128 a
  | .ldo sc ord sz a d => loadOk d (8 * Machine.sizeOf sz) a && ldoOrderOk sc ord
  | .sto sc ord sz a d => storeOk d (8 * Machine.sizeOf sz) a && stoOrderOk sc ord
  | .atomAdd w sc ord a d => atomOk false d (wide w) a && atomOrderOk sc ord
  | .atomMins w sc ord a d => atomOk false d (wide w) a && atomOrderOk sc ord
  | .atomMinn w sc ord a d => atomOk false d (wide w) a && atomOrderOk sc ord
  | .atomMaxs w sc ord a d => atomOk false d (wide w) a && atomOrderOk sc ord
  | .atomMaxn w sc ord a d => atomOk false d (wide w) a && atomOrderOk sc ord
  | .atomAnd w sc ord a d => atomOk false d (wide w) a && atomOrderOk sc ord
  | .atomOr w sc ord a d => atomOk false d (wide w) a && atomOrderOk sc ord
  | .atomXor w sc ord a d => atomOk false d (wide w) a && atomOrderOk sc ord
  | .atomExch w sc ord a d => atomOk false d (wide w) a && atomOrderOk sc ord
  | .atomCas w sc ord a d => atomOk true d (wide w) a && atomOrderOk sc ord
  | .atomFadd w sc ord a d => atomOk false d (wide w) a && atomOrderOk sc ord
  | .atomFmin w sc ord a d => atomOk false d (wide w) a && atomOrderOk sc ord
  | .atomFmax w sc ord a d => atomOk false d (wide w) a && atomOrderOk sc ord
  | .redAdd w sc ord a d => storeOk d (wide w) a && stoOrderOk sc ord
  | .redMins w sc ord a d => storeOk d (wide w) a && stoOrderOk sc ord
  | .redMinn w sc ord a d => storeOk d (wide w) a && stoOrderOk sc ord
  | .redMaxs w sc ord a d => storeOk d (wide w) a && stoOrderOk sc ord
  | .redMaxn w sc ord a d => storeOk d (wide w) a && stoOrderOk sc ord
  | .redAnd w sc ord a d => storeOk d (wide w) a && stoOrderOk sc ord
  | .redOr w sc ord a d => storeOk d (wide w) a && stoOrderOk sc ord
  | .redXor w sc ord a d => storeOk d (wide w) a && stoOrderOk sc ord
  | .redFadd w sc ord a d => storeOk d (wide w) a && stoOrderOk sc ord
  | .redFmin w sc ord a d => storeOk d (wide w) a && stoOrderOk sc ord
  | .redFmax w sc ord a d => storeOk d (wide w) a && stoOrderOk sc ord
  | .fence sc _ => scopeOk sc false
  | .pref a => isSz a
  | .wbk a => isSz a
  | .invl a => isSz a
  | .spempty b a => isSz a && isSz b
  | .spfull b a => isSz a && isSz b
  | .spqry a d => isSz a && isSz d
  | .binit b a => isSz a && isSz b
  | .barv a d => isSz a && isSz d
  | .bexp b a => isSz a && isSz b
  | .bwait b a d => isSz a && isSz b && isSz d
  | .btry b a d => isSz a && isSz b && isSz d
  | .bqry a d => isSz a && evenScalar d
  | .barx a d => isSz a && isSz d
  | .bclr a => isSz a
  | .xstW a d => storeOk d 32 a
  | .xstD a d => storeOk d 64 a
  | .cpyin b a d => copyRegsOk b a d
  | .cpyout b a d => copyRegsOk b a d
  | .cpyss b a d => copyRegsOk b a d
  | .ppush b a d => copyRegsOk b a d
  | .ppull b a d => copyRegsOk b a d
  | .coll b a d => copyRegsOk b a d
  | .cpyg b a d => copyRegsOk b a d
  | .cpqry a d => isSz d && decide (a.toNat < 4)
  | .gang a => isSz a
  | .vacq => true
  | .vrel => true
  | .wload a => isSz a
  | .wswap => true
  | .mma b a d => isSz a && isSz b && decide (d.toNat < 16)
  | .mmac b a d => isSz a && isSz b && decide (d.toNat < 16)
  | .mzero d => decide (d.toNat < 16)
  | .mdrain a d => isSz a && decide (d.toNat < 16)
  | .mqry a d => isSz d && decide (a.toNat < 4)
  | .prsv a d => isSz a && isSz d
  | .pcmt b a => isSz a && isSz b
  | .crsv a d => isSz a && evenScalar d
  | .crel b a => isSz a && isSz b
  | .pseal a => isSz a
  | .pqry b a d => isSz a && isSz d && decide (b.toNat < 8)
  | .lsub b a d => isSz a && isSz b && isSz d
  | .lseal b a d => isSz a && isSz d && decide (b.toNat < 2)
  | .lpass b a d => isSz a && isSz b && evenScalar d
  | .hmrg b a => isSz a && isSz b
  | .hget b a d => isSz a && isSz b && isSz d
  | .hrel b a => isSz a && isSz b
  | .lqry b a d => isSz a && isSz d && decide (b.toNat < 4)
  | .rinv b a d => isSz a && isSz b && evenScalar d
  | .rinvh b a d => isSz a && isSz b && evenScalar d
  | .hres a d => isSz a && evenScalar d
  | .hdrop a => isSz a
  | .rret b a => isSz a && isSz b
  | .tspawn a d => isSz a && evenScalar d
  | .jcan b a d => isSz a && isSz d && decide (b.toNat < 2)
  | .sigdec b a => isSz a && isSz b
  | .sigwait b a d => isSz a && isSz b && isSz d
  | .sigadd b a => isSz a && isSz b
  | .plnch b a d => isSz a && isSz b && isSz d

/-- An instruction that only an event of the device brings about: it has no word. -/
def Instr.isEvent (i : Instr) : Bool := (encodeNat i).isNone

end Sys2Proof
end

