-- ==== Sys2Proof/Machine/Issue.lean ====
section
/-! DEFINITION. One turn of the machine (R29, R44, R259, R291, R294 to R296): which unit acts, which wave or context
issues from it, fetching and decoding its word, and what the end of a step brings. The order of turns is the agenda's,
where it names one; else events that are due and units take turns (log 3). -/

namespace Sys2Proof.Machine

-- Splits before an issue (R294, R295) --------------------------------------------------------------------------------------

/-- The part in a slot. -/
def Agent.inSlot (a : Agent) (k : Nat) : Option (Nat × Part) := List.find? (fun (p : Nat × Part) => p.2.slot == some k) a.parts

/-- Two running splits in slots with equal program counters become one, in the lower slot (R294); one that has issued the
instruction there, and is completing its wait, is past it (R297). -/
def Agent.mergePair (a : Agent) (i j : Nat) : Agent :=
  match a.inSlot i, a.inSlot j with
  | some (k, p), some (l, q) =>
    if p.running && q.running && p.pc == q.pc && p.latch.isNone && q.latch.isNone then
      let both : Part := { p with lanes := p.lanes ||| q.lanes, em := p.em ||| q.em }
      { a with parts := (a.parts.del l).put k both,
               handling := a.handling.map fun h => if h.1 = l then (k, h.2) else h }
    else a
  | _, _ => a

def Agent.mergeSlots (a : Agent) : Agent :=
  [(0, 1), (0, 2), (0, 3), (1, 2), (1, 3), (2, 3)].foldl (fun a p => a.mergePair p.1 p.2) a

/-- The oldest runnable entry of the deferred list (R295). -/
def Agent.oldestEntry (a : Agent) : Option (Nat × Part) :=
  (a.parts.filter fun p => p.2.slot.isNone && p.2.wait.isNone).foldl (fun (b : Option (Nat × Part)) p =>
    match b with
    | some q => if p.2.stamp < q.2.stamp then some p else b
    | none => some p) none

/-- The oldest runnable entry takes the lowest free slot, or changes places with the parked split in the lowest slot
(R295). -/
def Agent.enlist (a : Agent) : Agent :=
  match a.oldestEntry with
  | none => a
  | some (k, p) =>
    match a.freeSlot with
    | some n => { a with parts := a.parts.put k { p with slot := some n } }
    | none =>
      match (List.range 4).findSome? fun n => (a.inSlot n).bind fun q => if q.2.wait.isSome then some q else none with
      | some (l, q) =>
        let parts := a.parts.put k { p with slot := q.slot }
        { a with parts := AList.put parts l { q with slot := none } }
      | none => a

/-- The parts of a wave as its next issue finds them. -/
def Agent.settle (a : Agent) : Agent := if a.role = .copy then a else (Nat.repeat (fun b => b.mergeSlots.enlist) 20 a).mergeSlots

-- Choice (R259, R291, R296, R305, R427) ------------------------------------------------------------------------------------

/-- The running parts of a settled agent, in the order in which they may issue: slots after the one that issued last. -/
def Agent.candidates (a : Agent) : List Nat :=
  (List.range 4).filterMap fun i =>
    (a.inSlot ((a.lastSlot + 1 + i) % 4)).bind fun p => if p.2.running && a.mayIssue p.1 then some p.1 else none

/-- Whether a wave goes before another: promoted, then not passed over by YIELD, then older. -/
def Agent.before (a b : Agent) : Bool :=
  if a.promoted != b.promoted then a.promoted
  else if a.yielding != b.yielding then b.yielding
  else decide (a.age < b.age)

def insertAgent (x : Nat × Agent) : List (Nat × Agent) → List (Nat × Agent)
  | [] => [x]
  | y :: ys => if x.2.before y.2 then x :: y :: ys else y :: insertAgent x ys

/-- The agents of a unit of a core, settled: the quarters 0 to 3 by age, the sequencer (unit 4) round-robin after the
context that issued last. -/
def Core.unitAgents (x : Core) (u : Nat) : List (Nat × Agent) :=
  let mine := (x.agents.filter fun p => if u < 4 then decide (p.1 < 128) && p.1 % 4 == u else decide (128 ≤ p.1)).map
    fun (p : Nat × Agent) => (p.1, p.2.settle)
  if u < 4 then mine.foldr insertAgent []
  else
    let round := (List.range 8).filterMap fun i => mine.find? fun p => p.1 == 128 + (x.lastUnit + 1 + i) % 8
    (round.filter fun p => !p.2.yielding) ++ round.filter fun p => p.2.yielding

/-- The unit of an agent. -/
def unitOf (k : Nat) : Nat := if k < 128 then k % 4 else 4

/-- The waves of a quarter that are ready beside the one that issues, and not yet promoted, become promoted in time
(R291). -/
def State.promoteDue (s : State) (c k : Nat) (others : List (Nat × Agent)) : State :=
  let evs := (others.filter fun p => decide (p.1 < 128) && p.1 != k && !p.2.promoted && !p.2.candidates.isEmpty).map
    fun p => Instr.wavePromote c p.1
  { s with pending := s.pending ++ evs.filter fun e => !(s.pending.contains e) }

/-- The sequencer has passed over a context in a round, in which another, `w`, issues (R259, R305). -/
def Core.passedOver (x : Core) (k w : Nat) : Bool :=
  decide (128 ≤ k ∧ (k - 128 + 7 - x.lastUnit) % 8 < (w + 7 - x.lastUnit) % 8)

/-- The state in which a part of a settled agent issues. -/
def State.prepare (s : State) (c : Nat) (all : List (Nat × Agent)) (k : Nat) (a : Agent) (part : Nat) : State :=
  let slot := ((a.parts.find? part).bind Part.slot).getD 0
  let s := s.promoteDue c k all
  let s := s.modCore c fun (x : Core) =>
    let rest : AList Agent := x.agents.map fun (p : Nat × Agent) =>
      (p.1, if 128 ≤ k && x.passedOver p.1 (k - 128) then { p.2 with yielding := false } else p.2)
    { x with agents := rest.put k { a with promoted := false, yielding := false, lastSlot := slot },
             lastUnit := if 128 ≤ k then k - 128 else x.lastUnit }
  { s with cur := { core := c, agent := k, part := part } }

-- Fetch and decode (R44, R46, R47) -----------------------------------------------------------------------------------------

/-- A role that may not issue a word's group (R33, R43); it decides before the other operand traps of a word (R44). -/
def roleBars (r : Role) (w : W32) : Bool :=
  let op := bits w 26 6
  let fn := bits w 21 5
  match r with
  | .copy => [0x18, 0x19, 0x1A, 0x1F, 0x20, 0x39, 0x3B].contains op || (op == 0 && fn == 5 && bits w 0 7 == 26)
  | .vector => op == 0x3A || op == 0x3B || (op == 0 && fn == 5 && bits w 0 7 == 26)
  | .matrix => op == 0x3A

/-- The deferred traps that a word which does not decode is the trap point of, by its group (R428): they come before it decodes. -/
def Agent.wordTakes (a : Agent) (part : Nat) (w : W32) (t : Deferred) : Bool :=
  let op := bits w 26 6
  let fn := bits w 21 5
  let th := fun (lo : Nat) => BitVec.ofNat 3 (bits w lo 3)
  if op = 0x00 ∧ fn = 2 then a.exitTakes part t
  else if op = 0x1B then a.waitcTakes part (th 23) (th 20) (th 17) (th 14) t
  else match t.at_ with
    | .park _ => (decide (0x24 ≤ op ∧ op ≤ 0x37 ∨ op = 0x39) || (op == 0x3E && decide (7 ≤ fn ∧ fn ≤ 9))) && a.parkPoint part t
    | .vat => op == 0x3B
    | .copy => op == 0x3A
    | .hoop => op == 0x3D
    | .loads _ => false

/-- The word that a part issues: of the instruction whose wait it completes (R297), else the one fetched at its pc. -/
def State.wordOf (s : State) : Except State State :=
  match s.myPart.latch with
  | some l => .ok { s with cur := { s.cur with word := l.word, len := l.len, pre := l.pre } }
  | none =>
    match s.fetch s.pc none with
    | .ok w => .ok { s with cur := { s.cur with word := w } }
    | .error t => .error t

/-- What a word that does not decode leads to: a deferred trap whose point it is (R428), else its own (R44, R46). -/
def State.undecoded (s : State) (operand : Bool) : State :=
  let w := s.cur.word
  (s.takeDeferred (s.me.wordTakes s.cur.part w)).getD
    (if !operand then s.illegalOpcode else if roleBars s.me.role w then s.roleViolation else s.illegalOperand)

/-- The instruction of the issuing part: what it leads to, or none where it does not issue yet (R105, R121, R221, R227):
then it changes nothing. -/
noncomputable def State.issuePart (s : State) : Option Out :=
  if s.me.wdPending then some (.next ((s.modMe fun a => { a with wdPending := false }).trap 0x11 0))
  else
    match s.wordOf with
    | .error t => some (.next t)
    | .ok s =>
      match decode s.cur.word with
      | .error .illegalOpcode => some (.next (s.undecoded false))
      | .error .illegalOperand => some (.next (s.undecoded true))
      | .ok i =>
        match exec i s with
        | .next t => if t = s then none else some (.next t)
        | o => some o

/-- The first of the candidates that issues. -/
noncomputable def State.issueFirst (s : State) (c : Nat) (all : List (Nat × Agent)) : List (Nat × Agent × Nat) → Option Out
  | [] => none
  | (k, a, part) :: rest => ((s.prepare c all k a part).issuePart).or (s.issueFirst c all rest)

/-- One issue of a unit of a core; none where nothing of it is ready. -/
noncomputable def State.issueUnit (s : State) (c u : Nat) : Option Out :=
  let x := s.core c
  if x.pre == .forced || x.pre == .saved then none
  else
    let all := x.unitAgents u
    s.issueFirst c all (all.flatMap fun p => p.2.candidates.map fun q => (p.1, p.2, q))

/-- A part of the unit whose wait has ended wakes first (R297). -/
def State.wakeUnit (s : State) (c u : Nat) : Option Out :=
  ((s.core c).agents.filter fun p => unitOf p.1 == u).findSome? fun p =>
    (s.wakeable c p.1 p.2).head?.map fun part => execPartWake c p.1 part s

/-- What a unit does in its turn. -/
noncomputable def State.unitTurn (s : State) (c u : Nat) : Option Out := (s.wakeUnit c u).or (s.issueUnit c u)

-- Turns --------------------------------------------------------------------------------------------------------------------

/-- An event whose numbers name something the device has; another has no effect. -/
noncomputable def State.runEvent (s : State) (e : Instr) : Out := if e.isEvent && e.wf then exec e s else .next s

/-- The units of the cores with agents, from the one after the last that issued. -/
def State.units (s : State) : List (Nat × Nat) :=
  let all := (s.cores.filter fun p => !p.2.agents.isEmpty).flatMap fun p => (List.range 5).map fun u => (p.1, u)
  let last := 5 * s.cur.core + unitOf s.cur.agent
  (all.filter fun p => decide (last < 5 * p.1 + p.2)) ++ all.filter fun p => decide (5 * p.1 + p.2 ≤ last)

/-- The first unit that acts. -/
noncomputable def State.anyUnit (s : State) : List (Nat × Nat) → Option Out
  | [] => none
  | (c, u) :: rest => (s.unitTurn c u).or (s.anyUnit rest)

/-- The event that has been due longest. -/
noncomputable def State.dueEvent (s : State) : Option Out :=
  match s.pending with
  | e :: rest => some (State.runEvent { s with pending := rest, turnEv := false } e)
  | [] => none

/-- One turn: the agenda's, else an event that is due and a unit by turns (log 3). -/
noncomputable def State.turn (s : State) : Out :=
  match s.agenda with
  | .event e :: rest => State.runEvent { s with agenda := rest } e
  | .issue c u :: rest =>
    let s : State := { s with agenda := rest }
    (s.unitTurn c u).getD (.next s)
  | [] =>
    let unit := State.anyUnit { s with turnEv := true } s.units
    ((if s.turnEv then s.dueEvent.or unit else unit.or s.dueEvent)).getD (.next s)

/-- An NCLK, which lasts two CCLK (R1), ends with the step (R447; log 2). -/
def State.nclkEnds (s : State) : Bool := decide (s.cycle / 2 < (s.cycle + Config.cclkOf s.tick) / 2)

/-- The end of a step: a stage or plan whose last workgroup ended in it ends (R319 to R321), the events found are
numbered where an NCLK ends (R447), and time passes (log 2). -/
def State.endStep (s : State) : State :=
  let s := s.plansEnd
  let s := if !s.found.isEmpty && s.nclkEnds then s.numberAll else s
  { s with tick := s.tick + 1, now := s.now + Config.nsOf s.tick, cycle := s.cycle + Config.cclkOf s.tick }

/-- The same for an outcome. -/
def endTurn : Out → Out
  | .next s => .next s.endStep
  | .fault r => .fault r
  | .refused r => .refused r

/-- A step of the machine. -/
noncomputable def State.oneStep (s : State) : Out := endTurn s.turn

-- A word placed for the next step ------------------------------------------------------------------------------------------

/-- The role that a word's group asks for. -/
def roleFor (w : W32) : Role :=
  let op := bits w 26 6
  if op = 0x3B then .matrix else if op = 0x3A ∨ (op = 0x3D ∧ bits w 21 5 = 2) then .copy else .vector

/-- The launch record of a placed word: one wave of the role, with code at the start of window 0. -/
def placedRecord (r : Role) (code : W64) : LaunchRec :=
  { code := code, copyOff := 0, vregs := 96, regTop := 24, scrTop := 64, xchTop := 64, nsect := 1, nwaves := 1, slotTotal := 1,
    nlevels := 1, sects := [{ entry := 0, count := 1, role := if r = .matrix then 0 else 1, slots := 1, first := 0 }],
    levels := [{ extent := 1, domain := 1, scope := 0 }], args := List.replicate 8 0 }

/-- Stores a word where the next step fetches: context 0 is active with one window and one page, core 0 runs one
workgroup of it, and the agenda names its issue (log 21). -/
def State.placeWord (s : State) (nbits w : Nat) : State :=
  let word : W32 := BitVec.ofNat 32 (w % 2 ^ nbits)
  let code : W64 := 0x1000000
  let role := roleFor word
  let lr := placedRecord role code
  let agent := if role = .copy then lr.context 0 1 (lr.argsOf 0) [0] else lr.wave 0 0 1 (lr.argsOf 0) [0]
  let key := if role = .copy then 128 else 0
  let win : Window := { vbase := 8, ibase := 0, log2 := 21, valid := true, x := true, w := true, r := true }
  let core : Core := { agents := [(key, agent)], wgs := [(0, { uid := 0, g := 0, slotBase := 0, copyEnded := key != 128 })],
                       run := .tasks, ctx := some 0, lr := lr }
  let u := s.cluster 0
  { s with
    agenda := [.issue 0 (unitOf key)]
    cores := s.cores.put 0 core
    clusters := s.clusters.put 0 { u with buf := u.buf.del 0, au := u.au.del 0 }
    ctxs := s.ctxs.put 0 { s.ctx 0 with st := .active, mw := [(0, win)] }
    pages := s.pages.put 0 { owner := 0 }
    mem := (s.mem.putBytes 0 (wordBytes word)).putBytes 4 [0, 0, 0, 0]
    bad := s.bad.filter fun k => k != 0 }

end Sys2Proof.Machine
end

