-- ==== Sys2Proof/Machine/Step.lean ====
section
/-! DEFINITION. One step of the device, and the state in which the next step runs a given word. -/

namespace Sys2Proof.Machine

/-- One step: a turn of the schedule, and the end of a step. -/
noncomputable def step (s : State) : Host.Outcome State Fault Refusal := s.oneStep

/-- The state in which the next step fetches and runs the instruction whose bits are `w` (log 21). -/
def State.withFetchWord (s : State) (nbits w : Nat) : State := s.placeWord nbits w

end Sys2Proof.Machine
end

