-- ==== Sys2Proof/Safety.lean ====
section
/-! DEFINITION. The terms in which claims are stated: the invariant of the machine, what an instruction leaves alone, and
what it means that an instruction of a group completes with its effect. -/

namespace Sys2Proof.Machine

-- The invariant ---------------------------------------------------------------------------------------------------------

/-- What every step keeps: the memories in their canonical form, a power limit R1 allows, a device number of 10 bits
(R40). -/
def State.Inv (s : State) : Prop :=
  s.mem.wf = true ∧ s.dram.wf = true ∧ s.repMem.wf = true ∧ 1500 ≤ s.powerLimit ∧ s.powerLimit ≤ 3200 ∧ s.devNum < 1024

-- Agents ----------------------------------------------------------------------------------------------------------------

/-- Nothing stands between the agent and its next instruction: no deferred trap, no scalar that an operation is still to
write, no access at the pager, memory issue not parked, no uncorrectable register. -/
def Agent.settled (a : Agent) : Bool :=
  a.traps.isEmpty && a.regWait.isEmpty && a.faults.isEmpty && !a.memParked && a.vbad.isEmpty

/-- The same for the agent that issues, whose part does not resume from a wait. -/
def State.ready (s : State) : Bool := s.me.settled && s.myPart.latch.isNone

-- Frames ----------------------------------------------------------------------------------------------------------------

/-- Nothing outside the issuing agent has changed: no byte of memory or of a pool, no other agent, no table, no event. -/
def OnlyMe (s t : State) : Prop := t = s.setMe t.me

/-- A part that goes on at an address: with its lanes and its em, and with nothing left of a wait or of a failed fetch. -/
def Part.goOn (p : Part) (target : W64) : Part :=
  { p with pc := target, wait := none, expired := false, op := none, nofetch := none, latch := none }

/-- The issuing part has gone on to an address, with its lanes and its em, and no other part of the agent has changed. -/
def WentTo (s t : State) (target : W64) : Prop :=
  t.myPart = s.myPart.goOn target ∧
    ∀ k, k ≠ s.cur.part → t.me.parts.find? k = s.me.parts.find? k

/-- It has gone on past its instruction, or past a LIMM and its follower (R47, R52). -/
def Passed (s t : State) : Prop := WentTo s t (s.pc + BitVec.ofNat 64 s.cur.len)

/-- Of the agent's registers only vector registers, with what is uncorrectable in them, scalars and sr.fflags have changed. -/
def KeepsSpecials (s t : State) : Prop :=
  t.me = { s.me with v := t.me.v, vbad := t.me.vbad, s := t.me.s, fflags := t.me.fflags, parts := t.me.parts }

/-- Every vector register, scalar and mask reads as before. -/
def KeepsV (s t : State) : Prop := ∀ n l, l < 64 → t.me.vget n l = s.me.vget n l
def KeepsS (s t : State) : Prop := ∀ n, t.me.sget n = s.me.sget n
def KeepsM (s t : State) : Prop := ∀ n, t.me.mget n = s.me.mget n

/-- The scalars but for one field's: a scalar register receives the value, zero discards it (R28, R53). -/
def WroteS (s t : State) (d : Reg) (x : W64) : Prop :=
  ∀ n, t.me.sget n = if isScalar d = true ∧ n = d.toNat - 96 then x else s.me.sget n

/-- The same for a pair (R54). -/
def WrotePair (s t : State) (d : Reg) (lo hi : W64) : Prop :=
  ∀ n, t.me.sget n = if isScalar d = true ∧ n = d.toNat - 96 then lo
    else if isScalar d = true ∧ n = d.toNat - 95 then hi else s.me.sget n

/-- A result of `dw` bits in the destination of a register instruction (R28, R53, R54, R56): the given lanes of a vector
register, or of the registers of a pair, receive their lane's result; a scalar the one result, zero-extended; zero
discards it. Every other lane and register reads as before, sr.fflags has the raised flags OR-ed in (R99), and a word of 8
lanes that was uncorrectable is good where the write covers it whole, else as before (R442). -/
def Wrote (s t : State) (lanes : BitVec 64) (d : Reg) (dw : Nat) (r : Nat → Nat) (fl : FFlags) : Prop :=
  (∀ n l, l < 64 → t.me.vget n l =
    if isVec d = true ∧ d.toNat ≤ n ∧ n < d.toNat + max 1 (dw / 32) ∧ lanes.getLsbD l = true
    then BitVec.ofNat 32 (r l / 2 ^ (32 * (n - d.toNat))) else s.me.vget n l) ∧
  WroteS s t d (BitVec.ofNat 64 (r 0)) ∧
  t.me.fflags = s.me.fflags ||| fl ∧
  (∀ k, k ∈ t.me.vbad ↔ k ∈ s.me.vbad ∧
    ¬(isVec d = true ∧ k / 8 ∈ s.me.keysOf (d, dw) ∧ lanes.extractLsb' (8 * (k % 8)) 8 = 0xFF#8)) ∧
  KeepsSpecials s t

/-- The flags of a register instruction (R99): of its active lanes, or of its one result. -/
def flagsOf (s : State) (d : Reg) (r : Nat → Nat × FFlags) : FFlags :=
  if isVec d then (lanesOf s.em).foldl (fun f l => f ||| (r l).2) 0 else (r 0).2

-- Register instructions -------------------------------------------------------------------------------------------------

/-- What a register instruction does (R31, R56, R57, R103), once no earlier operation is still to write its registers:
with fields, streams or a role the spec does not allow it takes ILLEGAL_OPERAND; what stops a stream read stops it; else it
completes: after its stream reads, which leave `u`, nothing but the issuing agent changes, the destination receives `f`
of the operands, and the part goes on. `u` is `s` where no source is a q register. -/
def AluDoes (i : Instr) (d : Reg) (dw : Nat) (srcs : List Opnd) (ok : State → Bool) (f : State → LaneOp) : Prop :=
  ∀ s : State, s.interlock srcs [(d, dw)] = .ok () →
    let may := aluOk d dw srcs && ok s && s.streamsOk srcs && !(decide (s.me.role = .copy) && namesLanes (d :: srcs.map Prod.fst))
    (may = false → exec i s = .next s.illegalOperand) ∧
    (may = true → (∀ e, s.pullAll (isVec d) srcs = .error e → exec i s = .next e) ∧
      ∀ u got, s.pullAll (isVec d) srcs = .ok (u, got) →
        let r := fun l => f s l (srcs.map (u.val got l))
        ∃ t, exec i s = .next t ∧ OnlyMe u t ∧ Passed u t ∧ Wrote u t u.em d dw (fun l => (r l).1) (flagsOf u d r))

/-- What a compare with a mask destination does (R56, R113): the bits of the active lanes receive the condition, of each
lane where a source is a vector register, lid or a q register, else the one condition. -/
def CmpDoes (i : Instr) (m : Nat) (srcs : List Opnd) (ok : Bool) (f : State → List Nat → Bool) : Prop :=
  ∀ s : State, s.interlock srcs [] = .ok () →
    let may := maskDstOk m srcs && ok && s.streamsOk srcs && !(decide (s.me.role = .copy))
    (may = false → exec i s = .next s.illegalOperand) ∧
    (may = true → (∀ e, s.pullAll true srcs = .error e → exec i s = .next e) ∧
      ∀ u got, s.pullAll true srcs = .ok (u, got) →
        ∃ t, exec i s = .next t ∧ OnlyMe u t ∧ Passed u t ∧
          (∀ n l, l < 64 → (t.me.mget n).getLsbD l =
            if n = m ∧ u.em.getLsbD l = true then
              f s (srcs.map (u.val got (if namesLanes (srcs.map Prod.fst) then l else 0)))
            else (u.me.mget n).getLsbD l) ∧
          t.me = { u.me with m := t.me.m, parts := t.me.parts })

/-- What an instruction does whose role rule is that copy contexts may not issue it (R43): what it then does is `eff`. -/
def GroupAt (i : Instr) (reads writes : List Opnd) (legal : Bool) (eff : State → Out → Prop) (s : State) : Prop :=
  s.interlock reads writes = .ok () →
    (s.me.role = .copy → exec i s = .next s.roleViolation) ∧
    (s.me.role ≠ .copy →
      ((legal && s.streamsOk reads) = false → exec i s = .next s.illegalOperand) ∧
      ((legal && s.streamsOk reads) = true → eff s (exec i s)))

/-- The same in every state. -/
def GroupDoes (i : Instr) (reads writes : List Opnd) (legal : Bool) (eff : State → Out → Prop) : Prop :=
  ∀ s : State, GroupAt i reads writes legal eff s

/-- A mask instruction with mask destination (R115, R116): in the lanes it acts on, each bit of md is `f` of its lane. -/
def WritesMask (d : Reg) (acts : State → BitVec 64) (f : State → Nat → Bool) (s : State) (o : Out) : Prop :=
  ∃ t, o = .next t ∧ OnlyMe s t ∧ Passed s t ∧
    (∀ n l, l < 64 → (t.me.mget n).getLsbD l =
      if n = d.toNat ∧ (acts s).getLsbD l = true then f s l else (s.me.mget n).getLsbD l) ∧
    t.me = { s.me with m := t.me.m, parts := t.me.parts }

/-- An instruction that writes one scalar. -/
def WritesScalar (d : Reg) (f : State → W64) (s : State) (o : Out) : Prop :=
  ∃ t, o = .next t ∧ OnlyMe s t ∧ Passed s t ∧ WroteS s t d (f s) ∧ t.me = { s.me with s := t.me.s, parts := t.me.parts }

/-- A wave instruction (R137): its streams read, its result is written and the part goes on. -/
def WritesWave (srcs : List Opnd) (d : Reg) (lanes : State → BitVec 64) (r : State → Pulled → Nat → Nat)
    (fl : State → Pulled → FFlags) (s : State) (o : Out) : Prop :=
  (∀ e, s.pullAll true srcs = .error e → o = .next e) ∧
    ∀ u got, s.pullAll true srcs = .ok (u, got) →
      ∃ t, o = .next t ∧ OnlyMe u t ∧ Passed u t ∧ Wrote u t (lanes u) d 32 (r u got) (fl u got)

-- Control ---------------------------------------------------------------------------------------------------------------

/-- An instruction that only goes somewhere. -/
def Goes (s : State) (target : W64) (o : Out) : Prop :=
  ∃ t, o = .next t ∧ OnlyMe s t ∧ WentTo s t target ∧ t.me = { s.me with parts := t.me.parts }

/-- The address after the instruction, or after a LIMM and its follower. -/
def State.after_ (s : State) : W64 := s.pc + BitVec.ofNat 64 s.cur.len

/-- The majors a LIMM may join (R51). -/
def joins : Instr → Bool
  | .iaddi .. | .andi .. | .ori .. | .xori .. | .icmpi .. => true
  | .ldb .. | .ldbs .. | .ldh .. | .ldhs .. | .ldw .. | .ldd .. | .ldq .. => true
  | .stb .. | .sth .. | .stw .. | .std .. | .stq .. => true
  | _ => false

-- Memory ----------------------------------------------------------------------------------------------------------------

/-- The byte at an address as a core reads it at WAVE or CORE scope, in the context that it runs (R184, R186, R189, R191,
R218, R403): from its L1, else from its cluster, else from its die's replica, else from memory, where a page of another device
may have a replica here. -/
def State.seen (s : State) (c ia : Nat) : Byte :=
  let ctx := s.ctxOf c
  let line := ia / 128
  let o := ia % 128
  let below := match (if replicated (dieOf c) line then ownLine (s.die (dieOf c)).reps ctx line else none) with
    | some l => l.data.get o
    | none => s.homeByte ia
  match ownLine (s.core c).l1 ctx line with
  | some l => l.data.get o
  | none =>
    match (s.cluster (clusterOf c)).line? ctx line with
    | some l => if l.valid.getLsbD o then l.data.get o else below
    | none => below

/-- The byte at an address as the units of a core's cluster have it: from its line, else from memory (R218). -/
def State.unitByte (s : State) (c ia : Nat) : Byte :=
  match (s.cluster (clusterOf c)).line? (s.ctxOf c) (ia / 128) with
  | some l => if l.valid.getLsbD (ia % 128) then l.data.get (ia % 128) else s.homeByte ia
  | none => s.homeByte ia

/-- No cache that serves a core holds a line of another context than the one it runs: such a line is a miss, and is written back
first (R186). -/
def State.cachesOwn (s : State) (c : Nat) : Prop :=
  ∀ line l, ((s.core c).l1.find? line = some l ∨ (s.cluster (clusterOf c)).buf.find? line = some l ∨
    (s.cluster (clusterOf c)).au.find? line = some l) → l.own = s.ctxOf c

/-- A dirty byte of a line. -/
def CLine.holds (l : CLine) (o : Nat) (b : Byte) : Prop := l.dirty.getLsbD o = true ∧ l.data.get o = b

/-- A byte of a home address that some cache of the device holds dirty: what a write-back may bring to memory (R185). -/
def State.dirtyAt (s : State) (h : Nat) (b : Byte) : Prop :=
  ∃ ia, s.home (ia / 128 * 128) / 128 = h / 128 ∧ ia % 128 = h % 128 ∧
    ((∃ c l, (s.core c).l1.find? (ia / 128) = some l ∧ l.holds (ia % 128) b) ∨
     ∃ u l, ((s.cluster u).buf.find? (ia / 128) = some l ∨ (s.cluster u).au.find? (ia / 128) = some l) ∧ l.holds (ia % 128) b)

/-- Memory has changed by write-backs at most: every byte is as it was, or is one that a cache held dirty. -/
def WroteBack (s t : State) : Prop := ∀ h, t.mem.get h = s.mem.get h ∨ s.dirtyAt h (t.mem.get h)

/-- Every pool is as it was. -/
def KeepsPools (s t : State) : Prop := ∀ c, (t.core c).pool = (s.core c).pool

/-- Every other agent is as it was. -/
def KeepsOthers (s t : State) : Prop :=
  ∀ c k, ¬(c = s.cur.core ∧ k = s.cur.agent) → t.agent? c k = s.agent? c k

/-- Every byte of memory and of every pool is as it was, for every core that reads it. -/
def KeepsMemory (s t : State) : Prop :=
  t.mem = s.mem ∧ t.dram = s.dram ∧ (∀ c h, t.seen c h = s.seen c h) ∧ KeepsPools s t

/-- What a core's agent reads at an address (R36, R189). -/
def State.valueAt (s : State) (c : Nat) (k : MemKind) (va : W64) (size : Nat) : Nat :=
  match s.place c k.need va size with
  | some (.pool off) => (s.core c).pool.readLE ((s.core c).phys off) size
  | some (.mem ia) => leNat ((List.range size).map fun i => s.seen c (ia + i))
  | none => 0

/-- The byte that the last of some writes of `size` bytes at (address, value) leaves at an address, if any covers it. -/
def lastWrite (size : Nat) (ws : List (Nat × Nat)) (h : Nat) : Option Byte :=
  ws.foldl (fun o w => if w.1 ≤ h ∧ h < w.1 + size then some (BitVec.ofNat 8 (w.2 / 256 ^ (h - w.1))) else o) none

/-- A check decides: where it fails its state is the outcome, where it passes the rest holds. -/
def Decides (check : Except State Unit) (o : Out) (rest : Prop) : Prop :=
  (∀ e, check = .error e → o = .next e) ∧ (check = .ok () → rest)

/-- The checks of an access at issue, in their order, and what holds where they all pass: alignment and rights (R226), EMPTY
lines (R179), earlier faulted accesses (R207, R437), earlier copies of a copy context (R270), room in its counter (R221) and
requests (R13), for which it waits at the issue stage. -/
def IssueDecides (s : State) (nd : Need) (size ord : Nat) (cls : CounterClass) (es : List Ea) (o : Out) (rest : Prop) : Prop :=
  Decides (s.checkEa nd size es) o <| Decides (s.emptyGate size es) o <| Decides (s.orderGate ord es) o <|
  Decides (s.copyOrderGate nd size es) o <|
    (es ≠ [] → s.me.room cls = false → o = .next s) ∧
    (es = [] ∨ s.me.room cls = true →
      (0 < s.requests s.cur.core nd size (es.map Prod.snd) →
        2048 < s.myCore.outstanding + s.requests s.cur.core nd size (es.map Prod.snd) → o = .next s) ∧
      (s.requests s.cur.core nd size (es.map Prod.snd) = 0 ∨
        s.myCore.outstanding + s.requests s.cur.core nd size (es.map Prod.snd) ≤ 2048 → rest))

/-- How far a load or LDO comes (R13, R44, R58, R179, R221, R226, R229, R428, R435, R437): the first of its checks that fails
decides; where none fails, it issues. -/
def LoadIssues (i : Instr) (size : Nat) (signed : Bool) (ord scope : Nat) (off : State → W64) (a d : Reg) (ok : Bool) : Prop :=
  ∀ s : State,
    let es := s.eas (isVec d) a (off s) size
    let legal := loadOk d (8 * size) a && ok && !(decide (s.me.role = .copy) && namesLanes [d, a])
    Decides (s.trapGate s.parkPoint [(a, 64)]) (exec i s) <|
      (legal = false → exec i s = .next s.illegalOperand) ∧
      (legal = true → Decides s.memGate (exec i s)
        (s.interlock [(a, 64)] [(d, 8 * size)] = .ok () →
          IssueDecides s .r size ord .ld es (exec i s) (
            exec i s = .next (s.orderedAccess .ld (.load signed) size ord scope (s.dstOf d)
              (es.map fun e => { lane := e.1, va := e.2, data := 0, data2 := 0 })).advance)))

/-- The same for a store, STO or RED (R225 to R227, R230, R233, R236), whose data are read, and their streams advanced, when
it issues. -/
def StoreIssues (i : Instr) (kind : MemKind) (size ord scope : Nat) (off : State → W64) (a d : Reg) (ok : Bool) : Prop :=
  ∀ s : State,
    let per := storePerLane d a
    let es := s.eas per a (off s) size
    let legal := storeOk d (8 * size) a && ok && s.streamsOk [(d, 8 * size)] &&
      !(decide (s.me.role = .copy) && namesLanes [d, a])
    Decides (s.trapGate s.parkPoint [(a, 64), (d, 8 * size)]) (exec i s) <|
      (legal = false → exec i s = .next s.illegalOperand) ∧
      (legal = true → Decides s.memGate (exec i s)
        (s.interlock [(a, 64), (d, 8 * size)] [] = .ok () →
          IssueDecides s kind.need size ord .st es (exec i s) (
            (∀ e, s.pullAll per [(d, 8 * size)] = .error e → exec i s = .next e) ∧
            ∀ u got, s.pullAll per [(d, 8 * size)] = .ok (u, got) →
              exec i s = .next (u.orderedAccess .st kind size ord scope none
                (es.map fun e => { lane := e.1, va := e.2, data := u.val got e.1 (d, 8 * size), data2 := 0 })).advance)))

/-- The same for an atomic operation with a result (R218, R228, R234, R235). -/
def AtomIssues (i : Instr) (fn : Nat) (w : BitVec 1) (sc : BitVec 3) (ord : BitVec 2) (a d : Reg) : Prop :=
  ∀ s : State,
    let n := if w = 0#1 then 32 else 64
    let cas := decide (fn = 9)
    let es := s.eas (isVec d) a 0 (n / 8)
    let reads : List Opnd := [(a, 64), (d, n)] ++ if cas then [(swapReg d n, n)] else []
    let legal := atomOk cas d n a && atomOrderOk sc ord && !(decide (s.me.role = .copy) && namesLanes [d, a])
    Decides (s.trapGate s.parkPoint reads) (exec i s) <|
      (legal = false → exec i s = .next s.illegalOperand) ∧
      (legal = true → Decides s.memGate (exec i s)
        (s.interlock reads [(d, n)] = .ok () →
          IssueDecides s .rw (n / 8) ord.toNat .ld es (exec i s) (
            exec i s = .next (s.orderedAccess .ld (.atom fn) (n / 8) ord.toNat sc.toNat (s.dstOf d)
              (es.map fun e =>
                { lane := e.1, va := e.2, data := s.val [] e.1 (d, n),
                  data2 := if cas then s.val [] e.1 (swapReg d n, n) else 0 })).advance)))

-- Barriers --------------------------------------------------------------------------------------------------------------

/-- A barrier object after an event, by R252: where neither arrivals nor bytes are due the phase completes, and the carried
arrivals, if they are all that the next phase awaits, complete that one too. -/
def settledBar (b : Bar) : Bar :=
  if b.pend = 0 ∧ b.bytes = 0 then
    if 0 < b.carry ∧ b.exp = b.carry then { b with phase := (b.phase + 2) % 65536, carry := 0, pend := b.exp }
    else { b with phase := (b.phase + 1) % 65536, carry := 0, pend := (b.exp + 65536 - b.carry) % 65536 }
  else b

end Sys2Proof.Machine
end

