-- ==== Sys2Proof/Certificates/Slice0/Obligations.lean ====
section
/-! DEFINITION. The statements for the provers, in the order of OBLIGATIONS.json. -/

open Sys2Proof Sys2Proof.Machine

-- Words and steps -------------------------------------------------------------------------------------------------------

/-- R46, R49, R60 to R68: every well-formed instruction has a word, and its word decodes to it with every operand. An
event has none. -/
def Obligations.DecodeEncode : Prop :=
  ∀ i : Instr,
    (i.isEvent = true → encode i = none) ∧
    (i.isEvent = false → i.wf = true → ∃ w, encode i = some w ∧ decode w = .ok i ∧ decodeTableWord 32 w.toNat = some i)

/-- R46, R49, R60 to R68: a word that decodes is the word of its instruction: no bit of it is ignored, and no two words
stand for one instruction. -/
def Obligations.EncodeDecode : Prop :=
  ∀ (w : W32) (i : Instr), decode w = .ok i → encode i = some w ∧ i.isEvent = false

/-- R46, R53, R62 to R66: words written out from the encoding. The all-zero word is ZTRAP; a major without a name and a
function that is not assigned are illegal opcodes, an unused field that does not hold 125 an illegal operand. -/
def Obligations.WrittenWords : Prop :=
  decode 0b000000_00000_0000000_0000000_0000000#32 = .ok (.ztrap 0) ∧
  decode 0b000000_00001_1111101_1111101_1111101#32 = .ok .nop ∧
  decode 0b000000_00100_1111101_0000010_1100001#32 = .ok (.srd 2 97) ∧
  decode 0b000100_00000_0000011_0000010_0000001#32 = .ok (.iadd 0 3 2 1) ∧
  decode 0b001001_111111111111_1100000_1100001#32 = .ok (.iaddi 0xFFF 96 97) ∧
  decode 0b011100_11111111111111111111111110#32 = .ok (.bra 0x3FFFFFE) ∧
  decode 0b101001_000000001000_1100000_1100010#32 = .ok (.ldd 8 96 98) ∧
  decode 0b111000_00011_1100001_1100000_1100010#32 = .ok (.bwait 97 96 98) ∧
  decode 0b111111_00000_0000000_0000000_0000000#32 = .error .illegalOpcode ∧
  decode 0b000000_01101_1111101_1111101_1111101#32 = .error .illegalOpcode ∧
  decode 0b000000_00001_1111101_1111101_1111100#32 = .error .illegalOperand

/-- R29, R44, R46, R47, R259, R297, R428: a step whose turn is a unit's, where the first part that may issue has a word
that decodes, is that instruction, and the end of a step. A word that does not decode traps, after the deferred traps it is
the trap point of; a fetch that fails decides; a part whose instruction does not issue yet lets the next one go; a part whose
wait has ended wakes first, and completes the instruction that waited. A fetch reads the four bytes at the program counter.
Whose turn it is is the model's agenda (log 3). Readings of the model: logs 3 and 50. -/
def Obligations.StepRunsDecoded : Prop :=
  (∀ (s : State) (c u : Nat) (rest : List Turn) (k part : Nat) (a : Agent) (others : List (Nat × Agent × Nat)),
    let s₀ : State := { s with agenda := rest }
    let all := (s₀.core c).unitAgents u
    let p := s₀.prepare c all k a part
    s.agenda = .issue c u :: rest → s₀.wakeUnit c u = none → (s.core c).pre ≠ .forced → (s.core c).pre ≠ .saved →
    (all.flatMap fun q => q.2.candidates.map fun n => (q.1, q.2, n)) = (k, a, part) :: others →
      (p.me.wdPending = true →
        step s = .next (((p.modMe fun b => { b with wdPending := false }).trap 0x11 0).endStep)) ∧
      (p.me.wdPending = false →
        (∀ t, p.wordOf = .error t → step s = .next t.endStep) ∧
        ∀ q, p.wordOf = .ok q →
          let w := q.cur.word
          (∀ e t, decode w = .error e → q.takeDeferred (q.me.wordTakes q.cur.part w) = some t → step s = .next t.endStep) ∧
          (q.takeDeferred (q.me.wordTakes q.cur.part w) = none →
            (decode w = .error .illegalOpcode → step s = .next q.illegalOpcode.endStep) ∧
            (decode w = .error .illegalOperand →
              step s = .next (if roleBars q.me.role w then q.roleViolation else q.illegalOperand).endStep)) ∧
          (∀ i t, decode w = .ok i → exec i q = .next t → t ≠ q → step s = .next t.endStep) ∧
          (∀ i, decode w = .ok i → exec i q = .next q → others = [] → step s = .next s₀.endStep))) ∧
  (∀ s : State,
    (∀ l, s.myPart.latch = some l →
      s.wordOf = .ok { s with cur := { s.cur with word := l.word, len := l.len, pre := l.pre } }) ∧
    (s.myPart.latch = none →
      (∀ w, s.fetch s.pc none = .ok w → s.wordOf = .ok { s with cur := { s.cur with word := w } }) ∧
      ∀ t, s.fetch s.pc none = .error t → s.wordOf = .error t)) ∧
  (∀ (s : State) (c u k part : Nat) (rest : List Turn) (a : Agent),
    s.agenda = .issue c u :: rest → (k, a) ∈ (s.core c).agents → unitOf k = u →
    (∀ j b, (j, b) ∈ (s.core c).agents → unitOf j = u → j ≠ k → ({ s with agenda := rest } : State).wakeable c j b = []) →
    (({ s with agenda := rest } : State).wakeable c k a).head? = some part → (s.core c).agents.Pairwise (fun x y => x.1 < y.1) →
    ∃ t, exec (.partWake c k part) { s with agenda := rest } = .next t ∧ step s = .next t.endStep) ∧
  ∀ (s : State) (va : W64) (known : Option W32) (ia : Nat),
    let c := s.cur.core
    s.place c .x va 4 = some (.mem ia) → ia % 4 = 0 →
    (s.hit c s.myCtx (ia / 128) = true ∨ s.nak s.myCtx ia false = none) → s.readBad c s.myCtx 1 ia 4 true = false →
    ∃ w : W32, s.fetch va known = .ok w ∧ ∀ n, n < 4 → BitVec.ofNat 8 (w.toNat / 256 ^ n) = s.seen c (ia + n)

/-- A step whose turn is an event's is that event, and the end of a step; one whose numbers name nothing has no effect.
With an empty agenda the event due longest takes its turn, and where no unit acts either only time passes. The agenda is
the model's (log 3). -/
def Obligations.StepRunsEvents : Prop :=
  ∀ (s : State) (e : Instr),
    (∀ rest t, s.agenda = .event e :: rest → e.isEvent = true → e.wf = true →
      exec e { s with agenda := rest } = .next t → step s = .next t.endStep) ∧
    (∀ rest, s.agenda = .event e :: rest → (e.isEvent = false ∨ e.wf = false) →
      step s = .next ({ s with agenda := rest } : State).endStep) ∧
    (∀ rest t, s.agenda = [] → s.turnEv = true → s.pending = e :: rest → e.isEvent = true → e.wf = true →
      exec e { s with pending := rest, turnEv := false } = .next t → step s = .next t.endStep) ∧
    (s.agenda = [] → s.pending = [] → (∀ c x, (c, x) ∈ s.cores → x.agents = []) → step s = .next s.endStep)

/-- Every instruction and every step has an outcome, which is a next state: nothing stops the machine. Where an NCLK ends with
the step, no event that was found in it waits for its number any longer; else the events found wait (R447). That a step may
end no NCLK, or several, is the model's choice (log 2). -/
def Obligations.StepAnswers : Prop :=
  (∀ (i : Instr) (s : State), ∃ t, exec i s = .next t) ∧
  ∀ s : State, ∃ u t, s.turn = .next u ∧ step s = .next t ∧
    let p := u.plansEnd
    if p.cycle / 2 < (p.cycle + Config.cclkOf p.tick) / 2 then
      t.found = (p.found.filter fun f => f.later).map fun f => { f with later := false }
    else t.found = p.found ∧ t.nextEvent = p.nextEvent ∧ t.dies = p.dies

/-- R14, R23, R249, R393, R396, R453, R459: what reset leaves, where the spec states it: the pool boundaries, no vault
steps, cluster barriers of zero with no owner, contexts free with no valid window, the trace registers, the time base
unsynchronised at 0. That nothing is resident, that no memory is listed and reads as zero, and that no plan, sweep,
handle or event stands are the model's choices (logs 5, 15). The invariant holds. -/
def Obligations.ResetState : Prop :=
  let s := State.reset
  (∀ c, (s.core c).regTop = 24 ∧ (s.core c).scrTop = 64 ∧ (s.core c).xchTop = 64 ∧ (s.core c).agents = [] ∧
    (s.core c).pool = [] ∧ (s.core c).emptyLines = []) ∧
  (∀ u, (s.cluster u).bars = [] ∧ (s.cluster u).own = []) ∧
  (∀ d, (s.die d).vaultSteps = 0 ∧ (s.die d).trBase = 0 ∧ (s.die d).trLog2 = 20 ∧ (s.die d).trMask = 0x7F ∧
    (s.die d).trEn = false ∧ (s.die d).trWr = 0 ∧ (s.die d).trRd = 0 ∧ (s.die d).trDropped = 0) ∧
  (∀ x, (s.ctx x).st = .free ∧ (s.ctx x).part = 0 ∧ (s.ctx x).hostMap = false ∧
    ∀ va need, (s.ctx x).translate need va = none) ∧
  s.ptp.st = .unsync ∧ s.now = 0 ∧ s.cycle = 0 ∧ (∀ h, s.mem.get h = 0 ∧ s.dram.get h = 0) ∧
  (∀ n, (s.hrt.getD n {}).st = .free) ∧ s.plans = [] ∧ s.sweeps = [] ∧ s.pending = [] ∧ s.agenda = [] ∧
  s.Inv

/-- What every step keeps: memory and the array beyond the caches in the model's canonical form (log 5), a power limit
and a device number the spec allows (R1, R40). -/
def Obligations.StepKeepsInv : Prop :=
  ∀ s t : State, s.Inv → step s = .next t → t.Inv

-- Register instructions -------------------------------------------------------------------------------------------------

/-- R103, R106, R107: every function of IALU32 and IALU64 gives its result, and changes nothing else. -/
def Obligations.IntegerResults : Prop :=
  ∀ (w : BitVec 1) (b a d : Reg) (m : BitVec 2),
    let n := wide w
    let two := fun (i : Instr) (f : Nat → Nat → Nat) => AluDoes i d n [(a, n), (b, n)] (fun _ => true) fun _ => iop2 f
    let one := fun (i : Instr) (f : Nat → Nat) => AluDoes i d n [(a, n)] (fun _ => true) fun _ => iop1 f
    two (.iadd w b a d) (opAdd n) ∧ two (.isub w b a d) (opSub n) ∧ two (.imul w b a d) (opMul n) ∧
    two (.imulhs w b a d) (opMulhS n) ∧ two (.imulhn w b a d) (opMulhN n) ∧
    two (.imins w b a d) (opMinS n) ∧ two (.iminn w b a d) min ∧
    two (.imaxs w b a d) (opMaxS n) ∧ two (.imaxn w b a d) max ∧
    one (.iabs w a d) (opAbs n) ∧ one (.ineg w a d) (opNeg n) ∧
    two (.and w b a d) Nat.land ∧ two (.or w b a d) Nat.lor ∧ two (.xor w b a d) Nat.xor ∧
    two (.andn w b a d) (opAndn n) ∧
    two (.shl w b a d) (opShl n) ∧ two (.shr w b a d) (opShr n) ∧ two (.sra w b a d) (opSra n) ∧
    two (.rotl w b a d) (opRotl n) ∧
    one (.popc w a d) (opPopc n) ∧ one (.clz w a d) (opClz n) ∧ one (.brev w a d) (opBrev n) ∧
    two (.iaddss w b a d) (fun x y => clampS n (sInt n x + sInt n y)) ∧
    two (.iaddsn w b a d) (fun x y => clampN n ((x : Int) + y)) ∧
    two (.isubss w b a d) (fun x y => clampS n (sInt n x - sInt n y)) ∧
    two (.isubsn w b a d) (fun x y => clampN n ((x : Int) - y)) ∧
    one (.mov w a d) id ∧
    AluDoes (.imad w b a d) d n [(a, n), (b, n), (d, n)] (fun _ => true)
      (fun _ _ vs => ((vs.getD 2 0 + vs.getD 0 0 * vs.getD 1 0) % 2 ^ n, 0)) ∧
    AluDoes (.sel w m b a d) d n [(a, n), (b, n)] (fun s => !(decide (s.me.role = .copy)))
      (fun s l vs => (if (if isVec d then (s.me.mget m.toNat).getLsbD l else s.me.mget m.toNat &&& s.em != 0)
        then vs.getD 0 0 else vs.getD 1 0, 0))

/-- R64, R106, R113, R127, R234, R236: what the integer results, the conditions and the functions of the atomic
operations are, in the arithmetic of bit vectors; a floating-point condition of a NaN. -/
def Obligations.IntegerArithmetic : Prop :=
  (∀ w a b : Nat, (w = 32 ∨ w = 64) → a < 2 ^ w → b < 2 ^ w →
     let x := BitVec.ofNat w a
     let y := BitVec.ofNat w b
     opAdd w a b = (x + y).toNat ∧ opSub w a b = (x - y).toNat ∧ opMul w a b = (x * y).toNat ∧
     opMulhS w a b = ((x.signExtend (2 * w) * y.signExtend (2 * w)).extractLsb' w w).toNat ∧
     opMulhN w a b = ((x.setWidth (2 * w) * y.setWidth (2 * w)).extractLsb' w w).toNat ∧
     opMinS w a b = (if y.slt x then y else x).toNat ∧ opMaxS w a b = (if x.slt y then y else x).toNat ∧
     opAbs w a = (if x.msb then -x else x).toNat ∧ opNeg w a = (-x).toNat ∧
     opAndn w a b = (x &&& ~~~y).toNat ∧
     opShl w a b = (x <<< b).toNat ∧ opShr w a b = (x >>> b).toNat ∧ opSra w a b = (x.sshiftRight b).toNat ∧
     opRotl w a b = (x.rotateLeft b).toNat ∧
     opPopc w a = ((List.range w).filter fun i => x.getLsbD i).length ∧
     opClz w a = ((List.range w).takeWhile fun i => !(x.getMsbD i)).length ∧
     opBrev w a = x.reverse.toNat ∧
     sInt w a = x.toInt ∧
     clampS w (x.toInt + y.toInt) = (if x.saddOverflow y then (if x.msb then BitVec.intMin w else BitVec.intMax w) else x + y).toNat ∧
     clampN w ((a : Int) + b) = min (a + b) (2 ^ w - 1) ∧
     clampS w (x.toInt - y.toInt) = (if x.ssubOverflow y then (if x.msb then BitVec.intMin w else BitVec.intMax w) else x - y).toNat ∧
     clampN w ((a : Int) - b) = a - b) ∧
  ((∀ w a b, (w = 32 ∨ w = 64) → a < 2 ^ w → b < 2 ^ w →
     let x := BitVec.ofNat w a
     let y := BitVec.ofNat w b
     icond 0 w a b = (x == y) ∧ icond 1 w a b = (x != y) ∧ icond 2 w a b = x.slt y ∧ icond 3 w a b = x.sle y ∧
     icond 4 w a b = x.ult y ∧ icond 5 w a b = x.ule y ∧ icond 6 w a b = ((x &&& y) != 0) ∧ icond 7 w a b = y.slt x ∧
     icond 8 w a b = y.sle x ∧ icond 9 w a b = y.ult x ∧ icond 10 w a b = y.ule x) ∧
   ∀ (f : Fmt) (a b : Nat), (f.decode a).isNan = true ∨ (f.decode b).isNan = true →
     fcond f 0 a b = false ∧ fcond f 1 a b = true ∧ fcond f 2 a b = false ∧ fcond f 3 a b = false ∧ fcond f 4 a b = true ∧
     fcond f 5 a b = false) ∧
  (∀ w x v v2 : Nat, (w = 32 ∨ w = 64) → x < 2 ^ w → v < 2 ^ w →
     let a := BitVec.ofNat w x
     let b := BitVec.ofNat w v
     let f : Fmt := if w = 32 then .f32 else .f64
     atomNew 0 w x v v2 = (a + b).toNat ∧ atomNew 1 w x v v2 = (if b.slt a then b else a).toNat ∧
     atomNew 2 w x v v2 = (if b.ult a then b else a).toNat ∧ atomNew 3 w x v v2 = (if a.slt b then b else a).toNat ∧
     atomNew 4 w x v v2 = (if a.ult b then b else a).toNat ∧ atomNew 5 w x v v2 = (a &&& b).toNat ∧
     atomNew 6 w x v v2 = (a ||| b).toNat ∧ atomNew 7 w x v v2 = (a ^^^ b).toNat ∧ atomNew 8 w x v v2 = v ∧
     atomNew 9 w x v v2 = (if x = v then v2 else x) ∧ atomNew 10 w x v v2 = (f.addOp .rne x v).1 ∧
     atomNew 11 w x v v2 = f.fmin x v ∧ atomNew 12 w x v v2 = f.fmax x v ∧
     (List.range 11).map redFn = [0, 1, 2, 3, 4, 5, 6, 7, 10, 11, 12])

/-- R109 to R112: the immediate forms. The width is 64 for a scalar destination and 32 per lane; the immediate is the
sign-extended field, joined with a LIMM where one is in force. -/
def Obligations.ImmediateResults : Prop :=
  ∀ (i : BitVec 12) (j : BitVec 7) (l p n : BitVec 6) (w : BitVec 1) (a d : Reg),
    let k := immWidth d
    let imm := fun (x : Instr) (f : Nat → Nat → Nat) =>
      AluDoes x d k [(a, k)] (fun _ => true) fun s => iop1 fun x => f x ((s.imm i).toNat % 2 ^ k)
    let sh := fun (x : Instr) (f : Nat → Nat → Nat) =>
      AluDoes x d (wide w) [(a, wide w)] (fun _ => shiftOk w n) fun _ => iop1 fun x => f x n.toNat
    let hi := 2 ^ (l.toNat + 1)
    let lo := 2 ^ p.toNat
    imm (.iaddi i a d) (opAdd k) ∧ imm (.andi i a d) Nat.land ∧ imm (.ori i a d) Nat.lor ∧ imm (.xori i a d) Nat.xor ∧
    sh (.shfiShl w n a d) (opShl (wide w)) ∧ sh (.shfiShr w n a d) (opShr (wide w)) ∧
    sh (.shfiSra w n a d) (opSra (wide w)) ∧ sh (.shfiRotl w n a d) (opRotl (wide w)) ∧
    AluDoes (.movi i j d) d k [] (fun _ => true) (fun _ _ _ => (((i ++ j).signExtend 64).toNat % 2 ^ k, 0)) ∧
    AluDoes (.bfxi l p a d) d k [(a, k)] (fun _ => bitFieldOk d l p) (fun _ => iop1 fun x => x / lo % hi) ∧
    AluDoes (.bfii l p a d) d k [(a, k), (d, k)] (fun _ => bitFieldOk d l p) (fun _ _ vs =>
      (vs.getD 1 0 - vs.getD 1 0 / lo % hi * lo + vs.getD 0 0 % hi * lo, 0))

/-- R64, R113, R114, R127: compares, with a mask or a register destination. -/
def Obligations.CompareResults : Prop :=
  ∀ (w : BitVec 1) (b a d : Reg) (i : BitVec 12) (c : BitVec 4) (m : BitVec 3),
    let n := wide w
    let cmp := fun (x : BitVec 1 → Instr) (f : Nat → Nat → Bool) =>
      CmpDoes (x 0#1) d.toNat [(a, n), (b, n)] true (fun _ vs => f (vs.getD 0 0) (vs.getD 1 0)) ∧
      AluDoes (x 1#1) d 32 [(a, n), (b, n)] (fun _ => true)
        (fun _ _ vs => (if f (vs.getD 0 0) (vs.getD 1 0) then 1 else 0, 0))
    let fmt : Fmt := if w = 0#1 then .f32 else .f64
    let k := if isSz a then 64 else 32
    cmp (fun k => .icmpEq k w b a d) (fun x y => x == y) ∧ cmp (fun k => .icmpNe k w b a d) (fun x y => x != y) ∧
    cmp (fun k => .icmpLtS k w b a d) (fun x y => decide (sInt n x < sInt n y)) ∧
    cmp (fun k => .icmpLeS k w b a d) (fun x y => decide (sInt n x ≤ sInt n y)) ∧
    cmp (fun k => .icmpLtN k w b a d) (fun x y => decide (x < y)) ∧
    cmp (fun k => .icmpLeN k w b a d) (fun x y => decide (x ≤ y)) ∧
    cmp (fun k => .icmpTst k w b a d) (fun x y => Nat.land x y != 0) ∧
    CmpDoes (.icmpi i a c m) m.toNat [(a, k)] (decide (c.toNat < 11))
      (fun s vs => icond c.toNat k (vs.getD 0 0) ((s.imm i).toNat % 2 ^ k)) ∧
    cmp (fun k => .fcmpEq k w b a d) (fcond fmt 0) ∧ cmp (fun k => .fcmpNe k w b a d) (fcond fmt 1) ∧
    cmp (fun k => .fcmpLt k w b a d) (fcond fmt 2) ∧ cmp (fun k => .fcmpLe k w b a d) (fcond fmt 3) ∧
    cmp (fun k => .fcmpUnord k w b a d) (fcond fmt 4) ∧ cmp (fun k => .fcmpOrd k w b a d) (fcond fmt 5)

/-- R122 to R132: floating-point instructions, under the agent's rounding mode. The functions of FSFU are the model's,
computed near enough to be rounded correctly (log 8). -/
def Obligations.FloatResults : Prop :=
  ∀ (t : BitVec 3) (h : BitVec 1) (b a d : Reg), t.toNat < 4 →
    let one := fun (i : Instr) (f : RMode → Nat → Nat × FFlags) =>
      AluDoes i d 32 [(a, 32)] (fun _ => true) fun s => fop1 (f s.mode)
    let two := fun (i : Instr) (n : Nat) (f : RMode → Nat → Nat → Nat × FFlags) =>
      AluDoes i d n [(a, n), (b, n)] (fun _ => true) fun s => fop2 (f s.mode)
    let quiet := fun (f : Nat → Nat → Nat) (_ : RMode) (x y : Nat) => ((f x y, 0) : Nat × FFlags)
    let pairs := fun (f : Fmt → RMode → Nat → Nat → Nat × FFlags) (m : RMode) (x y : Nat) =>
      halves fun k => f (if h = 0#1 then .f16 else .bf16) m (half x k) (half y k)
    let n := if t = 1#3 then 64 else 32
    let fma := fun (i : Instr) (negP negD : Bool) =>
      AluDoes i d n [(a, n), (b, n), (d, n)] (fun _ => true) fun s _ vs =>
        let x := vs.getD 0 0
        let y := vs.getD 1 0
        let z := vs.getD 2 0
        if t = 0#3 then Fmt.f32.fmaOp s.mode negP negD x y z
        else if t = 1#3 then Fmt.f64.fmaOp s.mode negP negD x y z
        else halves fun k =>
          Fmt.fmaOp (if t = 2#3 then .f16 else .bf16) s.mode negP negD (half x k) (half y k) (half z k)
    two (.fadd b a d) 32 Fmt.f32.addOp ∧ two (.fsub b a d) 32 Fmt.f32.subOp ∧ two (.fmul b a d) 32 Fmt.f32.mulOp ∧
    two (.fmin b a d) 32 (quiet Fmt.f32.fmin) ∧ two (.fmax b a d) 32 (quiet Fmt.f32.fmax) ∧
    two (.fminm b a d) 32 (quiet Fmt.f32.fminm) ∧ two (.fmaxm b a d) 32 (quiet Fmt.f32.fmaxm) ∧
    one (.fabs a d) (fun _ x => (if (Fmt.f32.decode x).isNan then 0x7FC00000 else x % 2 ^ 31, 0)) ∧
    one (.fneg a d) (fun _ x => (if (Fmt.f32.decode x).isNan then 0x7FC00000 else (x + 2 ^ 31) % 2 ^ 32, 0)) ∧
    two (.fcpys b a d) 32 (fun _ x y =>
      (if (Fmt.f32.decode x).isNan then 0x7FC00000 else x % 2 ^ 31 + y / 2 ^ 31 * 2 ^ 31, 0)) ∧
    one (.ffloor a d) (fun _ x => ((integralF32 .rd x).1, 0)) ∧ one (.fceil a d) (fun _ x => ((integralF32 .ru x).1, 0)) ∧
    one (.ftrunc a d) (fun _ x => ((integralF32 .rz x).1, 0)) ∧
    one (.frint a d) (fun m x => ((integralF32 m x).1, if (integralF32 m x).2 then 1 else 0)) ∧
    one (.fclass a d) (fun _ x => (fclassF32 x, 0)) ∧
    fma (.fma t b a d) false false ∧ fma (.fms t b a d) false true ∧
    fma (.nfma t b a d) true false ∧ fma (.nfms t b a d) true true ∧
    one (.frcp a d) (fsfuOp frcpVal) ∧ one (.frsq a d) (fsfuOp frsqVal) ∧ one (.fsqrt a d) (fsfuOp fsqrtVal) ∧
    one (.fex2 a d) (fsfuOp fex2Val) ∧ one (.flg2 a d) (fsfuOp flg2Val) ∧ one (.fsinp a d) (fsfuOp fsinpVal) ∧
    one (.fcosp a d) (fsfuOp fcospVal) ∧ one (.ftanh a d) (fsfuOp ftanhVal) ∧ two (.fdiv b a d) 32 Fmt.f32.divOp ∧
    two (.hadd2 h b a d) 32 (pairs Fmt.addOp) ∧ two (.hsub2 h b a d) 32 (pairs Fmt.subOp) ∧
    two (.hmul2 h b a d) 32 (pairs Fmt.mulOp) ∧
    two (.hmin2 h b a d) 32 (pairs fun f => quiet f.fmin) ∧ two (.hmax2 h b a d) 32 (pairs fun f => quiet f.fmax) ∧
    two (.dadd b a d) 64 Fmt.f64.addOp ∧ two (.dsub b a d) 64 Fmt.f64.subOp ∧ two (.dmul b a d) 64 Fmt.f64.mulOp ∧
    two (.dmin b a d) 64 (quiet Fmt.f64.fmin) ∧ two (.dmax b a d) 64 (quiet Fmt.f64.fmax) ∧
    two (.ddiv b a d) 64 Fmt.f64.divOp

/-- R78, R120, R123, R126: NaNs. An arithmetic result of a NaN is the canonical NaN, without a flag, but that an
infinity times a zero raises invalid even where the addend is a NaN; a minimum or maximum of one NaN is the other
operand. R95: narrow codes and E8M0 convert to FP32 exactly, NaNs to the canonical NaN. -/
def Obligations.NanRules : Prop :=
  (∀ (f : Fmt) (m : RMode) (p q : Bool) (a b c : Nat), (f = .f16 ∨ f = .bf16 ∨ f = .f32 ∨ f = .f64) →
     ((f.decode a).isNan = true →
       f.addOp m a b = (f.nanCode, 0) ∧ f.addOp m b a = (f.nanCode, 0) ∧ f.subOp m a b = (f.nanCode, 0) ∧
       f.subOp m b a = (f.nanCode, 0) ∧ f.mulOp m a b = (f.nanCode, 0) ∧ f.mulOp m b a = (f.nanCode, 0) ∧
       f.divOp m a b = (f.nanCode, 0) ∧ f.divOp m b a = (f.nanCode, 0) ∧
       f.fmaOp m p q a b c = (f.nanCode, 0) ∧ f.fmaOp m p q b a c = (f.nanCode, 0) ∧ (f.fmaOp m p q b c a).1 = f.nanCode) ∧
     (∀ n k e, f.decode a = .inf n → f.decode b = .fin k 0 e →
       f.fmaOp m p q a b c = (f.nanCode, 0b10000#5) ∧ f.fmaOp m p q b a c = (f.nanCode, 0b10000#5)) ∧
     ((f.decode a).isNan = true → (f.decode b).isNan = false →
       f.fmin a b = b ∧ f.fmin b a = b ∧ f.fmax a b = b ∧ f.fmax b a = b) ∧
     ((f.decode a).isNan = true → (f.decode b).isNan = true → f.fmin a b = f.nanCode ∧ f.fmax a b = f.nanCode)) ∧
  (∀ (f : Fmt) (c : Nat), (f = .e4m3 ∨ f = .e5m2 ∨ f = .e2m3 ∨ f = .e3m2 ∨ f = .e2m1 ∨ f = .e8m0 ∨ f = .f16 ∨ f = .bf16) →
     c < 2 ^ f.width →
     match f.decode c with
     | .nan => f.widen .f32 c = 0x7FC00000
     | .inf n => f.widen .f32 c = if n then 0xFF800000 else 0x7F800000
     | .fin n m e => (Fmt.round .f32 .rne false (.fin n m e)).2 = 0 ∧
         ∃ m' e', Fmt.f32.decode (f.widen .f32 c) = .fin n m' e' ∧
           (if e ≤ e' then m = m' * 2 ^ (e' - e).toNat else m' = m * 2 ^ (e - e').toNat))

/-- R95, R133 to R136: conversions. -/
def Obligations.ConversionResults : Prop :=
  ∀ (sr sat : BitVec 1) (rm : BitVec 2) (a d : Reg),
    let mode := fun (s : State) (l h : Nat) =>
      if sr = 0#1 then RMode.ofBits rm
      else .sr (ckg s.me.ckey (BitVec.ofNat 32 (s.cur.core * 512 + s.me.wg * 64 + s.me.index)) (BitVec.ofNat 32 (l * 2 + h)))
    let narrow := fun (i : Instr) (f : Fmt) => AluDoes i d 32 [(a, 32)] (fun _ => cvtOk sr rm) fun s l vs =>
      f.round (mode s l 0) (sat == 1#1) (Fmt.f32.decode (vs.getD 0 0))
    let pack := fun (i : Instr) (f : Fmt) => AluDoes i d 32 [(a, 64)] (fun _ => cvtOk sr rm) fun s l vs =>
      let r := fun h => f.round (mode s l h) (sat == 1#1) (Fmt.f32.decode (vs.getD 0 0 / 2 ^ (32 * h) % 2 ^ 32))
      ((r 0).1 + (r 1).1 * 65536, (r 0).2 ||| (r 1).2)
    let unpack := fun (i : Instr) (f : Fmt) => AluDoes i d 64 [(a, 32)] (fun _ => true) fun _ _ vs =>
      (f.widen .f32 (vs.getD 0 0 % 65536) + f.widen .f32 (vs.getD 0 0 / 65536 % 65536) * 2 ^ 32, 0)
    let widen := fun (i : Instr) (f : Fmt) => AluDoes i d 32 [(a, 32)] (fun _ => true) fun _ _ vs =>
      (f.widen .f32 (vs.getD 0 0 % 2 ^ f.width), 0)
    let toInt := fun (i : Instr) (f : Fmt) (n w : Nat) (sg : Bool) => AluDoes i d w [(a, n)] (fun _ => true) fun _ _ vs =>
      toInteger sg w (RMode.ofBits rm) (f.decode (vs.getD 0 0))
    let ofInt := fun (i : Instr) (f : Fmt) (w : Nat) (sg : Bool) => AluDoes i d w [(a, w)] (fun _ => true) fun _ _ vs =>
      f.round (RMode.ofBits rm) false (intVal sg w (vs.getD 0 0))
    narrow (.cvtF32E4m3 sr sat rm a d) .e4m3 ∧ narrow (.cvtF32E5m2 sr sat rm a d) .e5m2 ∧
    narrow (.cvtF32E2m3 sr sat rm a d) .e2m3 ∧ narrow (.cvtF32E3m2 sr sat rm a d) .e3m2 ∧
    narrow (.cvtF32E2m1 sr sat rm a d) .e2m1 ∧ narrow (.cvtF32E8m0 sr sat rm a d) .e8m0 ∧
    pack (.cvtF32F16 sr sat rm a d) .f16 ∧ pack (.cvtF32Bf16 sr sat rm a d) .bf16 ∧
    unpack (.cvtF16F32 a d) .f16 ∧ unpack (.cvtBf16F32 a d) .bf16 ∧
    widen (.cvtE4m3F32 a d) .e4m3 ∧ widen (.cvtE5m2F32 a d) .e5m2 ∧ widen (.cvtE2m3F32 a d) .e2m3 ∧
    widen (.cvtE3m2F32 a d) .e3m2 ∧ widen (.cvtE2m1F32 a d) .e2m1 ∧ widen (.cvtE8m0F32 a d) .e8m0 ∧
    toInt (.cvtF32S32 rm a d) .f32 32 32 true ∧ toInt (.cvtF32N32 rm a d) .f32 32 32 false ∧
    toInt (.cvtF64S64 rm a d) .f64 64 64 true ∧ toInt (.cvtF32S64 rm a d) .f32 32 64 true ∧
    ofInt (.cvtS32F32 rm a d) .f32 32 true ∧ ofInt (.cvtN32F32 rm a d) .f32 32 false ∧ ofInt (.cvtS64F64 rm a d) .f64 64 true ∧
    AluDoes (.cvtF32F64 a d) d 64 [(a, 32)] (fun _ => true) (fun _ _ vs => (Fmt.f32.widen .f64 (vs.getD 0 0), 0)) ∧
    AluDoes (.cvtF64F32 sat rm a d) d 32 [(a, 64)] (fun _ => true) (fun _ _ vs =>
      Fmt.f32.round (RMode.ofBits rm) (sat == 1#1) (Fmt.f64.decode (vs.getD 0 0))) ∧
    AluDoes (.cvtS32S8 a d) d 32 [(a, 32)] (fun _ => true) (fun _ _ vs =>
      ((max (-128) (min (sInt 32 (vs.getD 0 0)) 127) % (2 ^ 32 : Int)).toNat, 0))

-- Masks and waves -------------------------------------------------------------------------------------------------------

/-- R115 to R117: the MASK group. -/
def Obligations.MaskResults : Prop :=
  ∀ (b a d : Reg),
    let bit := fun (s : State) (r : Reg) (l : Nat) => (s.me.mget r.toNat).getLsbD l
    let two := fun (i : Instr) (f : Bool → Bool → Bool) => GroupDoes i [] [] (maskOk d && maskOk a && maskOk b)
      (WritesMask d State.em fun s l => f (bit s a l) (bit s b l))
    let one := fun (i : Instr) (f : Bool → Bool) => GroupDoes i [] [] (maskOk d && maskOk a)
      (WritesMask d State.em fun s l => f (bit s a l))
    let fixed := fun (i : Instr) (acts : State → BitVec 64) (f : State → Nat → Bool) =>
      GroupDoes i [] [] (maskOk d) (WritesMask d acts f)
    let scalar := fun (i : Instr) (f : State → W64) => GroupDoes i [] [(d, 64)] (isSz d && maskOk a) (WritesScalar d f)
    let active := fun (s : State) => (List.range 64).filter fun l => bit s a l && s.em.getLsbD l
    two (.mand b a d) (fun x y => x && y) ∧ two (.mor b a d) (fun x y => x || y) ∧ two (.mxor b a d) (fun x y => x ^^ y) ∧
    two (.mandn b a d) (fun x y => x && !y) ∧ one (.mnot a d) (fun x => !x) ∧ one (.mmov a d) (fun x => x) ∧
    fixed (.msave d) (fun s => s.myPart.lanes) (fun s l => s.em.getLsbD l) ∧
    fixed (.mset d) State.em (fun _ _ => true) ∧ fixed (.mclr d) State.em (fun _ _ => false) ∧
    scalar (.mpopc a d) (fun s => BitVec.ofNat 64 (active s).length) ∧
    scalar (.mffs a d) (fun s => BitVec.ofNat 64 ((active s).head?.getD 64)) ∧
    scalar (.mtos a d) (fun s => s.me.mget a.toNat) ∧
    GroupDoes (.mfrs a d) [(a, 64)] [] (maskOk d && isSz a) (fun s o =>
      ∃ t, o = .next t ∧ OnlyMe s t ∧ Passed s t ∧
        (∀ n, t.me.mget n = if n = d.toNat then s.sval a else s.me.mget n) ∧
        t.me = { s.me with m := t.me.m, parts := t.me.parts }) ∧
    GroupDoes (.mrest a) [] [] (maskOk a) (fun s o =>
      ∃ t, o = .next t ∧ OnlyMe s t ∧
        t.myPart = { s.myPart.goOn s.after_ with em := s.me.mget a.toNat &&& s.myPart.lanes } ∧
        (∀ k, k ≠ s.cur.part → t.me.parts.find? k = s.me.parts.find? k) ∧
        t.me = { s.me with parts := t.me.parts })

/-- R138 to R142: the WAVE group. An inactive lane of a q register delivers no element: what a shuffle or a broadcast
finds there is a free value (log 14). -/
def Obligations.WaveResults : Prop :=
  ∀ (b a d : Reg),
    let anyD := dstOk d 32 && waveSrcOk a
    let vecD := isVec d && waveSrcOk a
    let val := fun (s : State) (got : Pulled) (l : Nat) => s.laneVal got a l
    let act := fun (s : State) (got : Pulled) => (lanesOf s.em).map (val s got)
    let once := fun (rs : List Reg) => streamsOnce rs
    let red := fun (i : Instr) (f : State → Pulled → Nat) (fl : State → Pulled → FFlags) =>
      GroupDoes i [(a, 32)] [(d, 32)] (anyD && once [a]) (WritesWave [(a, 32)] d State.em (fun s got _ => f s got) fl)
    let filled := fun (ident : Nat) (s : State) (got : Pulled) =>
      (List.range 64).map fun l => if s.em.getLsbD l then val s got l else ident
    let fold := fun (none_ : Nat) (f : Nat → Nat → Nat) (s : State) (got : Pulled) =>
      match act s got with
      | [] => none_
      | v :: rest => rest.foldl f v
    let shfl := fun (i : Instr) (src : Nat → Nat → Int) =>
      GroupDoes i [(a, 32), (b, 32)] [(d, 32)] (vecD && (isSz b || waveSrcOk b) && once [a, b])
        (WritesWave [(a, 32), (b, 32)] d State.em
          (fun s got l => let k := src l (s.val got l (b, 32)); val s got (if 0 ≤ k ∧ k < 64 then k.toNat else l))
          fun _ _ => 0)
    red (.wredAddF32 a d) (fun s got => (tree addF32rne 6 (filled 0x80000000 s got)).1)
      (fun s got => (tree addF32rne 6 (filled 0x80000000 s got)).2) ∧
    red (.wredAddS32 a d) (fun s got => ((filled 0 s got).foldl (· + ·) 0) % 2 ^ 32) (fun _ _ => 0) ∧
    red (.wredMinS32 a d) (fold 0x7FFFFFFF fun x y => if sInt 32 y < sInt 32 x then y else x) (fun _ _ => 0) ∧
    red (.wredMaxS32 a d) (fold 0x80000000 fun x y => if sInt 32 x < sInt 32 y then y else x) (fun _ _ => 0) ∧
    red (.wredAnd a d) (fold 0xFFFFFFFF Nat.land) (fun _ _ => 0) ∧ red (.wredOr a d) (fold 0 Nat.lor) (fun _ _ => 0) ∧
    red (.wredMinF32 a d) (fun s got => match act s got with
      | [] => 0x7F800000
      | v :: rest => rest.foldl Fmt.f32.fmin (Fmt.f32.fmin v v)) (fun _ _ => 0) ∧
    red (.wredMaxF32 a d) (fun s got => match act s got with
      | [] => 0xFF800000
      | v :: rest => rest.foldl Fmt.f32.fmax (Fmt.f32.fmax v v)) (fun _ _ => 0) ∧
    GroupDoes (.wscanAddS32 a d) [(a, 32)] [(d, 32)] (vecD && once [a]) (WritesWave [(a, 32)] d State.em
      (fun s got l => ((filled 0 s got).take (l + 1)).foldl (· + ·) 0 % 2 ^ 32) fun _ _ => 0) ∧
    GroupDoes (.wscanAddF32 a d) [(a, 32)] [(d, 32)] (vecD && once [a]) (WritesWave [(a, 32)] d State.em
      (fun s got l =>
        (([1, 2, 4, 8, 16, 32].foldl (scanRound addF32rne) ((filled 0x80000000 s got).map fun x => (x, 0))).getD l (0, 0)).1)
      fun s got => (lanesOf s.em).foldl (fun g l =>
        g ||| (([1, 2, 4, 8, 16, 32].foldl (scanRound addF32rne) ((filled 0x80000000 s got).map fun x => (x, 0))).getD l (0, 0)).2) 0) ∧
    shfl (.shflIdx b a d) (fun _ x => ((x % 64 : Nat) : Int)) ∧ shfl (.shflUp b a d) (fun l x => (l : Int) - x) ∧
    shfl (.shflDown b a d) (fun l x => (l : Int) + x) ∧ shfl (.shflXor b a d) (fun l x => ((Nat.xor l (x % 64) : Nat) : Int)) ∧
    GroupDoes (.wbcast b a d) [(a, 32), (b, 64)] [(d, 32)] (vecD && isSz b && once [a, b])
      (WritesWave [(a, 32), (b, 64)] d State.em (fun s got _ => val s got ((s.sval b).toNat % 64)) fun _ _ => 0) ∧
    GroupDoes (.wgetl b a d) [(a, 32), (b, 64)] [(d, 64)] (isSz d && waveSrcOk a && isSz b && once [a, b])
      (WritesWave [(a, 32), (b, 64)] d State.em (fun s got _ => val s got ((s.sval b).toNat % 64)) fun _ _ => 0) ∧
    GroupDoes (.wsetl b a d) [(a, 64), (b, 64)] [(d, 32)] (isVec d && isSz a && isSz b)
      (WritesWave [(a, 64), (b, 64)] d (fun s => s.em &&& (1#64 <<< ((s.sval b).toNat % 64)))
        (fun s _ _ => (s.sval a).toNat) fun _ _ => 0) ∧
    GroupDoes (.wballot a d) [(a, 32)] [(d, 64)] (isSz d && waveSrcOk a && once [a]) (fun s o =>
      (∀ e, s.pullAll true [(a, 32)] = .error e → o = .next e) ∧
      ∀ u got, s.pullAll true [(a, 32)] = .ok (u, got) →
        WritesScalar d (fun u => maskOf ((lanesOf u.em).filter fun l => val u got l != 0)) u o) ∧
    GroupDoes (.wvoteAny a d) [] [(d, 64)] (isSz d && maskOk a) (WritesScalar d fun s =>
      if s.me.mget a.toNat &&& s.em = 0 then 0 else 1) ∧
    GroupDoes (.wvoteAll a d) [] [(d, 64)] (isSz d && maskOk a) (WritesScalar d fun s =>
      if s.me.mget a.toNat &&& s.em = s.em then 1 else 0)

-- Special registers, control flow, traps --------------------------------------------------------------------------------

/-- R32 to R34: what SRD reads, by number. In a copy context sr.gng and sr.slot read 0. The numbers without a field of
R32 read 0 here, though SRD refuses them. R32, R33, R303: SRD and SWR. -/
def Obligations.SpecialRegisterAccess : Prop :=
  (∀ s : State,
     let a := s.me
     let c := s.cur.core
     let copy := a.role = .copy
     s.special 0 = BitVec.ofNat 64 a.index ∧ s.special 1 = BitVec.ofNat 64 a.wg ∧ s.special 2 = BitVec.ofNat 64 c ∧
     s.special 3 = BitVec.ofNat 64 (c / 4) ∧ s.special 4 = BitVec.ofNat 64 (c / 32) ∧
     s.special 5 = BitVec.ofNat 64 s.devNum ∧
     (∀ pl st, (s.core c).run = .stage pl st → s.special 6 = BitVec.ofNat 64 st) ∧
     ((s.core c).run = .tasks → s.special 6 = 0) ∧
     (∀ x, (s.core c).ctx = some x → s.special 7 = BitVec.ofNat 64 x) ∧
     (∀ k x, k < 8 → a.lvl[k]? = some x → s.special (8 + k) = x.setWidth 64) ∧
     s.special 16 = (if copy then 0 else a.gng.setWidth 64) ∧ s.special 17 = BitVec.ofNat 64 a.wb ∧
     s.special 18 = a.frm.setWidth 64 ∧ s.special 19 = a.fflags.setWidth 64 ∧ s.special 20 = a.tcode.setWidth 64 ∧
     s.special 21 = a.epc ∧ s.special 22 = a.einfo ∧ s.special 23 = a.eaddr ∧ s.special 24 = a.fmask ∧
     s.special 25 = a.ckey ∧ s.special 26 = (if copy then 0 else BitVec.ofNat 64 a.slot) ∧
     s.special 27 = (match a.role with | .matrix => 0 | .vector => 1 | .copy => 2) ∧
     s.special 28 = BitVec.ofNat 64 ((a.parts.filter fun p => p.2.slot.isSome).length) ∧
     s.special 29 = a.twh.setWidth 64 ∧ s.special 30 = (s.core c).lr.param) ∧
  (∀ (a d : BitVec 7) (s : State),
     (s.interlock [] [(d, 64)] = .ok () →
       ((isSz d && decide (a.toNat < 32)) = false → exec (.srd a d) s = .next s.illegalOperand) ∧
       ((isSz d && decide (a.toNat < 32)) = true → WritesScalar d (fun s => s.special a.toNat) s (exec (.srd a d) s))) ∧
     (s.interlock [(a, 64)] [] = .ok () →
       let x := s.sval a
       let wrote := fun (b : Agent) => ∃ t, exec (.swr a d) s = .next t ∧ OnlyMe s t ∧ Passed s t ∧ t.me = { b with parts := t.me.parts }
       (d.toNat = 26 → s.me.role ≠ .matrix → exec (.swr a d) s = .next s.roleViolation) ∧
       (d.toNat ∉ [18, 19, 21, 25, 26, 29] → exec (.swr a d) s = .next s.illegalOperand) ∧
       (isSz a = false → (d.toNat = 26 → s.me.role = .matrix) → exec (.swr a d) s = .next s.illegalOperand) ∧
       (isSz a = true →
         (d.toNat = 18 → wrote { s.me with frm := x.setWidth 2 }) ∧ (d.toNat = 19 → wrote { s.me with fflags := x.setWidth 5 }) ∧
         (d.toNat = 21 → wrote { s.me with epc := x }) ∧ (d.toNat = 25 → wrote { s.me with ckey := x }) ∧
         (d.toNat = 29 → wrote { s.me with twh := x.setWidth 16 }) ∧
         (d.toNat = 26 → s.me.role = .matrix →
           (s.me.slots = 0 ∨ x.toNat % 16 + s.me.slots ≤ s.myCore.lr.slotTotal → wrote { s.me with slot := x.toNat % 16 }) ∧
           (¬(s.me.slots = 0 ∨ x.toNat % 16 + s.me.slots ≤ s.myCore.lr.slotTotal) →
             exec (.swr a d) s = .next s.illegalOperand)))))

/-- R304: WINB. A value that is no multiple of 32, or that leaves no 96 registers, takes WINDOW_RANGE and changes no
window; a vector register read after it, by any split of the wave, is the physical register at the new base. In a copy
context, and where A is no scalar, it takes ILLEGAL_OPERAND. -/
def Obligations.WindowMoves : Prop :=
  ∀ (a : BitVec 7) (s : State), s.interlock [(a, 64)] [] = .ok () →
    let x := s.sval a
    (isSz a = false ∨ s.me.role = .copy → exec (.winb a) s = .next s.illegalOperand) ∧
    (isSz a = true → s.me.role ≠ .copy →
      (¬(x.toNat % 32 = 0 ∧ x.toNat + 96 ≤ s.me.vregs) → exec (.winb a) s = .next (s.trap 0x0D x) ∧
        ∀ b, (s.trap 0x0D x).agent? s.cur.core s.cur.agent = some b → b.wb = s.me.wb) ∧
      (x.toNat % 32 = 0 → x.toNat + 96 ≤ s.me.vregs →
        ∃ t, exec (.winb a) s = .next t ∧ OnlyMe s t ∧ Passed s t ∧
          t.me = { s.me with wb := x.toNat, parts := t.me.parts } ∧
          ∀ n l, t.me.vget n l = s.me.v.get ((x.toNat + n) * 64 + l)))

/-- R223, R300, R305, R306, R455 to R457: the other instructions of MISC, SAFEPT and WAITC. A task has no stage: what
ERD's selector 6 gives there is a free value (log 17). Readings of the model: logs 17 and 30. -/
def Obligations.MiscResults : Prop :=
  ∀ (a d : BitVec 7) (n : BitVec 12) (ld st eng xc : BitVec 3) (s : State),
    Goes s (s.pc + BitVec.ofNat 64 s.cur.len) (exec .nop s) ∧
    (∃ t, exec .yield s = .next t ∧
      t = { s.setMe t.me with
        pending := if s.me.role = .copy then s.pending else s.pending ++ [.yieldExpire s.cur.core s.cur.agent] } ∧ Passed s t ∧
      t.me = { s.me with yielding := true, parts := t.me.parts }) ∧
    (s.myCore.lr.lmcount ≤ n.toNat → exec (.safept n) s = .next s.illegalOperand) ∧
    (n.toNat < s.myCore.lr.lmcount → s.myCore.pre ≠ .requested → Goes s s.after_ (exec (.safept n) s)) ∧
    (n.toNat < s.myCore.lr.lmcount → s.myCore.pre = .requested → exec (.safept n) s = .next (s.park (.safept n.toNat))) ∧
    (s.interlock [] [(d, 128)] = .ok () →
      (evenScalar d = false → exec (.clkrd d) s = .next s.illegalOperand) ∧
      (evenScalar d = true → ∃ t, exec (.clkrd d) s = .next t ∧ OnlyMe s t ∧ Passed s t ∧
        (∀ k, t.me.sget k = if k = d.toNat - 96 then BitVec.ofNat 64 s.now
          else if k = d.toNat - 95 then BitVec.ofNat 64 (s.errEst * 65536 +
            match s.ptp.st with | .unsync => 0 | .locked => 1 | .holdover => 2)
          else s.me.sget k) ∧
        t.me = { s.me with s := t.me.s, parts := t.me.parts })) ∧
    (s.interlock [(a, 64)] [] = .ok () →
      (isSz a = false → exec (.tmark a) s = .next s.illegalOperand) ∧
      (isSz a = true → ∃ t, exec (.tmark a) s = .next t ∧ t = { s.setMe t.me with dies := t.dies } ∧ Passed s t ∧
        t.dies = (s.trace (s.cur.core / 32) 4 s.cur.core s.myCtx
          (BitVec.ofNat 64 (s.me.index + 256 * s.me.wg) ++ s.sval a)).dies ∧
        t.me = { s.me with parts := t.me.parts })) ∧
    (s.interlock [(a, 64)] [(d, 64)] = .ok () →
      let erd := exec (.erd a d) s
      let gives := fun (k : Nat) (x : W64) => s.sval a = BitVec.ofNat 64 k → WritesScalar d (fun _ => x) s erd
      ((isSz a && isSz d) = false ∨ 7 ≤ (s.sval a).toNat → erd = .next s.illegalOperand) ∧
      (isSz a = true → isSz d = true →
        gives 0 (BitVec.ofNat 64 s.myCore.energy) ∧
        gives 1 (BitVec.ofNat 64 ((s.myCore.wgs.find? s.me.wg).elim 0 Wg.energy)) ∧
        gives 2 (BitVec.ofNat 64 (s.ctx s.myCtx).winEnergy) ∧ gives 3 (BitVec.ofNat 64 s.winEnergy) ∧
        gives 4 (BitVec.ofNat 64 s.devEnergy) ∧ gives 5 (BitVec.ofNat 64 (s.die (s.cur.core / 32)).trDropped) ∧
        (∀ pl k p x, s.myCore.run = .stage pl k → s.plans.find? pl = some p → p.stages[k]? = some x →
          gives 6 (BitVec.ofNat 64 x.proj)) ∧
        (s.myCore.run = .tasks → gives 6 (Config.freeWord s.tick 1)))) ∧
    (s.takeDeferred (s.me.waitcTakes s.cur.part ld st eng xc) = none →
      let under := fun (l : List OpRec) (t : BitVec 3) => t.toNat = 7 ∨ l.length ≤ t.toNat
      (under s.me.ld ld ∧ under s.me.st st ∧ under s.me.eng eng ∧ under s.me.xc xc →
        Goes s s.after_ (exec (.waitc ld st eng xc) s)) ∧
      (¬(under s.me.ld ld ∧ under s.me.st st ∧ under s.me.eng eng ∧ under s.me.xc xc) →
        exec (.waitc ld st eng xc) s = .next (s.park (.waitc ld st eng xc)))) ∧
    ∀ t, s.takeDeferred (s.me.waitcTakes s.cur.part ld st eng xc) = some t → exec (.waitc ld st eng xc) s = .next t

/-- R301, R302: WSYNC parks its split and, once every part of the wave waits at that one address, makes one split of
them, in which the handler goes on; the end of a split that is not the last frees its slot, and the last part of a wave waits
for its counters. Readings of the model: log 30. -/
def Obligations.JoinAndExit : Prop :=
  ∀ s : State,
    (s.me.role = .copy → Goes s s.after_ (exec .wsync s)) ∧
    (s.me.role ≠ .copy → (∃ k p, k ≠ s.cur.part ∧ (k, p) ∈ s.me.parts ∧ p.wait ≠ some .wsync) →
      exec .wsync s = .next { s.park .wsync with nextId := s.nextId + 20 }) ∧
    (s.me.role ≠ .copy → s.me.parts.keys.Pairwise (· < ·) → s.cur.part ∈ s.me.parts.keys →
      (∀ k p, (k, p) ∈ s.me.parts → p.pc = s.pc ∧ (k ≠ s.cur.part → p.wait = some .wsync)) →
      ∃ t p, exec .wsync s = .next t ∧
        t.me = { s.me with
          parts := [(0, p)]
          handling := s.me.handling.map fun h => (if h.1 ∈ s.me.parts.keys then 0 else h.1, h.2) } ∧
        p.slot = some 0 ∧ p.wait = none ∧ p.pc = s.pc + 4 ∧
        (∀ l, l < 64 → p.lanes.getLsbD l = s.me.parts.any fun q => q.2.lanes.getLsbD l) ∧
        (∀ l, l < 64 → p.em.getLsbD l = s.me.parts.any fun q => q.2.em.getLsbD l) ∧
        t = { s.setMe t.me with nextId := t.nextId }) ∧
    (∀ t, s.takeDeferred (s.me.exitTakes s.cur.part) = some t → exec .exit s = .next t) ∧
    (s.takeDeferred (s.me.exitTakes s.cur.part) = none → 2 ≤ s.me.parts.length →
      exec .exit s = .next (s.setMe { s.me with
        parts := s.me.parts.del s.cur.part
        handling := if s.me.handling.map Prod.fst = some s.cur.part then none else s.me.handling }).joinMe) ∧
    (s.takeDeferred (s.me.exitTakes s.cur.part) = none → s.me.parts.length ≤ 1 →
      let idle := if s.me.role = .copy then s.me.eng.isEmpty else s.me.ld.isEmpty && s.me.st.isEmpty && s.me.eng.isEmpty && s.me.xc.isEmpty
      (idle = false → exec .exit s = .next (s.park .exit)) ∧
      (idle = true → ∃ t, exec .exit s = .next t ∧ t = s.endAgent s.cur.core s.cur.agent ∧
        ((s.agent? s.cur.core s.cur.agent).isSome → t.agent? s.cur.core s.cur.agent = none) ∧
        ((∀ g, s.myCore.wgs.find? s.me.wg = some g → g.task = none) → t.mem = s.mem ∧ t.dram = s.dram)))

/-- R47, R68, R298, R299: branches, calls and jumps. A target in a register that is no multiple of 4 takes ALIGNMENT. -/
def Obligations.BranchResults : Prop :=
  ∀ (o : BitVec 26) (p : BitVec 16) (c : BitVec 3) (r a : BitVec 7) (dim q : BitVec 2) (s : State),
    let far := s.pc + o.signExtend 64 * 4
    let near := s.pc + p.signExtend 64 * 4
    let mk := s.me.mget r.toNat &&& s.em
    let x := s.sval r
    let branch := fun (taken : Bool) => Goes s (if taken then near else s.after_)
    let uniform := fun (i : Instr) (taken : Bool) => GroupAt i [] [] (maskOk r) (fun _ o => branch taken o) s
    let linked := fun (target : W64) (o : Out) => ∃ t, o = .next t ∧ OnlyMe s t ∧ WentTo s t target ∧
      (∀ k, t.me.sget k = if k = 23 then s.pc + 4 else s.me.sget k) ∧ t.me = { s.me with s := t.me.s, parts := t.me.parts }
    let jump := fun (i : Instr) (target : W64) (does : Out → Prop) =>
      (target.toNat % 4 ≠ 0 → exec i s = .next (s.alignTrap target)) ∧ (target.toNat % 4 = 0 → does (exec i s))
    Goes s far (exec (.bra o) s) ∧
    (s.interlock [] [(119, 64)] = .ok () → linked far (exec (.call o) s)) ∧
    (s.interlock [(r, 64)] [] = .ok () →
      (isSz r = false → exec (.brc c r p) s = .next s.illegalOperand) ∧
      (isSz r = true → (c = 0 → branch (x == 0) (exec (.brc c r p) s)) ∧ (c = 1 → branch (x != 0) (exec (.brc c r p) s)) ∧
        (c = 2 → branch (x.slt 0) (exec (.brc c r p) s)) ∧ (c = 3 → branch (BitVec.sle 0 x) (exec (.brc c r p) s)) ∧
        (c = 4 → branch (x.sle 0) (exec (.brc c r p) s)) ∧ (c = 5 → branch (BitVec.slt 0 x) (exec (.brc c r p) s)))) ∧
    uniform (.bany r p) (mk != 0) ∧ uniform (.ball r p) (mk == s.em) ∧ uniform (.bnone r p) (mk == 0) ∧
    (s.me.role = .copy → exec (.beodSet dim q p) s = .next s.roleViolation ∧ exec (.beodClr dim q p) s = .next s.roleViolation) ∧
    (s.me.role ≠ .copy → s.me.q.find? q.toNat = none →
      exec (.beodSet dim q p) s = .next s.illegalOperand ∧ exec (.beodClr dim q p) s = .next s.illegalOperand) ∧
    (∀ st, s.me.role ≠ .copy → s.me.q.find? q.toNat = some st →
      branch (st.eod.getLsbD dim.toNat) (exec (.beodSet dim q p) s) ∧
      branch (!(st.eod.getLsbD dim.toNat)) (exec (.beodClr dim q p) s)) ∧
    (s.interlock [(a, 64)] [] = .ok () →
      (isScalar a = false → exec (.jmp a) s = .next s.illegalOperand) ∧
      (isScalar a = true → jump (.jmp a) (s.sval a) (Goes s (s.sval a)))) ∧
    (s.interlock [(a, 64)] [(119, 64)] = .ok () →
      (isScalar a = false → exec (.callr a) s = .next s.illegalOperand) ∧
      (isScalar a = true → jump (.callr a) (s.sval a) (linked (s.sval a)))) ∧
    (s.interlock [(119, 64)] [] = .ok () → jump .ret (s.sval 119) (Goes s (s.sval 119)))

/-- R293: a divergent branch. T is the lanes of em whose mask bit is 1, or 0 for brd.f, N the rest of em. With T empty
the split falls through, with N empty it branches. Else T leaves it, as a split in the lowest free slot or as the
youngest entry of the list, and with the list full the branch takes DIVERGENCE_DEPTH. -/
def Obligations.DivergentBranches : Prop :=
  ∀ (r : BitVec 7) (p : BitVec 16) (sense : Bool) (s : State),
    let i : Instr := if sense then .brdT r p else .brdF r p
    let m := s.me.mget r.toNat
    let t := s.em &&& (if sense then m else ~~~m)
    let n := s.em &&& ~~~t
    let target := s.pc + p.signExtend 64 * 4
    let used := s.me.parts.filterMap fun q => q.2.slot
    (s.me.role = .copy → exec i s = .next s.roleViolation) ∧
    (s.me.role ≠ .copy → 8 ≤ r.toNat → exec i s = .next s.illegalOperand) ∧
    (s.me.role ≠ .copy → r.toNat < 8 →
      (t = 0 → Goes s s.after_ (exec i s)) ∧
      (t ≠ 0 → n = 0 → Goes s target (exec i s)) ∧
      (t ≠ 0 → n ≠ 0 → (∀ k, k < 4 → k ∈ used) → 16 ≤ (s.me.parts.filter fun q => q.2.slot.isNone).length →
        exec i s = .next (s.trap 0x0C s.wordInfo)) ∧
      (t ≠ 0 → n ≠ 0 → s.me.parts.length < 64 →
        ∀ slot : Option Nat,
          (match slot with
            | some k => k < 4 ∧ k ∉ used ∧ ∀ j, j < k → j ∈ used
            | none => (∀ k, k < 4 → k ∈ used) ∧ (s.me.parts.filter fun q => q.2.slot.isNone).length < 16) →
          ∃ u k, exec i s = .next u ∧ u = { s.setMe u.me with nextId := s.nextId + 1 } ∧ k ≠ s.cur.part ∧
            s.me.parts.find? k = none ∧
            u.me.parts.find? k = some { slot := slot, lanes := t, em := t, pc := target, stamp := s.nextId } ∧
            u.myPart = { s.myPart.goOn s.after_ with lanes := s.myPart.lanes &&& ~~~t, em := n } ∧
            (∀ j, j ≠ k → j ≠ s.cur.part → u.me.parts.find? j = s.me.parts.find? j) ∧
            u.me = { s.me with parts := u.me.parts }))

/-- R242 to R245: streams. A refused descriptor, an unbound stream and a field that is no scalar take ILLEGAL_OPERAND;
an advance past the end takes STREAM_OVERRUN. Readings of the model: log 16. R242, R243: the address and the flags of a
stream. -/
def Obligations.StreamResults : Prop :=
  (∀ (a d : BitVec 7) (q : BitVec 2),
     let bound := fun (i : Instr) (reads writes : List Opnd) (ok : Bool) (does : Stream → State → Out → Prop) =>
       GroupDoes i reads writes ok fun s o => match s.me.q.find? q.toNat with
         | none => o = .next s.illegalOperand
         | some st => does st s o
     bound (.sflag q d) [] [(d, 64)] (isSz d) (fun st => WritesScalar d fun _ => st.eod.setWidth 64) ∧
     bound (.spos q d) [] [(d, 64)] (isSz d) (fun st => WritesScalar d fun _ => BitVec.ofNat 64 st.pos) ∧
     bound (.sskip a q) [(a, 64)] [] (isSz a) (fun st s o =>
       let n := (s.sval a).toNat
       (st.total < st.pos + n → o = .next (s.trap 0x0E (BitVec.ofNat 64 (q.toNat + st.pos * 65536)))) ∧
       (st.pos + n ≤ st.total → ∃ t, o = .next t ∧ OnlyMe s t ∧ Passed s t ∧
         t.me = { s.me with q := t.me.q, parts := t.me.parts } ∧
         ∀ k, t.me.q.find? k = if k = q.toNat then some (st.advance n) else s.me.q.find? k)) ∧
     GroupDoes (.sunb q) [] [] true (fun s o => ∃ t, o = .next t ∧ OnlyMe s t ∧ Passed s t ∧
       t.me = { s.me with q := t.me.q, parts := t.me.parts } ∧
       ∀ k, t.me.q.find? k = if k = q.toNat then none else s.me.q.find? k) ∧
     ∀ s : State,
       let o := exec (.sbind a q) s
       let r := s.lane s.cur.core .stream 1 64 { lane := 0, va := s.sval a, data := 0, data2 := 0 }
       Decides (s.trapGate s.parkPoint [(a, 64)]) o (
         (s.me.role = .copy → o = .next s.roleViolation) ∧
         (s.me.role ≠ .copy → (isSz a = false → o = .next s.illegalOperand) ∧
           (isSz a = true → Decides s.memGate o (s.interlock [(a, 64)] [] = .ok () →
             Decides (s.readGate [(64, [(0, s.sval a)])]) o (
               (Stream.ofBytes (leBytes r.2 64) = none → o = .next r.1.illegalOperand) ∧
               ∀ st, Stream.ofBytes (leBytes r.2 64) = some st → ∃ t, o = .next t ∧ OnlyMe r.1 t ∧ Passed r.1 t ∧
                 t.me = { r.1.me with q := t.me.q, parts := t.me.parts } ∧
                 ∀ k, t.me.q.find? k = if k = q.toNat then some st else r.1.me.q.find? k)))))) ∧
  (∀ (q : Stream) (i0 i1 i2 i3 n : Nat), i0 < q.c0 → i1 < q.c1 → i2 < q.c2 →
     q.addr (i0 + q.c0 * (i1 + q.c1 * (i2 + q.c2 * i3))) =
       q.base + BitVec.ofNat 64 i0 * q.s0 + BitVec.ofNat 64 i1 * q.s1 + BitVec.ofNat 64 i2 * q.s2 + BitVec.ofNat 64 i3 * q.s3 ∧
     (q.advance n).pos = q.pos + n ∧ (q.advance n).base = q.base ∧ (q.advance n).c0 = q.c0 ∧
     ((q.advance n).eod.getLsbD 0 = decide (q.pos / q.c0 < (q.pos + n) / q.c0)) ∧
     ((q.advance n).eod.getLsbD 1 = decide (q.pos / (q.c0 * q.c1) < (q.pos + n) / (q.c0 * q.c1))) ∧
     ((q.advance n).eod.getLsbD 2 = decide (q.pos / (q.c0 * q.c1 * q.c2) < (q.pos + n) / (q.c0 * q.c1 * q.c2))) ∧
     ((q.advance n).eod.getLsbD 3 = decide (q.pos / (q.c0 * q.c1 * q.c2 * q.c3) < (q.pos + n) / (q.c0 * q.c1 * q.c2 * q.c3))))

/-- R63: a MISC word with FN 0 is ZTRAP whatever its other bits hold, and takes ILLEGAL_OPCODE. With it the other trap
instructions (R432, R433): TRAP and BKPT save the address after them, ZTRAP its own; RFT goes to sr.epc and ends the
handler. -/
def Obligations.TrapInstructions : Prop :=
  ∀ (x : BitVec 21) (c : BitVec 8) (s : State),
    let take := fun (code : BitVec 8) (info epc : W64) =>
      s.takeTrap s.cur.core s.cur.agent s.cur.part { code := code, einfo := info, eaddr := 0, fmask := 0 } epc
    (∀ w : W32, w.toNat / 2 ^ 21 = 0 → decode w = .ok (.ztrap (w.setWidth 21))) ∧
    exec (.ztrap x) s = .next (take 0x01 (s.cur.word.setWidth 64) s.pc) ∧
    exec .bkpt s = .next (take 0x12 0 (s.pc + 4)) ∧
    (0x20 ≤ c.toNat → c.toNat ≤ 0x3F → exec (.trap c) s = .next (take c 0 (s.pc + 4))) ∧
    (¬(0x20 ≤ c.toNat ∧ c.toNat ≤ 0x3F) → exec (.trap c) s = .next (take 0x02 (s.cur.word.setWidth 64) s.pc)) ∧
    (s.me.handling = none → exec .rft s = .next (take 0x02 (s.cur.word.setWidth 64) s.pc)) ∧
    (s.me.handling ≠ none → s.me.epc.toNat % 4 ≠ 0 → exec .rft s = .next (s.alignTrap s.me.epc)) ∧
    (s.me.handling ≠ none → s.me.epc.toNat % 4 = 0 →
      ∃ t, exec .rft s = .next t ∧ OnlyMe s t ∧ WentTo s t s.me.epc ∧
        t.me = { s.me with handling := none, parts := t.me.parts })

/-- R426, R427: taking a trap with a handler. An operation that the trapping instruction had counted on XC while it was
suspended is over (the model's reading, log 40). -/
def Obligations.TrapEntry : Prop :=
  ∀ (s : State) (c k part : Nat) (a : Agent) (p : Part) (t : TrapInfo) (epc : W64),
    s.agent? c k = some a → (s.core c).lr.flags % 2 = 1 → a.handling = none → a.parts.find? part = some p →
    ∃ u b, s.takeTrap c k part t epc = u ∧ u = s.setAgent c k b ∧
      b = { a with tcode := t.code, epc := epc, einfo := t.einfo, eaddr := t.eaddr, fmask := t.fmask,
                   handling := some (part, t.code), xc := b.xc, parts := b.parts } ∧
      (p.op = none → b.xc = a.xc) ∧
      b.parts.find? part = some (p.goOn ((s.core c).lr.code + BitVec.ofNat 64 (s.core c).lr.handlerOff)) ∧
      ∀ j, j ≠ part → b.parts.find? j = a.parts.find? j

/-- R427, R429, R430: a trap without a handler, or in the handler, ends the workgroup: none of its agents is left, the
event is found for the log, and a plan stage drains its plan. No byte of memory changes. Readings of the model: log 20.
-/
def Obligations.KernelEnd : Prop :=
  ∀ (s : State) (c k part : Nat) (a : Agent) (g : Wg) (t : TrapInfo) (epc : W64),
    s.agent? c k = some a → ((s.core c).lr.flags % 2 = 0 ∨ a.handling ≠ none) → (s.core c).wgs.find? a.wg = some g →
    let u := s.takeTrap c k part t epc
    let codes := match a.handling with
      | some (_, first) => first.toNat + 256 * t.code.toNat
      | none => t.code.toNat
    (∀ j b, (j, b) ∈ (u.core c).agents → b.wg ≠ a.wg) ∧ u.mem = s.mem ∧ u.dram = s.dram ∧
    (∃ f, u.found = s.found ++ [f] ∧ f.die = c / 32 ∧ f.entry.kind = 6 ∧ f.entry.detail = codes ∧ f.logged = true) ∧
    (∀ pl st q, (s.core c).run = .stage pl st → s.plans.find? pl = some q → q.ending = none →
      ∃ q', u.plans.find? pl = some q' ∧ q'.ending = some (3, codes % 256, st, 0))

/-- R50, R51, R52: LIMM, whose word has OP 3 and IMM26 below. It completes with its follower: where the next word is an
integer immediate instruction of R51 on a scalar, the destination receives the result with the joined immediate and execution
goes on after both words; every other follower of R51 runs with the joined immediate too. One whose opcode is illegal takes
ILLEGAL_OPCODE, any other LIMM_SEQUENCE, both at the LIMM. Readings of the model: log 28, on the word in sr.einfo. -/
def Obligations.LimmJoins : Prop :=
  ∀ (i : BitVec 26) (s : State) (w : W32),
    (w.toNat / 2 ^ 26 = 3 → decode w = .ok (.limm (w.setWidth 26))) ∧
    (∀ e, s.fetch (s.pc + 4) (some s.cur.word) = .error e → exec (.limm i) s = .next e) ∧
    (s.fetch (s.pc + 4) (some s.cur.word) = .ok w →
      let u := { s with cur := { s.cur with word := w, len := 8, pre := some i } }
      (∀ (im : BitVec 12) (a d : BitVec 7) (j : Instr) (f : W64 → W64 → W64),
        (j, f) ∈ [(Instr.iaddi im a d, fun x y => x + y), (.andi im a d, fun x y => x &&& y), (.ori im a d, fun x y => x ||| y),
          (.xori im a d, fun x y => x ^^^ y)] →
        decode w = .ok j → isScalar a = true → isScalar d = true → s.ready = true →
        ∃ t, exec (.limm i) s = .next t ∧ OnlyMe u t ∧ WentTo s t (s.pc + 8) ∧
          WroteS s t d (f (s.sval a) ((i ++ im).signExtend 64)) ∧ t.me = { s.me with s := t.me.s, parts := t.me.parts }) ∧
      (∀ j, decode w = .ok j → joins j = true → ∃ t, exec (.limm i) s = .next t ∧ exec j u = .next t ∧
        ∀ im, u.imm im = (i ++ im).signExtend 64) ∧
      (decode w = .error .illegalOpcode → exec (.limm i) s = .next s.illegalOpcode) ∧
      (∀ x, decode w = .ok (.ztrap x) → exec (.limm i) s = .next s.illegalOpcode) ∧
      (∀ j, decode w = .ok j → joins j = false → (∀ x, j ≠ .ztrap x) → exec (.limm i) s = .next (s.trap 0x04 (w.setWidth 64))) ∧
      (decode w = .error .illegalOperand → exec (.limm i) s = .next (s.trap 0x04 (w.setWidth 64))))

-- Memory ----------------------------------------------------------------------------------------------------------------

/-- R226: the checks of the addresses of an access. The lowest lane whose address is misaligned takes ALIGNMENT; else
the lanes whose address is in no window or region, or lacks the right, take MEMORY_FAULT with the lowest one's address.
Readings of the model: log 13. R36: the own-pool window. The register region, the L1 region and what lies beyond fault;
the shadow bank may be loaded only; the live bank is at the lower half of the exchange addresses, whichever physical
bank is live. -/
def Obligations.AddressChecks : Prop :=
  (∀ (s : State) (nd : Need) (size : Nat) (es : List Ea),
     let outside := es.filter fun e => (s.place s.cur.core nd e.2 size).isNone
     (∀ e, es.find? (fun e => e.2.toNat % size != 0) = some e →
       s.checkEa nd size es = .error (s.trap 0x05 (s.cur.word.setWidth 64) e.2)) ∧
     ((∀ e ∈ es, e.2.toNat % size = 0) →
       (∀ e rest, outside = e :: rest →
         s.checkEa nd size es = .error (s.trap 0x06 (s.faultInfo 0) e.2 (maskOf (outside.map Prod.fst)))) ∧
       (outside = [] → s.checkEa nd size es = .ok ()))) ∧
  (∀ (s : State) (c off size : Nat) (nd : Need), off < 2 ^ 23 → 0 < size → off % size = 0 → size ∣ 128 →
     (s.core c).regTop ≤ (s.core c).scrTop → (s.core c).scrTop ≤ (s.core c).xchTop →
     let x := s.core c
     let reg := x.regTop * 65536
     let scr := x.scrTop * 65536
     let bank := (x.xchTop - x.scrTop) * 32768
     let at_ := s.place c nd (0xFE00000000000000 + BitVec.ofNat 64 off) size
     (off < reg → at_ = none) ∧ (x.xchTop * 65536 ≤ off → at_ = none) ∧ (nd = .x → at_ = none) ∧
     (reg ≤ off → off < scr → nd ≠ .x → at_ = some (.pool off) ∧ x.phys off = off) ∧
     (scr ≤ off → off < scr + bank → nd ≠ .x →
       at_ = some (.pool off) ∧ x.phys off = if x.liveHigh then off + bank else off) ∧
     (scr + bank ≤ off → off < x.xchTop * 65536 →
       at_ = (if nd = .r then some (.pool off) else none) ∧ x.phys off = if x.liveHigh then off - bank else off))

/-- R225 to R236: how far a load, store, LDO, STO, RED or ATOM comes: the first of its checks that fails decides, in the
order of LoadIssues, StoreIssues and AtomIssues; where none fails it issues, and acts when it issues (log 1). -/
def Obligations.LoadsIssue : Prop :=
  (∀ (i : BitVec 12) (sc : BitVec 3) (ord sz : BitVec 2) (a d : BitVec 7),
     let plain := fun (x : Instr) (size : Nat) (signed : Bool) => LoadIssues x size signed 0 1 (fun s => s.imm i) a d true
     plain (.ldb i a d) 1 false ∧ plain (.ldbs i a d) 1 true ∧ plain (.ldh i a d) 2 false ∧ plain (.ldhs i a d) 2 true ∧
     plain (.ldw i a d) 4 false ∧ plain (.ldd i a d) 8 false ∧ plain (.ldq i a d) 16 false ∧
     LoadIssues (.ldo sc ord sz a d) (2 ^ sz.toNat) false ord.toNat sc.toNat (fun _ => 0) a d
       (decide (ord.toNat < 2 ∧ (sc.toNat < 5 ∨ (sc.toNat = 5 ∧ ord.toNat = 1))))) ∧
  (∀ (i : BitVec 12) (w : BitVec 1) (sc : BitVec 3) (ord sz : BitVec 2) (a d : BitVec 7),
     let plain := fun (x : Instr) (size : Nat) => StoreIssues x .store size 0 1 (fun s => s.imm i) a d true
     let ok := decide (ord.toNat % 2 = 0 ∧ sc.toNat < 5)
     let red := fun (x : Instr) (fn : Nat) =>
       StoreIssues x (.red fn) (if w = 0#1 then 4 else 8) ord.toNat sc.toNat (fun _ => 0) a d ok
     plain (.stb i a d) 1 ∧ plain (.sth i a d) 2 ∧ plain (.stw i a d) 4 ∧ plain (.std i a d) 8 ∧ plain (.stq i a d) 16 ∧
     StoreIssues (.sto sc ord sz a d) .store (2 ^ sz.toNat) ord.toNat sc.toNat (fun _ => 0) a d ok ∧
     red (.redAdd w sc ord a d) 0 ∧ red (.redMins w sc ord a d) 1 ∧ red (.redMinn w sc ord a d) 2 ∧
     red (.redMaxs w sc ord a d) 3 ∧ red (.redMaxn w sc ord a d) 4 ∧ red (.redAnd w sc ord a d) 5 ∧
     red (.redOr w sc ord a d) 6 ∧ red (.redXor w sc ord a d) 7 ∧ red (.redFadd w sc ord a d) 8 ∧
     red (.redFmin w sc ord a d) 9 ∧ red (.redFmax w sc ord a d) 10) ∧
  (∀ (w : BitVec 1) (sc : BitVec 3) (ord : BitVec 2) (a d : BitVec 7),
     let at_ := fun (x : BitVec 1 → BitVec 3 → BitVec 2 → BitVec 7 → BitVec 7 → Instr) (fn : Nat) =>
       AtomIssues (x w sc ord a d) fn w sc ord a d
     at_ .atomAdd 0 ∧ at_ .atomMins 1 ∧ at_ .atomMinn 2 ∧ at_ .atomMaxs 3 ∧ at_ .atomMaxn 4 ∧ at_ .atomAnd 5 ∧
     at_ .atomOr 6 ∧ at_ .atomXor 7 ∧ at_ .atomExch 8 ∧ at_ .atomCas 9 ∧ at_ .atomFadd 10 ∧ at_ .atomFmin 11 ∧
     at_ .atomFmax 12)

/-- R227 to R231, R435, R437: what a plain load does once it issues, where it acts (log 1). Each lane that the memory side
serves receives the value at its address, extended; every other lane and register, every other agent, and, where the caches
hold no line of another context, every byte of memory reads as before. -/
def Obligations.LoadResults : Prop :=
  ∀ (i : BitVec 12) (a d : BitVec 7) (x : Instr) (size : Nat) (signed : Bool),
    (x, size, signed) ∈ [(Instr.ldb i a d, 1, false), (.ldbs i a d, 1, true), (.ldh i a d, 2, false), (.ldhs i a d, 2, true),
      (.ldw i a d, 4, false), (.ldd i a d, 8, false), (.ldq i a d, 16, false)] →
    ∀ s : State,
      let c := s.cur.core
      let k := MemKind.load signed
      let es := s.eas (isVec d) a (s.imm i) size
      let open_ := s.openPages c s.cur.agent s.nextId
      let served := es.filter fun e => (s.laneCode c open_ k 1 e.2 size).isNone && !(s.laneBad c k 1 e.2 size)
      let v := fun (va : W64) => s.valueAt c k va size
      let scalar := v (s.sval a + s.imm i)
      s.trapGate s.parkPoint [(a, 64)] = .ok () → loadOk d (8 * size) a = true →
      (s.me.role = .copy → namesLanes [d, a] = false) → s.memGate = .ok () →
      s.interlock [(a, 64)] [(d, 8 * size)] = .ok () → s.issueGate .r size 0 .ld es = .ok () →
      ∃ t, exec x s = .next t ∧ WentTo s t s.after_ ∧ KeepsOthers s t ∧ KeepsPools s t ∧ t.dram = s.dram ∧
        WroteBack s t ∧ (s.cachesOwn c → KeepsMemory s t) ∧
        (∀ n l, l < 64 → t.me.vget n l =
          match (if isVec d then served.find? fun e => e.1 == l else none) with
          | some e =>
            if d.toNat ≤ n ∧ n < d.toNat + max 1 (size / 4) then
              BitVec.ofNat 32 ((if size < 4 then extendTo signed size 32 (v e.2) else v e.2) / 2 ^ (32 * (n - d.toNat)))
            else s.me.vget n l
          | none => s.me.vget n l) ∧
        (∀ n, t.me.sget n =
          if isScalar d = true ∧ served ≠ [] ∧ n = d.toNat - 96 then BitVec.ofNat 64 (extendTo signed size 64 scalar)
          else if isScalar d = true ∧ served ≠ [] ∧ size = 16 ∧ n = d.toNat - 95 then BitVec.ofNat 64 (scalar / 2 ^ 64)
          else s.me.sget n) ∧
        t.me = { s.me with v := t.me.v, vbad := t.me.vbad, s := t.me.s, ld := t.me.ld, issued := t.me.issued,
                           parts := t.me.parts, faults := t.me.faults, traps := t.me.traps }

/-- R227, R228, R230, R434: what a plain store does once it issues, where it acts (log 1). The bytes at the addresses of
the lanes that the memory side serves receive the data, the last lane's where lanes meet, as the core reads them; memory
itself, every register and every other agent are as before, and every other byte reads as before, or as its home has it where a
replica was read before (R191). No other core sees the store yet. The caches hold no line of another context. -/
def Obligations.StoreResults : Prop :=
  ∀ (i : BitVec 12) (a d : BitVec 7) (x : Instr) (size : Nat),
    (x, size) ∈ [(Instr.stb i a d, 1), (.sth i a d, 2), (.stw i a d, 4), (.std i a d, 8), (.stq i a d, 16)] →
    ∀ (s u : State) (got : Pulled),
      let c := s.cur.core
      let per := storePerLane d a
      let es := s.eas per a (s.imm i) size
      let data := fun (e : Ea) => u.val got e.1 (d, 8 * size)
      let open_ := u.openPages c s.cur.agent u.nextId
      let served := es.filter fun e => (u.laneCode c open_ .store 1 e.2 size).isNone
      let pools := served.filterMap fun e => match u.place c .w e.2 size with
        | some (.pool off) => some ((u.core c).phys off, data e)
        | _ => none
      let lines := served.filterMap fun e => match u.place c .w e.2 size with
        | some (.mem ia) => some (ia, data e)
        | _ => none
      s.trapGate s.parkPoint [(a, 64), (d, 8 * size)] = .ok () → storeOk d (8 * size) a = true →
      s.streamsOk [(d, 8 * size)] = true → (s.me.role = .copy → namesLanes [d, a] = false) → s.memGate = .ok () →
      s.interlock [(a, 64), (d, 8 * size)] [] = .ok () → s.issueGate .w size 0 .st es = .ok () →
      s.pullAll per [(d, 8 * size)] = .ok (u, got) → u.cachesOwn c →
      ∃ t, exec x s = .next t ∧ WentTo u t s.after_ ∧ KeepsOthers u t ∧ t.mem = u.mem ∧ t.dram = u.dram ∧
        (∀ p, (t.core c).pool.get p = (lastWrite size pools p).getD ((u.core c).pool.get p)) ∧
        (∀ h b, lastWrite size lines h = some b → t.seen c h = b) ∧
        (∀ h, lastWrite size lines h = none → t.seen c h = u.seen c h ∨ t.seen c h = u.homeByte h) ∧
        (∀ c', c' ≠ c → (t.core c').pool = (u.core c').pool ∧ ∀ h, t.seen c' h = u.seen c' h ∨ t.seen c' h = u.homeByte h) ∧
        t.me = { u.me with st := t.me.st, issued := t.me.issued, parts := t.me.parts, faults := t.me.faults }

/-- R57, R243, R244: the stream reads of an instruction. Each q register among its sources delivers the element of each
active lane, or its one element, and advances; nothing else of the agent and, where the caches hold no line of another
context, no byte of memory changes. Readings of the model: log 16. -/
def Obligations.StreamReads : Prop :=
  ∀ (s u : State) (vector : Bool) (srcs : List Opnd) (got : Pulled),
    streamsOnce (srcs.map Prod.fst) = true → s.streamsOk srcs = true → s.cachesOwn s.cur.core →
    s.pullAll vector srcs = .ok (u, got) →
    KeepsMemory s u ∧ KeepsOthers s u ∧ u.me = { s.me with q := u.me.q } ∧
    (∀ k, (∀ p ∈ srcs, isStream p.1 = true → streamNo p.1 ≠ k) → u.me.q.find? k = s.me.q.find? k) ∧
    ∀ p ∈ srcs, isStream p.1 = true → ∃ q, s.me.q.find? (streamNo p.1) = some q ∧ q.esize * 8 = p.2 ∧
      u.me.q.find? (streamNo p.1) = some (q.advance (if vector then 64 else 1)) ∧
      ∀ l, (if vector then l < 64 ∧ s.em.getLsbD l = true else l = 0) →
        u.val got l p = s.valueAt s.cur.core .stream (q.addr (q.pos + l)) q.esize

/-- R36, R218, R228 to R236, R391: what one lane of an access does in the core's own pool: it reads the old value, and a
store or an atomic operation writes its bytes and no other. R205, R218, R229, R230, R232 to R236: what one lane of an
access does in memory, by its scope. A read or a store at CORE acts in L1; an atomic operation up to CLU acts in the
cluster's unit, a wider store or atomic operation at the home. -/
def Obligations.MemoryLanes : Prop :=
  (∀ (s : State) (c scope size off : Nat) (k : MemKind) (r : LaneReq), s.place c k.need r.va size = some (.pool off) →
     let x := s.core c
     let a := x.phys off
     let old := x.pool.readLE a size
     let new := match k with
       | .store => r.data
       | .atom fn => atomNew fn (8 * size) old r.data r.data2
       | .red fn => atomNew (redFn fn) (8 * size) old r.data r.data2
       | .signal => signalNew old r.data r.data2
       | _ => old
     let out := s.lane c k scope size r
     out.2 = old ∧ (k.write = false → out.1 = s) ∧
     (k.write = true → out.1 = s.setCore c { x with pool := (out.1.core c).pool, badPool := (out.1.core c).badPool } ∧
       ∀ p, (out.1.core c).pool.get p =
         if a ≤ p ∧ p < a + size then BitVec.ofNat 8 (new / 256 ^ (p - a)) else x.pool.get p)) ∧
  (∀ (s : State) (c scope size ia : Nat) (k : MemKind) (r : LaneReq), s.place c k.need r.va size = some (.mem ia) →
     let h := s.home ia
     let line := ia / 128
     let out := s.lane c k scope size r
     let t := out.1
     let range := fun (p : Nat) => ia ≤ p ∧ p < ia + size
     let byte := fun (v i : Nat) => BitVec.ofNat 8 (v / 256 ^ i)
     let before := leNat ((List.range size).map fun j => s.seen c (ia + j))
     let atUnit := scope < 3 ∧ iaClass ia ≠ 5 ∧ iaClass ia ≠ 6
     let alone := (s.core c).l1.find? line = none
     let wrote := fun (v : Nat) => ∀ p, if h ≤ p ∧ p < h + size then t.mem.get p = byte v (p - h)
       else t.mem.get p = s.mem.get p ∨ s.dirtyAt p (t.mem.get p)
     let rmw := fun (f : Nat → Nat) =>
       (alone → atUnit → s.cachesOwn c →
         let old := leNat ((List.range size).map fun j => s.unitByte c (ia + j))
         out.2 = old ∧ t.mem = s.mem ∧ ∀ p, t.unitByte c p = if range p then byte (f old) (p - ia) else s.unitByte c p) ∧
       (alone → ¬atUnit → (s.cluster (clusterOf c)).buf.find? line = none → (s.cluster (clusterOf c)).au.find? line = none →
         s.memBad h size = false → out.2 = s.homeRead ia size ∧ wrote (f (s.homeRead ia size)))
     ia % 128 + size ≤ 128 → 0 < size → KeepsPools s t ∧ (∀ c' k', t.agent? c' k' = s.agent? c' k') ∧
     match k with
     | .load _ | .stream => scope < 2 → s.cachesOwn c → out.2 = before ∧ KeepsMemory s t
     | .store =>
       (scope < 2 → s.cachesOwn c → t.mem = s.mem ∧ ∀ c' p,
         if c' = c ∧ range p then t.seen c' p = byte r.data (p - ia)
         else t.seen c' p = s.seen c' p ∨ t.seen c' p = s.homeByte p) ∧
       (2 ≤ scope → scope ≤ 4 → s.cachesOwn c → s.replicaHeld ia = false →
         (3 ≤ scope → (s.flushLine c line).memBad h size = false) → ∀ p, range p → t.seen c p = byte r.data (p - ia)) ∧
       (3 ≤ scope → (s.flushLine c line).memBad h size = false → wrote r.data)
     | .atom fn => rmw fun old => atomNew fn (8 * size) old r.data r.data2
     | .red fn => rmw fun old => atomNew (redFn fn) (8 * size) old r.data r.data2
     | .signal => rmw fun old => signalNew old r.data r.data2)

/-- R203 to R205, R213, R216, R237, R437: FENCE. Where no faulted access waits for its replay it completes: its release writes
back, its acquire empties L1 from CLU on and the cluster's lines from DEV on. Memory changes by write-backs only, and registers
and pools not at all. -/
def Obligations.FenceResults : Prop :=
  ∀ (sc : BitVec 3) (ord : BitVec 2) (s : State), s.trapGate s.parkPoint [] = .ok () →
    let c := s.cur.core
    (5 ≤ sc.toNat → exec (.fence sc ord) s = .next s.illegalOperand) ∧
    (sc.toNat < 5 → Decides s.memGate (exec (.fence sc ord) s) (
      (s.me.faults ≠ [] → exec (.fence sc ord) s = .next (s.park .mem)) ∧
      (s.me.faults = [] →
        ∃ t, exec (.fence sc ord) s = .next t ∧ WentTo s t s.after_ ∧ WroteBack s t ∧ KeepsPools s t ∧ KeepsOthers s t ∧
          t.dram = s.dram ∧ t.me = { s.me with parts := t.me.parts } ∧
          (sc.toNat < 2 → OnlyMe s t) ∧
          (2 ≤ sc.toNat → ord ≠ 2#2 → (t.core c).l1 = []) ∧
          (3 ≤ sc.toNat → ord ≠ 2#2 → (t.cluster (clusterOf c)).buf = [] ∧ (t.cluster (clusterOf c)).au = [] ∧
            (t.die (dieOf c)).reps = []) ∧
          (2 ≤ sc.toNat → ord ≠ 1#2 → ∀ k l, (t.core c).l1.find? k = some l → l.dirty = 0) ∧
          (3 ≤ sc.toNat → ord ≠ 1#2 → ∀ k l, ((t.cluster (clusterOf c)).buf.find? k = some l ∨
            (t.cluster (clusterOf c)).au.find? k = some l) → l.dirty = 0))))

/-- R38, R239, R240: PREF, WBK and INVL. PREF never traps and always completes. WBK and INVL do nothing at own-pool addresses and
take MEMORY_FAULT without any right; else they complete: no dirty byte of the line is left in the core's L1 and its cluster's
lines, and INVL drops the line; the core's dirty bytes have come home. Readings of the model: log 51. R241: full/empty
operations. SPEMPTY and SPFULL set the bits of n lines, SPQRY reads the bits of 64; an address that is no line's takes
ALIGNMENT, a range outside the scratchpad MEMORY_FAULT. No pool byte and no barrier changes. -/
def Obligations.CacheLines : Prop :=
  (∀ (a : BitVec 7) (s : State), s.trapGate s.parkPoint [(a, 64)] = .ok () →
     let c := s.cur.core
     let u := clusterOf c
     let va := s.sval a
     let pool := va.toNat / 2 ^ 23 = 0xFE * 2 ^ 33
     let at_ := fun (i : Instr) (drops : Bool) =>
       (isSz a = false → exec i s = .next s.illegalOperand) ∧
       (isSz a = true → s.memGate = .ok () → s.interlock [(a, 64)] [] = .ok () →
         (pool → Goes s s.after_ (exec i s)) ∧
         (¬pool → s.place c .r va 1 = none → s.place c .w va 1 = none → exec i s = .next (s.memFault va 1)) ∧
         ∀ ia, ¬pool → (s.place c .r va 1 = some (.mem ia) ∨ (s.place c .r va 1 = none ∧ s.place c .w va 1 = some (.mem ia))) →
           let line := ia / 128
           let at_ := s.home (line * 128) / 128
           (s.me.room .st = false → exec i s = .next s) ∧
           (s.me.room .st = true → 2048 ≤ s.myCore.outstanding → exec i s = .next s) ∧
           (s.me.room .st = true → s.myCore.outstanding < 2048 →
             ∃ t, exec i s = .next t ∧ WentTo s t s.after_ ∧ WroteBack s t ∧ KeepsPools s t ∧ KeepsOthers s t ∧
               t.dram = s.dram ∧ t.me = { s.me with st := t.me.st, issued := t.me.issued, parts := t.me.parts } ∧
               t.me.st.length = s.me.st.length + 1 ∧
               (∀ k, k ≠ line → (t.core c).l1.find? k = (s.core c).l1.find? k) ∧
               (∀ l, ((t.core c).l1.find? line = some l ∨ (t.cluster u).buf.find? line = some l ∨
                 (t.cluster u).au.find? line = some l) → l.dirty = 0 ∧ drops = false) ∧
               ((s.cachesOwn c ∧ s.retiredLine at_ = false ∧ s.memBad (at_ * 128) 128 = false ∧
                 ∀ l, ((s.core c).l1.find? line = some l ∨ (s.cluster u).buf.find? line = some l ∨
                   (s.cluster u).au.find? line = some l) → l.bad = 0) →
                 ∀ l o, (s.core c).l1.find? line = some l → o < 128 → l.dirty.getLsbD o = true →
                   t.mem.get (at_ * 128 + o) = l.data.get o)))
     (isSz a = false → exec (.pref a) s = .next s.illegalOperand) ∧
     (isSz a = true → s.memGate = .ok () → s.interlock [(a, 64)] [] = .ok () →
       ∃ t, exec (.pref a) s = .next t ∧ WentTo s t s.after_ ∧ WroteBack s t ∧ KeepsPools s t ∧ KeepsOthers s t ∧
         t.me = { s.me with parts := t.me.parts } ∧ (s.cachesOwn c → KeepsMemory s t)) ∧
     at_ (.wbk a) false ∧ at_ (.invl a) true) ∧
  (∀ (b a d : BitVec 7) (s : State),
     let x := s.myCore
     let va := s.sval a
     let off := va.toNat % 2 ^ 23
     let n := (s.sval b).toNat
     let inside := fun (n : Nat) => va.toNat < 2 ^ 23 ∧ (n = 0 ∨ (x.regTop * 65536 ≤ off ∧ off + 128 * n ≤ x.scrTop * 65536))
     let sets := fun (i : Instr) (full : Bool) =>
       s.trapGate s.parkPoint [(a, 64), (b, 64)] = .ok () →
       ((isSz a && isSz b) = false → exec i s = .next s.illegalOperand) ∧
       (isSz a = true → isSz b = true → s.memGate = .ok () → s.interlock [(a, 64), (b, 64)] [] = .ok () →
         (off % 128 ≠ 0 → exec i s = .next (s.alignTrap (ownPool off))) ∧
         (off % 128 = 0 → ¬inside n → exec i s = .next (s.memFault (ownPool off) 0)) ∧
         (off % 128 = 0 → inside n → ∃ t, exec i s = .next t ∧ WentTo s t s.after_ ∧ KeepsMemory s t ∧ KeepsOthers s t ∧
           (∀ l, l ∈ t.myCore.emptyLines ↔
             (if off / 128 ≤ l ∧ l < off / 128 + n then full = false else l ∈ x.emptyLines)) ∧
           t.myCore.emptier = x.emptier ∧ t.me = { s.me with parts := t.me.parts }))
     sets (.spempty b a) false ∧ sets (.spfull b a) true ∧
     (s.trapGate s.parkPoint [(a, 64)] = .ok () →
       ((isSz a && isSz d) = false → exec (.spqry a d) s = .next s.illegalOperand) ∧
       (isSz a = true → isSz d = true → s.memGate = .ok () → s.interlock [(a, 64)] [(d, 64)] = .ok () →
         (off % 128 ≠ 0 → exec (.spqry a d) s = .next (s.alignTrap (ownPool off))) ∧
         (off % 128 = 0 → ¬inside 1 → exec (.spqry a d) s = .next (s.memFault (ownPool off) 0)) ∧
         (off % 128 = 0 → inside 1 → WritesScalar d (fun _ => maskOf ((List.range 64).filter fun i =>
           decide (x.scrTop * 65536 ≤ off + 128 * i ∨ off / 128 + i ∉ x.emptyLines))) s (exec (.spqry a d) s)))))

/-- R37, R246, R247: XST. Each active lane's address must lie in a peer's shadow bank. Where all do and XC has room the store
completes: it is counted on XC, with each lane's data for its peer, and lands later; until then no byte of memory or of a pool
changes. -/
def Obligations.ExchangeStores : Prop :=
  ∀ (a d : BitVec 7) (i : Instr) (size : Nat), (i, size) ∈ [(Instr.xstW a d, 4), (.xstD a d, 8)] →
    ∀ s : State, s.trapGate s.parkPoint [(a, 64), (d, 8 * size)] = .ok () →
      let c := s.cur.core
      let per := storePerLane d a
      let es := s.eas per a 0 size
      let outside := es.filter fun e => (s.peer e.2 size).isNone
      let legal := storeOk d (8 * size) a && s.streamsOk [(d, 8 * size)]
      (s.me.role = .copy → exec i s = .next s.roleViolation) ∧
      (s.me.role ≠ .copy → legal = false → exec i s = .next s.illegalOperand) ∧
      (s.me.role ≠ .copy → legal = true → s.memGate = .ok () → s.interlock [(a, 64), (d, 8 * size)] [] = .ok () →
        (∀ e, es.find? (fun e => e.2.toNat % size != 0) = some e → exec i s = .next (s.alignTrap e.2)) ∧
        ((∀ e ∈ es, e.2.toNat % size = 0) →
          (∀ e rest, outside = e :: rest → exec i s = .next (s.memFault e.2 (eaMask (e :: rest)))) ∧
          (outside = [] →
            (es ≠ [] → s.me.room .xc = false → exec i s = .next s) ∧
            (es = [] ∨ s.me.room .xc = true →
              (∀ e, s.pullAll per [(d, 8 * size)] = .error e → exec i s = .next e) ∧
              ∀ u got, s.pullAll per [(d, 8 * size)] = .ok (u, got) →
                (es = [] → Goes u u.after_ (exec i s)) ∧
                (es ≠ [] → ∃ t op, exec i s = .next t ∧ WentTo u t u.after_ ∧ KeepsMemory u t ∧ KeepsOthers u t ∧
                  t.myCore.xsts = u.myCore.xsts ++ [op] ∧ op.from_ = c ∧ op.agent = s.cur.agent ∧
                  op.peers = es.map (fun e => e.2.toNat / 2 ^ 40 % 128) ∧
                  op.writes = es.map (fun e => (e.2.toNat % 2 ^ 23, size, u.val got e.1 (d, 8 * size))) ∧
                  t.pending = u.pending ++ [.xstLand c op.id] ∧
                  t.me = { u.me with xc := t.me.xc, issued := t.me.issued, parts := t.me.parts } ∧
                  t.me.xc.length = u.me.xc.length + 1)))))

-- Barriers --------------------------------------------------------------------------------------------------------------

/-- R248: barrier names. A cluster barrier is 2^63 + n with n below 64; any other name is the offset of 16 aligned bytes
of the scratchpad. The order of the checks is the model's reading (log 18). R250: an object that is written is read
back, and only its 16 bytes change. -/
def Obligations.BarrierObjects : Prop :=
  (∀ (s : State) (name : W64),
     let x := s.myCore
     let n := name.toNat
     (2 ^ 63 ≤ n → n < 2 ^ 63 + 64 → s.barName name = .ok (.cluster (n - 2 ^ 63))) ∧
     (2 ^ 63 + 64 ≤ n → s.barName name = .error (s.memFault name 0)) ∧
     (2 ^ 23 ≤ n → n < 2 ^ 63 → s.barName name = .error (s.memFault name 0)) ∧
     (n < 2 ^ 23 → n % 16 ≠ 0 → s.barName name = .error (s.alignTrap name)) ∧
     (n < 2 ^ 23 → n % 16 = 0 → (n < x.regTop * 65536 ∨ x.scrTop * 65536 < n + 16) →
       s.barName name = .error (s.memFault name 0)) ∧
     (n < 2 ^ 23 → n % 16 = 0 → x.regTop * 65536 ≤ n → n + 16 ≤ x.scrTop * 65536 → s.barName name = .ok (.pool n))) ∧
  (∀ (s : State) (c : Nat) (p : BarAt) (b : Bar),
     b.phase < 2 ^ 16 → b.exp < 2 ^ 16 → b.pend < 2 ^ 16 → b.ephase < 2 ^ 16 → -(2 ^ 31 : Int) ≤ b.bytes → b.bytes < 2 ^ 31 →
     b.rest < 16 → b.carry < 256 → b.resv < 2 ^ 16 →
     (s.barPut c p b).barGet c p = b ∧
     (∀ off a, p = .pool off → ¬(off ≤ a ∧ a < off + 16) → ((s.barPut c p b).core c).pool.get a = (s.core c).pool.get a) ∧
     (∀ n m, p = .cluster n → m ≠ n → (s.barPut c p b).barGet c (.cluster m) = s.barGet c (.cluster m)))

/-- R224, R252, R253: after each event the object completes when neither arrivals nor bytes are due: the phase advances,
carried arrivals count in the new phase, and at an exchange barrier the banks of the cores that arrived are swapped, which is an
acquire at CLU by each of them. -/
def Obligations.BarrierCompletes : Prop :=
  ∀ (s : State) (c : Nat) (p : BarAt),
    let b := s.barGet c p
    let t := s.barSettle c p
    (¬(b.pend = 0 ∧ b.bytes = 0) → t = s) ∧
    t.barGet c p = settledBar b ∧
    (∀ n, p = .cluster n → b.pend = 0 → b.bytes = 0 → b.carry = 0 →
      ((s.cluster (clusterOf c)).arrived.getD n []).Nodup →
      ∀ k, (t.core k).liveHigh =
          (if b.xchg = true ∧ k ∈ (s.cluster (clusterOf c)).arrived.getD n [] then !(s.core k).liveHigh else (s.core k).liveHigh) ∧
        (b.xchg = true → k ∈ (s.cluster (clusterOf c)).arrived.getD n [] → (t.core k).l1 = []))

/-- R224, R252, R256, R437: BARV and BARX. Where arrivals are due in the current phase the arrival completes, counted there;
where none is due it completes, carried into the next; one too many takes BARRIER_OVERRUN and is not counted. Registers other
than D are as before, and memory but for write-backs: all of it at a barrier in the pool. -/
def Obligations.BarrierArrivals : Prop :=
  ∀ (a d : BitVec 7) (i : Instr) (exchange : Bool), (i, exchange) ∈ [(Instr.barv a d, false), (.barx a d, true)] →
   ∀ (s : State) (p : BarAt) (b : Bar),
    let c := s.cur.core
    let clu := match p with | .cluster _ => true | .pool _ => false
    let keeps := fun (t : State) => WentTo s t s.after_ ∧ KeepsOthers s t ∧ WroteBack s t ∧ t.dram = s.dram ∧
      (clu = false → t.mem = s.mem) ∧ t.me = { s.me with s := t.me.s, parts := t.me.parts }
    s.interlock [(a, 64)] [(d, 64)] = .ok () →
    ((isSz a && isSz d) = false → exec i s = .next s.illegalOperand) ∧
    (isSz a = true → isSz d = true →
      (∀ e, s.barOf (s.sval a) = .error e → exec i s = .next e) ∧
      (s.barOf (s.sval a) = .ok (p, b) →
        (b.xchg ≠ exchange ∨ (exchange = true ∧ clu = false) → exec i s = .next s.illegalOperand) ∧
        (b.xchg = exchange → (exchange = true → clu = true) →
          (s.me.faults ≠ [] → exec i s = .next (s.park .mem)) ∧
          (s.me.faults = [] → (exchange = true → s.xstsLanded = false → exec i s = .next s)) ∧
          (s.me.faults = [] → (exchange = true → s.xstsLanded = true) →
            (0 < b.pend → ∃ t, exec i s = .next t ∧ keeps t ∧ WroteS s t d (BitVec.ofNat 64 b.phase) ∧
              t.barGet c p = settledBar { b with pend := b.pend - 1 }) ∧
            (b.pend = 0 → min b.exp 255 ≤ b.carry → ∃ u : State, (u.barGet c p = { b with ovf := true }) ∧
              exec i s = .next (u.trap 0x09 (BitVec.ofNat 64 ((if clu then 2 ^ 63 else 0) + (s.sval a).toNat % 2 ^ 23)))) ∧
            (b.pend = 0 → b.carry < min b.exp 255 →
              ∃ t, exec i s = .next t ∧ keeps t ∧ WroteS s t d (BitVec.ofNat 64 ((b.phase + 1) % 65536)) ∧
                t.barGet c p = settledBar { b with carry := b.carry + 1 })))))

/-- R249, R253, R257: BINIT, BEXP, BQRY and BCLR. -/
def Obligations.BarrierOperations : Prop :=
  ∀ (a b d : BitVec 7) (s : State),
    let c := s.cur.core
    let name := s.sval a
    let w := (s.sval b).toNat
    let keeps := fun (t : State) => WentTo s t s.after_ ∧ KeepsOthers s t ∧ WroteBack s t ∧ t.dram = s.dram ∧
      t.me = { s.me with parts := t.me.parts }
    (s.interlock [(a, 64), (b, 64)] [] = .ok () →
      ((isSz a && isSz b) = false → exec (.binit b a) s = .next s.illegalOperand ∧ exec (.bexp b a) s = .next s.illegalOperand) ∧
      (isSz a = true → isSz b = true →
        (∀ e, s.barName name = .error e → exec (.binit b a) s = .next e) ∧
        (∀ p e, s.barName name = .ok p → s.barOwner name p true = .error e → exec (.binit b a) s = .next e) ∧
        (∀ p, s.barName name = .ok p → s.barOwner name p true = .ok () →
          let clu := decide (p ≠ .pool (name.toNat % 2 ^ 23))
          let fits := w < 2 ^ 17 ∧ (if clu then 1 ≤ w % 65536 else w < 65536)
          (¬fits → exec (.binit b a) s = .next s.illegalOperand) ∧
          (fits → ∃ t, exec (.binit b a) s = .next t ∧ keeps t ∧ t.mem = s.mem ∧
            t.barGet c p = { phase := 0, exp := w % 65536, pend := w % 65536, ephase := 0, bytes := 0, err := false,
                             ovf := false, xchg := decide (65536 ≤ w), clu := clu } ∧
            ∀ n, p = .cluster n → (t.cluster (clusterOf c)).own.find? n = some s.myCtx)) ∧
        (∀ e, s.barOf name = .error e → exec (.bexp b a) s = .next e) ∧
        (∀ p o, s.barOf name = .ok (p, o) →
          let n := (s.sval b).toInt
          let inRange := fun (x : Int) => -(2 ^ 31 : Int) ≤ x ∧ x < 2 ^ 31
          (¬(inRange n ∧ inRange (o.bytes + n)) → exec (.bexp b a) s = .next s.illegalOperand) ∧
          (inRange n → inRange (o.bytes + n) → ∃ t, exec (.bexp b a) s = .next t ∧ keeps t ∧
            t.barGet c p = settledBar { o with bytes := o.bytes + n })))) ∧
    (s.interlock [(a, 64)] [(d, 128)] = .ok () →
      ((isSz a && evenScalar d) = false → exec (.bqry a d) s = .next s.illegalOperand) ∧
      (isSz a = true → evenScalar d = true →
        (∀ e, s.barOf name = .error e → exec (.bqry a d) s = .next e) ∧
        ∀ p o, s.barOf name = .ok (p, o) → ∃ t, exec (.bqry a d) s = .next t ∧ OnlyMe s t ∧ Passed s t ∧
          (∀ k, t.me.sget k = if k = d.toNat - 96 then BitVec.ofNat 64 (leNat (o.toBytes.take 8))
            else if k = d.toNat - 95 then BitVec.ofNat 64 (leNat (o.toBytes.drop 8)) else s.me.sget k) ∧
          t.me = { s.me with s := t.me.s, parts := t.me.parts })) ∧
    (s.interlock [(a, 64)] [] = .ok () →
      (isSz a = false → exec (.bclr a) s = .next s.illegalOperand) ∧
      (isSz a = true → (∀ e, s.barOf name = .error e → exec (.bclr a) s = .next e) ∧
        ∀ p o, s.barOf name = .ok (p, o) → ∃ t, exec (.bclr a) s = .next t ∧ keeps t ∧ t.mem = s.mem ∧
          t.barGet c p = { o with err := false, ovf := false, ephase := 0 }))

/-- R254, R255: BWAIT and BTRY. A complete phase writes the status word and is an acquire; BTRY answers at once when
sr.twh is 0 or its time is over, and else they park. -/
def Obligations.BarrierWaits : Prop :=
  ∀ (b a d : BitVec 7) (try_ : Bool) (s : State),
    let i : Instr := if try_ then .btry b a d else .bwait b a d
    let c := s.cur.core
    s.interlock [(a, 64), (b, 64)] [(d, 64)] = .ok () →
    ((isSz a && isSz b && isSz d) = false → exec i s = .next s.illegalOperand) ∧
    (isSz a = true → isSz b = true → isSz d = true →
      (∀ e, s.barOf (s.sval a) = .error e → exec i s = .next e) ∧
      ∀ p o, s.barOf (s.sval a) = .ok (p, o) →
        let phase := (s.sval b).toNat % 65536
        let behind := (o.phase + 65536 - phase) % 65536
        let complete := 1 ≤ behind ∧ behind ≤ 2 ^ 15
        let clu := match p with | .cluster _ => true | .pool _ => false
        let word := fun (done : Bool) => BitVec.ofNat 64 ((if done then 2 ^ 63 else 0) + (if o.ovf then 2 ^ 33 else 0) +
          (if o.err then 2 ^ 32 else 0) + o.ephase * 65536 + o.phase)
        let parked := s.park (.bar (s.sval a) (BitVec.ofNat 16 phase) try_)
        (complete → ∃ t, exec i s = .next t ∧ WentTo s t s.after_ ∧ WroteS s t d (word true) ∧ KeepsPools s t ∧ KeepsOthers s t ∧
          WroteBack s t ∧ t.me = { s.me with s := t.me.s, parts := t.me.parts } ∧ (clu = false → OnlyMe s t) ∧
          (clu = true → (t.core c).l1 = [])) ∧
        (¬complete → try_ = true → (s.myPart.expired = true ∨ s.me.twh = 0) → WritesScalar d (fun _ => word false) s (exec i s)) ∧
        (¬complete → try_ = true → s.myPart.expired = false → s.me.twh ≠ 0 →
          exec i s = .next { parked with pending := s.pending ++ [.trywaitExpire c s.cur.agent s.cur.part] }) ∧
        (¬complete → try_ = false → exec i s = .next parked))

-- Engines and services at issue -----------------------------------------------------------------------------------------

/-- R43, R221, R262, R267, R273, R276 to R280: the copies and COLL. The first check that fails decides; where none fails
the operation is counted on CP and stands in the core's list, its expected bytes are posted, its lines marked EMPTY, and
no byte of memory has moved yet; where it posts bytes, a phase that completes may write caches back (R224). CPQRY reads.
Readings of the model: log 29. -/
def Obligations.CopiesIssue : Prop :=
  ∀ (b a d : BitVec 7) (s : State),
    let c := s.cur.core
    let starts := fun (i : Instr) (o : CopyOp) (mark : List Nat) (first : Instr) =>
      ∃ t, exec i s = .next t ∧ WentTo s t s.after_ ∧ KeepsOthers s t ∧ WroteBack s t ∧ t.dram = s.dram ∧
        t.me = { s.me with eng := t.me.eng, issued := t.me.issued, parts := t.me.parts } ∧
        t.me.eng.map OpRec.id = s.me.eng.map OpRec.id ++ [s.nextId] ∧
        t.myCore.copies = s.myCore.copies ++ [{ o with id := s.nextId, agent := s.cur.agent, word := s.cur.word, pc := s.pc }] ∧
        first ∈ t.pending ∧
        (∀ l, l ∈ t.myCore.emptyLines ↔ l ∈ mark ∨ l ∈ s.myCore.emptyLines) ∧
        (o.bar = none → KeepsPools s t ∧ t.mem = s.mem ∧ t.pending = s.pending ++ [first]) ∧
        ∀ name, o.bar = some name → t.barGet c (barAt name) =
          settledBar { s.barGet c (barAt name) with bytes := (s.barGet c (barAt name)).bytes + o.due }
    let barred := fun (i : Instr) =>
      s.copyGate ([(a, 64), (b, 64)] ++ if isScalar d then [(d, 128)] else []) = .ok () →
      (s.me.role ≠ .copy → exec i s = .next s.roleViolation) ∧
      (s.me.role = .copy → copyRegsOk b a d = false → exec i s = .next s.illegalOperand)
    let said := fun (o : CopyOp) (fn : Nat) => s.me.role = .copy ∧ s.me.eng.length < 63 ∧ o.fn = fn ∧ o.cmd = s.sval b ∧
      o.bar = (if (s.sval b).getLsbD 11 then some (s.sval d) else none) ∧
      o.sig = (if (s.sval b).getLsbD 12 then some (s.sval (d + 1)) else none)
    let copies := fun (i : Instr) (fn : Nat) =>
      barred i ∧ (∀ e, s.copyChecks fn b a d = .error e → exec i s = .next e) ∧
      ∀ o mark, s.copyChecks fn b a d = .ok (o, mark) →
        said o fn ∧ (mark ≠ [] → (s.sval b).getLsbD 10 = true) ∧ starts i o mark (.copyLand c s.nextId)
    let reads := fun (k : Nat) (x : W64) (after : Agent) =>
      a.toNat = k → ∃ t, exec (.cpqry a d) s = .next t ∧ OnlyMe s t ∧ Passed s t ∧ WroteS s t d x ∧
        t.me = { after with s := t.me.s, parts := t.me.parts }
    copies (.cpyin b a d) 0 ∧ copies (.cpyout b a d) 1 ∧ copies (.cpyss b a d) 2 ∧ copies (.ppush b a d) 3 ∧
    copies (.ppull b a d) 4 ∧ copies (.cpyg b a d) 6 ∧
    barred (.coll b a d) ∧ (∀ e, s.collChecks b a d = .error e → exec (.coll b a d) s = .next e) ∧
    (∀ o, s.collChecks b a d = .ok o → said o 5 ∧ starts (.coll b a d) o [] (.collStart c s.nextId)) ∧
    (s.copyGate [] = .ok () →
      (s.me.role ≠ .copy → exec (.cpqry a d) s = .next s.roleViolation) ∧
      (s.me.role = .copy → (isSz d = false ∨ 4 ≤ a.toNat) → exec (.cpqry a d) s = .next s.illegalOperand) ∧
      (s.me.role = .copy → isSz d = true → s.interlock [] [(d, 64)] = .ok () →
        let held := (s.myCore.copies.filter fun o => o.agent == s.cur.agent && o.suspended.isSome).length
        reads 0 (BitVec.ofNat 64 (s.me.eng.length + held * 64)) s.me ∧ reads 1 (s.me.cflags.setWidth 64) s.me ∧
        reads 2 (s.me.cflags.setWidth 64) { s.me with cflags := 0 } ∧ reads 3 s.me.cfault { s.me with cfault := 0 }))

/-- R146, R147, R152 to R162, R172 to R177, R487: the MTX group at issue. GANG enters or leaves a gang; the members of a
gang arrive at a joint instruction, and the last arrival closes it; WLOAD, MZERO and MDRAIN take their place in the Vat
order; no element of a slot changes yet. Readings of the model: log 29. -/
def Obligations.MatrixIssue : Prop :=
  ∀ (b a d : BitVec 7) (s : State),
    let c := s.cur.core
    let one := s.me.usedSlots.length ≤ 1
    let head := fun (reads writes : List Opnd) (ok : Bool) => s.mtxHead reads writes ok = .ok ()
    let queued := fun (i : Instr) (kind : VatKind) (more : State → Prop) =>
      ∃ t, exec i s = .next t ∧ WentTo s t s.after_ ∧ KeepsOthers s t ∧ t.mem = s.mem ∧ t.dram = s.dram ∧
        t.me = { s.me with eng := t.me.eng, issued := t.me.issued, parts := t.me.parts } ∧
        t.me.eng.map OpRec.id = s.me.eng.map OpRec.id ++ [s.nextId] ∧
        t.myCore.vatQ = s.myCore.vatQ ++ [{ id := s.nextId, agent := s.cur.agent, kind := kind }] ∧
        t.pending = s.pending ++ [.vatComplete c s.nextId] ∧ t.myCore.acc = s.myCore.acc ∧ more t
    let v := s.sval a
    let g : BitVec 16 := v.setWidth 16
    let n := gangCount g
    let lr := s.myCore.lr
    let legal := v.toNat < 2 ^ 16 ∧ v.toNat % 256 = 0 ∧ n ≠ 1 ∧ n ≠ 7 ∧ (n = 0 → g = 0) ∧
      (n ≠ 0 → gangBase g + n ≤ lr.nwaves ∧ (∀ k, k < n → lr.waveRole (gangBase g + k) = some 0) ∧
        gangBase g ≤ s.me.index ∧ s.me.index < gangBase g + n) ∧
      s.holdsBaton = false ∧ s.batonPending = false ∧
      ¬(s.me.gng ≠ 0 ∧ ∃ r ∈ s.myCore.rdv, r.wg = s.me.wg ∧ r.gng = s.me.gng ∧ ∃ x ∈ r.arrived, x.agent ≠ s.cur.agent)
    let arrives := fun (i : Instr) (fn slot off : Nat) (ctl : W64) (closed : Rdv → State → Prop) =>
      let arr : Arrival := { agent := s.cur.agent, part := s.cur.part, slot := s.accSlot slot, d := slot, a := off, ctl := ctl }
      let old := (s.myCore.rdv.find? fun r => r.wg == s.me.wg && r.gng == s.me.gng).getD
        { wg := s.me.wg, gng := s.me.gng, fn := fn, arrived := [] }
      let new : Rdv := { old with arrived := old.arrived ++ [arr] }
      (∀ r ∈ s.myCore.rdv, r.wg = s.me.wg → if r.gng = s.me.gng then r.fn = fn else gangsMeet r.gng s.me.gng = false) →
        (new.arrived.length ≠ gangCount s.me.gng →
          exec i s = .next ((s.park .rdv).modMyCore fun x => { x with rdv := x.rdv.erase old ++ [new] })) ∧
        (new.arrived.length = gangCount s.me.gng → (new.arrived.map Arrival.agent).Nodup →
          (∀ x ∈ new.arrived, ((s.agentD c x.agent).parts.find? x.part).isSome ∧ (s.agent? c x.agent).isSome) →
          ∃ t, exec i s = .next t ∧ t.mem = s.mem ∧ t.dram = s.dram ∧ KeepsPools s t ∧ t.myCore.acc = s.myCore.acc ∧
            (∀ k, (∀ x ∈ new.arrived, x.agent ≠ k) → t.agent? c k = s.agent? c k) ∧
            (∀ c' k, c' ≠ c → t.agent? c' k = s.agent? c' k) ∧ closed new t)
    let resumed := fun (r : Rdv) (t : State) => ∀ x ∈ r.arrived, ∃ p stamp,
      (s.agentD c x.agent).parts.find? x.part = some p ∧
      (t.agentD c x.agent).parts.find? x.part =
        some { p with pc := p.pc + BitVec.ofNat 64 (p.latch.elim 4 Latch.len), wait := none, expired := false, stamp := stamp,
                      op := none, latch := none }
    let joint := fun (i : Instr) (fn : Nat) (held : Bool) (closed : Rdv → State → Prop) =>
      head [] [] true →
        (gangCount s.me.gng = 0 → exec i s = .next (s.trap 0x0A (gangInfo s.me.gng fn))) ∧
        (gangCount s.me.gng ≠ 0 → one → s.holdsBaton = (!held) → exec i s = .next s.illegalOperand) ∧
        (gangCount s.me.gng ≠ 0 → one → s.holdsBaton = held → arrives i fn 0 0 0 closed)
    let mma := fun (i : Instr) (fn : Nat) =>
      (∀ e, s.mmaChecks fn b a d = .error e → exec i s = .next e) ∧
      ∀ off w, s.mmaChecks fn b a d = .ok (off, w) →
        off = v.toNat % 2 ^ 23 ∧ w = s.sval b ∧ s.holdsBaton = true ∧ s.myCore.nomActive.valid = true ∧ d.toNat < s.me.slots ∧
        arrives i fn d.toNat off w fun r t =>
          let ms := (r.arrived.zip (List.range r.arrived.length)).map fun p => { p.1 with op := s.nextId + 1 + p.2 }
          t.myCore.vatQ = s.myCore.vatQ ++ [{ id := s.nextId, agent := s.cur.agent, kind := .mma (fn == 6) ms }] ∧
          t.pending = s.pending ++ [.vatComplete c s.nextId] ∧ resumed r t ∧
          ∀ x ∈ ms, (t.agentD c x.agent).eng.map OpRec.id = (s.agentD c x.agent).eng.map OpRec.id ++ [x.op]
    (head [(a, 64)] [] (isSz a) → one →
      (¬legal → exec (.gang a) s = .next s.illegalOperand) ∧
      (legal → ∃ t, exec (.gang a) s = .next t ∧ OnlyMe s t ∧ Passed s t ∧ t.me = { s.me with gng := g, parts := t.me.parts })) ∧
    joint .vacq 1 false (fun r t =>
      let q := s.myCore.batonQ ++ [(r.wg, r.gng)]
      (s.myCore.baton = none → t.myCore.baton = q.head? ∧ t.myCore.batonQ = q.tail) ∧
      (∀ h, s.myCore.baton = some h → t.myCore.baton = some h ∧ t.myCore.batonQ = q) ∧
      ∀ x ∈ r.arrived, ∃ p, (s.agentD c x.agent).parts.find? x.part = some p ∧
        (t.agentD c x.agent).parts.find? x.part = some { p with wait := some .baton }) ∧
    joint .vrel 2 true (fun r t =>
      t.myCore.baton = s.myCore.batonQ.head? ∧ t.myCore.batonQ = s.myCore.batonQ.tail ∧ resumed r t) ∧
    joint .wswap 4 true (fun r t =>
      t.myCore.nomActive = s.myCore.nomShadow ∧ t.myCore.nomShadow = s.myCore.nomActive ∧
      t.myCore.swaps = (s.myCore.swaps + 1) % 2 ^ 32 ∧
      t.myCore.vatQ = s.myCore.vatQ ++ [{ id := s.nextId, agent := s.cur.agent, kind := .wswap }] ∧
      t.pending = s.pending ++ [.wswapEffect c] ∧ resumed r t) ∧
    mma (.mma b a d) 5 ∧ mma (.mmac b a d) 6 ∧
    (∀ e, s.wloadChecks a = .error e → exec (.wload a) s = .next e) ∧
    (∀ x, s.wloadChecks a = .ok x → s.holdsBaton = true ∧
      queued (.wload a) (.wload x.tile x.scales x.book x.stride x.fmt x.sc) fun t =>
        KeepsPools s t ∧ t.myCore.nomActive = s.myCore.nomActive ∧
        t.myCore.nomShadow = { fmt := x.fmt, sc := x.sc, exact := x.fmt == 8 && bookExact x.book, valid := true,
                               load := some s.nextId }) ∧
    (head [] [] (decide (d.toNat < 16)) → one →
      (s.me.slots ≤ d.toNat → exec (.mzero d) s = .next s.illegalOperand) ∧
      (d.toNat < s.me.slots → s.me.room .eng = false → exec (.mzero d) s = .next s) ∧
      (d.toNat < s.me.slots → s.me.room .eng = true → queued (.mzero d) (.mzero (s.accSlot d.toNat)) fun t => KeepsPools s t)) ∧
    (∀ e, s.mdrainChecks a d = .error e → exec (.mdrain a d) s = .next e) ∧
    (∀ x, s.mdrainChecks a d = .ok x → d.toNat < s.me.slots ∧
      queued (.mdrain a d) (.mdrain (s.accSlot d.toNat) d.toNat x) fun t =>
        (x.bar < 2 ^ 31 → KeepsPools s t ∧ t.myCore.emptyLines = s.myCore.emptyLines) ∧
        (2 ^ 31 ≤ x.bar →
          let at_ := BarAt.pool (x.bar % 2 ^ 23)
          let old := s.barGet c at_
          t.barGet c at_ = settledBar { old with bytes := old.bytes + 64 * vatRow x.ofmt } ∧
          ∀ l, l ∈ t.myCore.emptyLines ↔ l ∈ linesOf x.out (64 * vatRow x.ofmt) ∨ l ∈ s.myCore.emptyLines)) ∧
    (head [] [(d, 64)] (isSz d && decide (a.toNat < 4)) → one →
      let x := s.myCore
      let gives := fun (k : Nat) (y : Nat) => a.toNat = k → WritesScalar d (fun _ => BitVec.ofNat 64 y) s (exec (.mqry a d) s)
      gives 0 ((if s.holdsBaton then 1 else 0) + (if s.batonPending then 2 else 0) + x.batonQ.length % 256 * 2 ^ 8) ∧
      gives 1 (x.bankWord x.nomActive) ∧ gives 2 (x.bankWord x.nomShadow) ∧
      gives 3 (x.lr.slotTotal + s.me.slots * 2 ^ 5 + s.me.slot * 2 ^ 10))

/-- R326 to R335, R340: the PIPE group. A reservation takes the first free slot, of the vault before the Whey, or waits;
a commit, a release and a seal set out; a consumer takes the next ticket, or learns CLOSED or YIELD; PQRY reads, for either
side. No
register but D, and no byte of memory but by write-backs, changes. Readings of the model: log 39. -/
def Obligations.PipeInstructions : Prop :=
  ∀ (b a d : BitVec 7) (s : State),
    let c := s.cur.core
    let me := s.pipeWait d
    let at_ := fun (t : State) (pl n : Nat) => (t.plans.find? pl).bind fun p => p.pipes[n]?
    let goes := fun (i : Instr) (pl n : Nat) (q : PipeSt) (more : State → Prop) =>
      ∃ t, exec i s = .next t ∧ WentTo s t s.after_ ∧ KeepsOthers s t ∧ KeepsPools s t ∧ WroteBack s t ∧ t.dram = s.dram ∧
        t.me = { s.me with s := t.me.s, parts := t.me.parts } ∧ at_ t pl n = some q ∧ more t
    let keeps := fun (t : State) => ∀ k, t.me.sget k = s.me.sget k
    let scalar := fun (i : Instr) (reads writes : List Opnd) (ok : Bool) (fn : Nat) (side : PipeSt → List Nat)
        (does : Nat → Nat → PipeSt → Prop) =>
      s.interlock reads writes = .ok () →
        (ok = false → exec i s = .next s.illegalOperand) ∧
        (ok = true → (∀ e, s.pipeOf fn a side = .error e → exec i s = .next e) ∧
          ∀ pl n q, s.pipeOf fn a side = .ok (pl, n, q) → does pl n q)
    scalar (.prsv a d) [(a, 64)] [(d, 64)] (isSz a && isSz d) 0 (fun q => [q.producer]) (fun pl n q =>
      let takes := fun (p : SlotAt) (r : PipeSt) =>
        goes (.prsv a d) pl n { r with tNext := q.tNext + 1,
                                       tickets := q.tickets ++ [{ t := q.tNext, at_ := p, wg := s.myUid, st := .reserved }] }
          fun t => WroteS s t d (BitVec.ofNat 64 q.tNext) ∧ t.pending = s.pending
      let waits := exec (.prsv a d) s =
        .next (((s.setPipe pl n { q with waitP := q.waitP ++ [me] }).park (.prsv pl n)).due (.reserveServed pl n))
      (q.sealedP = true → exec (.prsv a d) s = .next (s.pipeError 0x04 n 0)) ∧
      (q.sealedP = false → q.waitP ≠ [] → waits) ∧
      (q.sealedP = false → q.waitP = [] →
        (∀ k f, q.vfree.pop = some (k, f) → takes (.vault k) { q with vfree := f }) ∧
        (q.vfree.pop = none → (q.flags % 2 = 1 ∨ q.spillOpen = true) →
          ∀ k f, q.wfree.pop = some (k, f) → takes (.whey k) { q with wfree := f, spills := q.spills + 1 }) ∧
        (q.vfree.pop = none → ((q.flags % 2 ≠ 1 ∧ q.spillOpen = false) ∨ q.wfree.pop = none) → waits))) ∧
    scalar (.pcmt b a) [(a, 64), (b, 64)] [] (isSz a && isSz b) 1 (fun q => [q.producer]) (fun pl n q =>
      let t := (s.sval b).toNat
      let mine := q.tickets.any fun u => u.t == t && u.wg == s.myUid && u.st == .reserved
      (mine = false → exec (.pcmt b a) s = .next (s.pipeError 0x03 n 1)) ∧
      (mine = true → s.me.faults = [] → s.pushing c s.me.wg pl n t = true → exec (.pcmt b a) s = .next (s.park (.pcmt pl n t))) ∧
      (mine = true → s.me.faults = [] → s.pushing c s.me.wg pl n t = false →
        goes (.pcmt b a) pl n { q with tickets := q.tickets.map fun u => if u.t = t then { u with st := .committed } else u }
          fun x => keeps x ∧ x.pending = (s.release c q.scope).pending ++ [.commitArrive pl n t])) ∧
    scalar (.crsv a d) [(a, 64)] [(d, 128)] (isSz a && evenScalar d) 2 (fun q => [q.consumer]) (fun pl n q =>
      let mine := fun (v : PipeWait) => v.core == me.core && v.agent == me.agent && v.part == me.part
      let rest : PipeSt := { q with waitC := q.waitC.filter fun v => !(mine v) }
      let first := q.waitC.head?.all mine
      let moving := s.myCore.moving
      (moving = true → goes (.crsv a d) pl n rest fun t => WrotePair s t d 0xFFFFFFFFFFFFFFFF 2) ∧
      (moving = false → q.closed = true → goes (.crsv a d) pl n rest fun t => WrotePair s t d 0xFFFFFFFFFFFFFFFF 1) ∧
      (moving = false → q.closed = false → first = true → 0 < q.cfree →
        goes (.crsv a d) pl n (rest.deliver s.myUid) fun t => WrotePair s t d (BitVec.ofNat 64 q.h) 0) ∧
      (moving = false → q.closed = false → (first = false ∨ q.cfree = 0) → exec (.crsv a d) s =
        .next ((s.setPipe pl n { q with waitC := if q.waitC.any mine then q.waitC else q.waitC ++ [me] }).park (.crsv pl n)))) ∧
    scalar (.crel b a) [(a, 64), (b, 64)] [] (isSz a && isSz b) 3 (fun q => [q.consumer]) (fun pl n q =>
      let t := (s.sval b).toNat
      let held := (q.tickets.any fun u => u.t == t && u.wg == s.myUid && u.st == .delivered) && !(q.flying.any fun f => f.1 == t)
      (held = false → exec (.crel b a) s = .next (s.pipeError 0x03 n 3)) ∧
      (held = true → goes (.crel b a) pl n { q with flying := q.flying ++ [(t, s.myUid)] }
        fun x => keeps x ∧ x.pending = s.pending ++ [.releaseArrive pl n t])) ∧
    scalar (.pseal a) [(a, 64)] [] (isSz a) 4 (fun q => [q.producer]) (fun pl n q =>
      goes (.pseal a) pl n q fun t => keeps t ∧
        t.pending = s.pending ++ if q.sealedP then [] else [.sealArrive pl n false]) ∧
    scalar (.pqry b a d) [(a, 64)] [(d, 64)] (isSz a && isSz d && decide (b.toNat < 8)) 5 (fun q => [q.producer, q.consumer]) (fun _ _ q =>
      let gives := fun (k : Nat) (x : Nat) => b.toNat = k → WritesScalar d (fun _ => BitVec.ofNat 64 x) s (exec (.pqry b a d) s)
      gives 0 (q.vfree.size % 2 ^ 13) ∧ gives 1 (min q.cfree 4096) ∧ gives 2 q.tNext ∧ gives 3 q.h ∧
      gives 4 (q.wfree.size % 2 ^ 25) ∧
      gives 5 ((if q.sealedP then 1 else 0) + (if q.closed then 2 else 0) + (if q.spillOpen then 4 else 0)) ∧
      gives 6 (q.occMean % 2 ^ 9) ∧ gives 7 (q.spills % 2 ^ 32 + q.voided % 2 ^ 32 * 2 ^ 32))

/-- R344 to R348, R352, R357, R364 to R369: the ATTN group at issue, where its gates are open. LSUB and LSEAL answer a
status after a release; LPASS answers or joins the waiting contexts; HMRG sends the partial; HGET answers a slot's
state, HREL frees a slot, LQRY reads. Readings of the model: logs 29, 35 and 37. -/
def Obligations.AttnInstructions : Prop :=
  ∀ (b a d : BitVec 7) (s : State),
    let one := s.attnGate [(a, 64)] = .ok ()
    let two := s.attnGate [(a, 64), (b, 64)] = .ok ()
    let c := s.cur.core
    let ctx := s.myCtx
    let va := s.sval a
    let v := s.sval b
    let wrote := fun (i : Instr) (st : W64) (more : State → Prop) =>
      ∃ t, exec i s = .next t ∧ WentTo s t s.after_ ∧ KeepsOthers s t ∧ KeepsPools s t ∧ WroteBack s t ∧
        t.me = { s.me with s := t.me.s, parts := t.me.parts } ∧ WroteS s t d st ∧ more t
    let counted := fun (i : Instr) (more : State → Prop) =>
      ∃ t, exec i s = .next t ∧ WentTo s t s.after_ ∧ KeepsOthers s t ∧ KeepsPools s t ∧
        t.me = { s.me with xc := t.me.xc, issued := t.me.issued, parts := t.me.parts } ∧
        t.me.xc.map OpRec.id = s.me.xc.map OpRec.id ++ [s.nextId] ∧ more t
    -- LSUB
    let u := s.release c 3
    let desc := match u.sweep? ctx va with
      | some w => some w
      | none => (u.homeBytes ctx va 64).bind (u.sweepOf ctx 0 va)
    let opens := (s.sweep? ctx va).isNone && decide (s.sweeps.length < 16)
    (two → isSz a = true → isSz b = true → isSz d = true → s.interlock [(a, 64), (b, 64)] [(d, 64)] = .ok () →
      va.toNat % 64 = 0 → v.toNat % 32 = 0 → s.sweepGate va = .ok () → s.mapped ctx .r v 32 = true → s.me.faults = [] →
      u.pageGate ((if opens then [u.awaited ctx .r va 64] else []) ++ [u.awaited ctx .r v 32]) = .ok () →
      u.recordGate desc v = .ok () →
      let sub := wrote (.lsub b a d)
      (∀ w, u.sweep? ctx va = some w →
        (w.st = .sealed ∨ w.st = .done → sub 2 fun t => t.sweeps = s.sweeps) ∧
        ((w.st = .open_ ∨ w.st = .running) → u.queryOf w v = none → sub 4 fun t => t.sweeps = s.sweeps) ∧
        ((w.st = .open_ ∨ w.st = .running) → ∀ x q, u.queryOf w v = some (x, q) →
          ((w.slots.find? x).isSome = true → sub 3 fun t => t.sweeps = s.sweeps) ∧
          (w.slots.find? x = none → sub (if w.st = .running then 1 else 0) fun t =>
            ∃ y, t.sweep? ctx va = some y ∧ y.slots = w.slots.put x q ∧ y.st = w.st ∧
              y.late = w.late + (if w.st = .running then 1 else 0)))) ∧
      (u.sweep? ctx va = none → (s.ctx ctx).st ≠ .active → ∃ k, (k = 5 ∨ k = 6) ∧ sub k fun t => t.sweeps = s.sweeps) ∧
      (u.sweep? ctx va = none → (s.ctx ctx).st = .active →
        (16 ≤ s.sweeps.length → sub 6 fun t => t.sweeps = s.sweeps) ∧
        (s.sweeps.length < 16 → ((u.homeBytes ctx va 64).bind
            (u.sweepOf ctx (match s.myCore.run with | .stage pl _ => pl | _ => 0) va) = none ∨ s.planOf = none) →
          sub 5 fun t => t.sweeps = s.sweeps) ∧
        (s.sweeps.length < 16 → ∀ w pl st p, (u.homeBytes ctx va 64).bind (u.sweepOf ctx pl va) = some w →
          s.planOf = some (pl, st, p) → w.stage < p.stages.length →
          (u.queryOf w v = none → sub 4 fun t => t.sweeps = s.sweeps) ∧
          ∀ x q, u.queryOf w v = some (x, q) →
            (u.mergeBase w.leadDie w.nslots = none → sub 6 fun t => t.sweeps = s.sweeps) ∧
            ∀ k, u.mergeBase w.leadDie w.nslots = some k → sub 0 fun t =>
              ∃ y, t.sweeps = s.sweeps ++ [y] ∧ y.ctx = ctx ∧ y.addr = va ∧ y.st = .open_ ∧ y.slots = [(x, q)] ∧ y.base = k))) ∧
    -- LSEAL
    (one → isSz a = true → isSz d = true → b.toNat < 2 → s.interlock [(a, 64)] [(d, 64)] = .ok () → s.sweepGate va = .ok () →
      s.me.faults = [] →
      (s.sweep? ctx va = none → wrote (.lseal b a d) 1 fun t => t.sweeps = s.sweeps) ∧
      ∀ w, s.sweep? ctx va = some w →
        ((w.st = .sealed ∨ w.st = .done ∨ (w.st = .running ∧ b.toNat = 0)) → wrote (.lseal b a d) 0 fun t => t.sweeps = s.sweeps) ∧
        (w.st = .open_ → b.toNat = 0 → wrote (.lseal b a d) 0 fun t =>
          t.sweep? ctx va = some { w with st := .running } ∧
          t.pending = u.pending ++ (List.range 4).map fun k => Instr.passBegin w.ctx w.addr k) ∧
        ((w.st = .open_ ∨ w.st = .running) → b.toNat = 1 → ∃ t, exec (.lseal b a d) s = .next t ∧ WentTo s t s.after_ ∧
          KeepsOthers s t ∧ KeepsPools s t ∧ WroteS s t d 0 ∧
          ∀ y, t.sweep? ctx va = some y → y.st = .sealed ∨ y.st = .done)) ∧
    -- LPASS
    (two →
      (s.me.role ≠ .copy → exec (.lpass b a d) s = .next s.roleViolation) ∧
      (s.me.role = .copy → (isSz a && isSz b && evenScalar d) = false → exec (.lpass b a d) s = .next s.illegalOperand) ∧
      (s.me.role = .copy → isSz a = true → isSz b = true → evenScalar d = true →
        s.interlock [(a, 64), (b, 64)] [(d, 128)] = .ok () → s.sweepGate va = .ok () →
        let me := s.pipeWait d
        let mine := fun (x : LpassWait) => x.at_.core == me.core && x.at_.agent == me.agent && x.at_.part == me.part
        let answers := fun (k : W64) => ∃ t, exec (.lpass b a d) s = .next t ∧ Passed s t ∧ KeepsOthers s t ∧ KeepsMemory s t ∧
          WrotePair s t d k 0 ∧ t.me = { s.me with s := t.me.s, parts := t.me.parts }
        (∀ l, s.sweep? ctx va = none → s.landDesc v = .ok l → answers 4) ∧
        ∀ w l, s.sweep? ctx va = some w → ((w.waiting.any mine) = true ∨ s.landDesc v = .ok l) →
          let here := s.onStage c w
          let moves := s.myCore.moving && !(w.passes.any fun p => p.holder == some s.myUid)
          let ended := (w.st == .sealed || w.st == .done) && s.sweepIdle w
          (here = false → answers 3) ∧ (here = true → moves = true → answers 2) ∧
          (here = true → moves = false → ended = true → answers 1) ∧
          (here = true → moves = false → ended = false → ∃ t, exec (.lpass b a d) s = .next t ∧
            t.myPart = (s.park (.lpass va)).myPart ∧ KeepsOthers s t ∧ KeepsMemory s t ∧
            t.pending = s.pending ++ [.batchAssign ctx va c s.cur.agent] ∧
            ∃ y, t.sweep? ctx va = some y ∧ (y.waiting.any mine) = true ∧ y.slots = w.slots ∧ y.passes = w.passes))) ∧
    -- HMRG
    (two → isSz a = true → isSz b = true → s.interlock [(a, 64), (b, 64)] [] = .ok () →
      (2 ^ 23 ≤ v.toNat → exec (.hmrg b a) s = .next s.illegalOperand) ∧
      (v.toNat < 2 ^ 23 → s.sweepGate va = .ok () → s.poolGate v.toNat 528 = .ok () →
        ∀ bs, s.poolBytes v.toNat 528 = .ok bs → s.me.room .xc = true → counted (.hmrg b a) fun t =>
          t.sweeps = s.sweeps ∧ t.pending = s.pending ++ [.partialArrive s.nextId] ∧
          let p : Partial := { ord := leNat ((bs.drop 4).take 4), m := BitVec.ofNat 32 (leNat ((bs.drop 8).take 4)),
                               l := BitVec.ofNat 32 (leNat ((bs.drop 12).take 4)), o := (Partial.ofBytes bs).o }
          t.msgs = s.msgs ++ [{ id := s.nextId, core := c, agent := s.cur.agent, ctx := ctx,
                                kind := .partial_ va (leNat (bs.take 4)) p none }])) ∧
    -- HREL
    (two → isSz a = true → isSz b = true → s.interlock [(a, 64), (b, 64)] [] = .ok () →
      (1024 ≤ v.toNat → exec (.hrel b a) s = .next s.illegalOperand) ∧
      (v.toNat < 1024 → s.sweepGate va = .ok () → s.me.room .xc = true →
        (s.sweep? ctx va = none → counted (.hrel b a) fun t => t.sweeps = s.sweeps ∧
          t.pending = s.pending ++ [.accessComplete c s.cur.agent .xc s.nextId]) ∧
        ∀ w, s.sweep? ctx va = some w → s.hoopWait = [] → w.st = .open_ ∨ w.st = .running → counted (.hrel b a) fun t =>
          t.pending = s.pending ++ [.accessComplete c s.cur.agent .xc s.nextId] ∧
          t.sweep? ctx va = some { w with slots := w.slots.del v.toNat,
                                          catchups := w.catchups.filter fun p => p.2.slot != v.toNat })) ∧
    -- LQRY
    (one → isSz a = true → isSz d = true → b.toNat < 4 → s.interlock [(a, 64)] [(d, 64)] = .ok () → s.sweepGate va = .ok () →
      WritesScalar d (fun _ => (s.sweep? ctx va).elim 0 fun w => w.query b.toNat) s (exec (.lqry b a d) s)) ∧
    -- HGET: a slot that is not ACTIVE, or a try-wait that is over or may not wait
    (two → isSz a = true → isSz b = true → isSz d = true → s.interlock [(a, 64), (b, 64)] [(d, 64)] = .ok () →
      let x := v.toNat % 1024
      let off := v.toNat / 2 ^ 16 % 2 ^ 23
      (¬(v.toNat / 2 ^ 10 % 2 ^ 6 = 0 ∧ v.toNat < 2 ^ 39) → exec (.hget b a d) s = .next s.illegalOperand) ∧
      (v.toNat / 2 ^ 10 % 2 ^ 6 = 0 → v.toNat < 2 ^ 39 → s.sweepGate va = .ok () → s.poolGate off 528 = .ok () →
        s.myPart.op = none → s.me.room .xc = true →
        let slot := (s.sweep? ctx va).bind fun w => w.slots.find? x
        (slot.map QSlot.st ≠ some .complete → (slot.map QSlot.st = some .active → s.myPart.expired = true ∨ s.me.twh = 0) →
          ∃ t, exec (.hget b a d) s = .next t ∧ Passed s t ∧ KeepsOthers s t ∧ KeepsMemory s t ∧
            WroteS s t d (hgetStatus (s.sweep? ctx va) x) ∧
            t.pending = s.pending ++ [.accessComplete c s.cur.agent .xc s.nextId] ∧
            t.me = { s.me with s := t.me.s, xc := t.me.xc, issued := t.me.issued, parts := t.me.parts }) ∧
        (slot.map QSlot.st = some .active → s.myPart.expired = false → s.me.twh ≠ 0 →
          ∃ t, exec (.hget b a d) s = .next t ∧ t.myPart = { (s.park (.hget va x)).myPart with op := some s.nextId } ∧
            t.pending = s.pending ++ [.trywaitExpire c s.cur.agent s.cur.part] ∧ KeepsMemory s t) ∧
        (∀ q, slot = some q → q.st = .complete → s.emptyGate 528 [(0, ownPool off)] = .ok () →
          ∃ t, exec (.hget b a d) s = .next t ∧ WentTo s t s.after_ ∧ KeepsOthers s t ∧ WroteBack s t ∧
            WroteS s t d (hgetStatus (s.sweep? ctx va) x) ∧
            ∀ p, t.myCore.pool.get p = (if off ≤ p ∧ p < off + 528 then
              (Partial.toBytes { q.acc with ord := q.pages.length } x).getD (p - off) 0 else s.myCore.pool.get p))))

/-- R343, R376, R385 to R392: the INVK group at issue. A spawn completes with the lowest free handle, and its record sets out;
HRES answers a settled handle, HDROP drops one, RRET sets out its resolution and waits; JCAN sets out to every device of the
context; SIGDEC and SIGADD issue as accesses of 16 bytes at SYS; SIGWAIT answers its test; PLNCH is counted, and its record sets
out, for the controller to answer in D. Readings of the model: logs 38 and 41. -/
def Obligations.InvkInstructions : Prop :=
  ∀ (b a d : BitVec 7) (s : State),
    let c := s.cur.core
    let ctx := s.myCtx
    let va := s.sval a
    let v := s.sval b
    let u := s.release c 4
    let me := s.cur.agent
    let message := fun (k : MsgKind) => ({ id := s.nextId, core := c, agent := me, ctx := ctx, kind := k, task := s.myTask } : Msg)
    let pair := fun (i : Instr) (lo hi : W64) (more : State → Prop) =>
      ∃ t, exec i s = .next t ∧ WentTo s t s.after_ ∧ KeepsOthers s t ∧ KeepsPools s t ∧ WroteBack s t ∧ WrotePair s t d lo hi ∧
        t.me = { s.me with s := t.me.s, xc := t.me.xc, issued := t.me.issued, parts := t.me.parts } ∧ more t
    let spawns := fun (i : Instr) (reads : List Opnd) (ok : Bool) (how : Spawn) (rec_ : W64) (gate : Prop) =>
      s.interlock reads [(d, 128)] = .ok () →
        (ok = false → exec i s = .next s.illegalOperand) ∧
        (ok = true → gate → s.recGate rec_ = .ok () → u.laneBad c .stream 1 rec_ 32 = false →
          let x := u.lane c .stream 1 32 { lane := 0, va := rec_, data := 0, data2 := 0 }
          let bs := leBytes x.2 32
          let job : BitVec 32 := BitVec.ofNat 32 (leNat ((bs.drop 4).take 4))
          (job ∈ (s.ctx ctx).cancel → pair i 0 1 fun t => t.hrt = s.hrt ∧ t.msgs = s.msgs ∧ t.pending = x.1.pending) ∧
          (job ∉ (s.ctx ctx).cancel → s.freeEntry = none → pair i 0 2 fun t => t.hrt = s.hrt ∧ t.msgs = s.msgs) ∧
          (job ∉ (s.ctx ctx).cancel → ∀ k, s.freeEntry = some k →
            let gen := (s.hrt.getD k {}).gen
            let h := s.handleOf k gen
            pair i h 0 fun t =>
              (∃ e, t.hrt = s.hrt.put (s.hkey h) e ∧ e.st = .pending ∧ e.owner = ctx ∧ e.gen = gen ∧ e.dropped = false ∧
                e.sig = BitVec.ofNat 64 (leNat ((bs.drop 24).take 8))) ∧
              t.me.xc.map OpRec.id = s.me.xc.map OpRec.id ++ [x.1.nextId] ∧
              let sent := fun (e : Instr) => t.pending = x.1.pending ++ [e] ∧ t.msgs.length = s.msgs.length + 1
              let lost := t.pending = x.1.pending ++
                [.handleSettle h (.broken 3 0 h), .accessComplete c me .xc x.1.nextId] ∧ t.msgs = s.msgs
              match how with
              | .here => sent (.taskEnqueue (.own x.1.nextId))
              | .to dev => if s.holdsCtx ctx dev = true then sent (.taskEnqueue (.own x.1.nextId)) else lost
              | .input i => if s.holdsCtx ctx (handleHome i) = true then sent (.invocationArrive (.own x.1.nextId)) else lost))
    let two := isSz a && isSz b && evenScalar d
    spawns (.rinv b a d) [(a, 64), (b, 64)] two (.to (if va.toNat = 1024 then u.anyDevice ctx else va.toNat)) v
      (va.toNat ≤ 1024) ∧
    (s.interlock [(a, 64), (b, 64)] [(d, 128)] = .ok () → two = true → 1024 < va.toNat →
      exec (.rinv b a d) s = .next s.illegalOperand) ∧
    spawns (.rinvh b a d) [(a, 64), (b, 64)] two (.input va) v True ∧
    spawns (.tspawn a d) [(a, 64)] (isSz a && evenScalar d) .here va True ∧
    -- HRES
    (s.interlock [(a, 64)] [(d, 128)] = .ok () →
      let e := s.hentry ctx va
      ((isSz a && evenScalar d) = false → exec (.hres a d) s = .next s.illegalOperand) ∧
      (isSz a = true → evenScalar d = true →
        (va = 0 → pair (.hres a d) 0 4 fun t => OnlyMe s t) ∧
        (va ≠ 0 → s.holdsCtx ctx (handleHome va) = false → pair (.hres a d) va 0x303 fun t => OnlyMe s t) ∧
        (va ≠ 0 → s.holdsCtx ctx (handleHome va) = true → s.inFlight c me (handleHome va) = true → s.myPart.latch = none →
          exec (.hres a d) s = .next s) ∧
        (va ≠ 0 → s.holdsCtx ctx (handleHome va) = true → s.inFlight c me (handleHome va) = false →
          (e = none → pair (.hres a d) 0 0 fun t => OnlyMe s t) ∧
          ∀ y, e = some y →
            (y.st = .resolved → pair (.hres a d) y.addr (BitVec.ofNat 64 (2 + y.size * 2 ^ 16)) fun t => (t.core c).l1 = []) ∧
            (y.st = .broken → pair (.hres a d) y.cause
              (BitVec.ofNat 64 (3 + y.reason.toNat * 2 ^ 8 + y.detail.toNat * 2 ^ 16)) fun t => OnlyMe s t) ∧
            (y.st = .pending → (s.myPart.expired = true ∨ s.me.twh = 0) → pair (.hres a d) 0 1 fun t => OnlyMe s t) ∧
            (y.st = .pending → s.myPart.expired = false → s.me.twh ≠ 0 →
              exec (.hres a d) s = .next ((s.park (.hres va)).due (.trywaitExpire c me s.cur.part)))))) ∧
    -- HDROP
    (s.interlock [(a, 64)] [] = .ok () →
      (isSz a = false → exec (.hdrop a) s = .next s.illegalOperand) ∧
      (isSz a = true →
        (s.inFlight c me (handleHome va) = true → ∃ t, exec (.hdrop a) s = .next t ∧ WentTo s t s.after_ ∧
          t = { s.setMe t.me with nextId := s.nextId + 1, msgs := s.msgs ++ [message (.drop va)],
                                  pending := s.pending ++ [.invocationArrive (.own s.nextId)] } ∧
          t.me = { s.me with parts := t.me.parts }) ∧
        (s.inFlight c me (handleHome va) = false →
          (s.hentry ctx va = none → Goes s s.after_ (exec (.hdrop a) s)) ∧
          ∀ e, s.hentry ctx va = some e → ∃ t, exec (.hdrop a) s = .next t ∧ WentTo s t s.after_ ∧
            t = { s.setMe t.me with hrt := t.hrt } ∧ t.me = { s.me with parts := t.me.parts } ∧
            t.hrt.find? (s.hkey va) = some (if (e.st = .resolved ∨ e.st = .broken) ∧ e.waiting = [] then
              { gen := if handleHome va ≠ s.devNum then e.gen else if e.gen = 2 ^ 30 - 1 then 1 else e.gen + 1 }
              else { e with dropped := true }) ∧
            ∀ k, k ≠ s.hkey va → t.hrt.find? k = s.hrt.find? k))) ∧
    -- RRET
    (s.interlock [(a, 64), (b, 64)] [] = .ok () → isSz a = true → isSz b = true →
      ((s.myCore.wgs.find? s.me.wg).bind Wg.task = none → exec (.rret b a) s = .next s.illegalOperand) ∧
      ∀ g t, s.myCore.wgs.find? s.me.wg = some g → g.task = some t →
        ((2 ^ 48 ≤ v.toNat ∨ t.returned = true) → exec (.rret b a) s = .next s.illegalOperand) ∧
        (v.toNat < 2 ^ 48 → t.returned = false → s.me.faults = [] → ∃ x, exec (.rret b a) s = .next x ∧
          x.myPart = { s.myPart with wait := some (.rret t.handle) } ∧ WroteBack s x ∧ KeepsPools s x ∧ KeepsOthers s x ∧
          x.me = { s.me with parts := x.me.parts } ∧
          x.myCore.wgs.find? s.me.wg = some { g with task := some { t with returned := true } } ∧
          x.pending = u.pending ++ [.handleSettle t.handle (.resolved va v.toNat s.devNum)])) ∧
    -- JCAN
    (s.interlock [(a, 64)] [(d, 64)] = .ok () →
      ((isSz a && isSz d && decide (b.toNat < 2)) = false → exec (.jcan b a d) s = .next s.illegalOperand) ∧
      (isSz a = true → isSz d = true → b.toNat < 2 → s.me.room .xc = true →
        let act := if b.toNat = 0 then CancelAct.reserve else .clear
        ∃ t, exec (.jcan b a d) s = .next t ∧ WentTo s t s.after_ ∧ KeepsOthers s t ∧ KeepsMemory s t ∧
          t.me = { s.me with xc := t.me.xc, issued := t.me.issued, regWait := t.me.regWait, parts := t.me.parts } ∧
          t.me.xc.map OpRec.id = s.me.xc.map OpRec.id ++ [s.nextId] ∧
          t.me.regWait = s.me.regWait ++ (if isScalar d then [(d.toNat - 96, s.nextId)] else []) ∧
          t.msgs = s.msgs ++ [message (.jcan (va.setWidth 32) b.toNat d.toNat (s.devicesOf ctx) [] false)] ∧
          t.pending = s.pending ++ (s.devicesOf ctx).map fun v => Instr.cancelArrive v ctx (va.setWidth 32) act)) ∧
    -- SIGDEC, SIGADD
    (let signal := fun (i : Instr) (add status : Nat) =>
      s.trapGate s.parkPoint [(a, 64), (b, 64)] = .ok () →
        ((isSz a && isSz b) = false → exec i s = .next s.illegalOperand) ∧
        (isSz a = true → isSz b = true → s.memGate = .ok () → s.interlock [(a, 64), (b, 64)] [] = .ok () →
          (∀ e, s.checkEa .rw 16 [(0, va)] = .error e → exec i s = .next e) ∧
          (s.checkEa .rw 16 [(0, va)] = .ok () → s.me.faults = [] → s.emptyGate 16 [(0, va)] = .ok () →
            s.copyOrderGate .rw 16 [(0, va)] = .ok () → s.me.room .xc = true → s.reqGate .rw 16 [(0, va)] = .ok () →
            ∃ t, exec i s = .next t ∧
              t = (u.issueAccess .xc .signal 16 2 4 none [{ lane := 0, va := va, data := add, data2 := status }]).advance ∧
              WentTo s t s.after_ ∧ KeepsOthers s t ∧
              t.me = { s.me with xc := t.me.xc, issued := t.me.issued, faults := t.me.faults, parts := t.me.parts }))
     signal (.sigdec b a) (2 ^ 64 - 1) (v.toNat % 2 ^ 32) ∧ signal (.sigadd b a) v.toNat 0) ∧
    -- SIGWAIT
    (s.trapGate s.parkPoint [(a, 64), (b, 64)] = .ok () →
      ((isSz a && isSz b && isSz d) = false → exec (.sigwait b a d) s = .next s.illegalOperand) ∧
      (isSz a = true → isSz b = true → isSz d = true → s.memGate = .ok () →
        s.interlock [(a, 64), (b, 64)] [(d, 64)] = .ok () → s.checkEa .rw 16 [(0, va)] = .ok () →
        s.copyOrderGate .r 16 [(0, va)] = .ok () → s.readGate [(16, [(0, va)])] = .ok () → s.myPart.op = none →
        s.me.room .xc = true →
        let x := ((s.count .xc s.nextId).lane c .stream 4 16 { lane := 0, va := va, data := 0, data2 := 0 }).2
        let test := (BitVec.ofNat 64 x).sle v
        let bit := if x / 2 ^ 64 = 0 then 0 else 2
        (test = true → ∃ t, exec (.sigwait b a d) s = .next t ∧ WentTo s t s.after_ ∧ KeepsOthers s t ∧ KeepsPools s t ∧
          WroteS s t d (BitVec.ofNat 64 (1 + bit)) ∧ (t.core c).l1 = []) ∧
        (test = false → (s.myPart.expired = true ∨ s.me.twh = 0) → ∃ t, exec (.sigwait b a d) s = .next t ∧ WentTo s t s.after_ ∧
          KeepsOthers s t ∧ KeepsPools s t ∧ WroteS s t d (BitVec.ofNat 64 bit)) ∧
        (test = false → s.myPart.expired = false → s.me.twh ≠ 0 → ∃ t, exec (.sigwait b a d) s = .next t ∧
          t.myPart = { (s.park (.sig va v)).myPart with op := some s.nextId } ∧ t.me.xc.length = s.me.xc.length + 1 ∧
          .trywaitExpire c me s.cur.part ∈ t.pending))) ∧
    -- PLNCH
    (s.interlock [(a, 64), (b, 64)] [(d, 64)] = .ok () →
      ((isSz a && isSz b && isSz d) = false ∨ 4 ≤ v.toNat → exec (.plnch b a d) s = .next s.illegalOperand) ∧
      (isSz a = true → isSz b = true → isSz d = true → v.toNat < 4 →
        (va.toNat % 64 ≠ 0 → exec (.plnch b a d) s = .next (s.alignTrap va)) ∧
        (va.toNat % 64 = 0 → s.mapped ctx .r va 64 = false → exec (.plnch b a d) s = .next (s.memFault va 0)) ∧
        (va.toNat % 64 = 0 → s.mapped ctx .r va 64 = true → s.me.room .xc = false → exec (.plnch b a d) s = .next s) ∧
        (va.toNat % 64 = 0 → s.mapped ctx .r va 64 = true → s.me.room .xc = true →
          ∃ t, exec (.plnch b a d) s = .next t ∧ WentTo s t s.after_ ∧
            t = { s.setMe t.me with nextId := s.nextId + 1, msgs := s.msgs ++ [message (.plan va v.toNat)],
                                    pending := s.pending ++ [.accessComplete c me .xc s.nextId] } ∧
            t.me = { s.me with xc := t.me.xc, issued := t.me.issued, regWait := t.me.regWait, parts := t.me.parts } ∧
            t.me.xc.map OpRec.id = s.me.xc.map OpRec.id ++ [s.nextId] ∧
            t.me.regWait = s.me.regWait ++ if isScalar d then [(d.toNat - 96, s.nextId)] else [])))

-- Events ----------------------------------------------------------------------------------------------------------------

/-- R146, R147, R155, R163 to R170, R173, R175, R176: the events of the Vat. An operation that may run and whose reads
are ready has its effect: a tile is loaded, a slot zeroed, multiplied into or drained; WSWAP exchanges the banks; an
operation whose reads fail ends with its trap deferred; a drained line lands; a member that waited too long at a
rendezvous traps. Readings of the model: log 34. -/
def Obligations.VatEvents : Prop :=
  ∀ (s : State) (c op : Nat) (o : VatOp),
    let x := s.core c
    let run := exec (.vatComplete c op) s
    let done := fun (t : State) (k id : Nat) => ∀ a, s.agent? c k = some a →
      t.agent? c k = some { a with eng := completeOp id a.eng }
    let el := fun (slot i j : Nat) => slot * 8192 + i * 128 + j
    let keeps := fun (t : State) => t.mem = s.mem ∧ t.dram = s.dram ∧ (∀ q ∈ (t.core c).vatQ, q.id ≠ op) ∧
      ∀ c', c' ≠ c → t.core c' = s.core c'
    (x.vatQ.find? (fun q => q.id == op) = some o → (o ∉ vatReady [] x.vatQ ∨ (x.vatEmpty o).isSome = true) →
      run = .next (s.due (.vatComplete c op))) ∧
    (x.vatQ.find? (fun q => q.id == op) = some o → o ∈ vatReady [] x.vatQ → x.vatEmpty o = none → x.vatBad o = none →
      (∀ tile scales book stride f sc, o.kind = .wload tile scales book stride f sc → ∃ t, run = .next t ∧ keeps t ∧
        done t o.agent op ∧ KeepsPools s t ∧ (t.core c).acc = x.acc ∧ (t.core c).active = x.active ∧
        (t.core c).shadow.fmt = f ∧ (t.core c).shadow.sc = sc ∧ (t.core c).shadow.book = book ∧ (t.core c).shadow.bad = none ∧
        (∀ k n, k < 128 → n < 128 → (t.core c).shadow.tile.get (128 * k + n) =
          BitVec.ofNat 16 (x.elem (tile + k * stride) (vatBits f.toNat) n)) ∧
        (sc = true → ∀ i, i < 512 → (t.core c).shadow.scales.get i = x.pool.get (scales + i))) ∧
      (∀ n, o.kind = .mzero n → ∃ t, run = .next t ∧ keeps t ∧ done t o.agent op ∧ KeepsPools s t ∧
        ∀ k, (t.core c).acc.get k = if n * 8192 ≤ k ∧ k < (n + 1) * 8192 then 0 else x.acc.get k) ∧
      (∀ acc ms, o.kind = .mma acc ms → (ms.map Arrival.slot).Nodup → (ms.map Arrival.agent).Nodup → x.active.bad = none →
        ∃ t, run = .next t ∧ keeps t ∧ KeepsPools s t ∧ (t.core c).active = x.active ∧ (t.core c).shadow = x.shadow ∧
          (∀ m ∈ ms, done t m.agent m.op) ∧
          (∀ m ∈ ms, ∀ i j, i < 64 → j < 128 → (t.core c).acc.get (el m.slot i j) = mmaElement x x.active acc m i j) ∧
          ∀ k, k / 8192 ∉ ms.map Arrival.slot → (t.core c).acc.get k = x.acc.get k) ∧
      (∀ acc ms code va, o.kind = .mma acc ms → (ms.map Arrival.agent).Nodup → x.active.bad = some (code, va) →
        ∃ t, run = .next t ∧ keeps t ∧ KeepsPools s t ∧
          (∀ m ∈ ms, ∀ i j, i < 64 → j < 128 → (t.core c).acc.get (el m.slot i j) = 0x7FC00000) ∧
          ∀ m ∈ ms, ∀ a, s.agent? c m.agent = some a → m.op ∈ a.eng.map OpRec.id → ∃ b d, t.agent? c m.agent = some b ∧ b.traps = a.traps ++ [d] ∧
            d.info = { code := code, einfo := BitVec.ofNat 64 ((if acc then 6 else 5) + m.d * 256), eaddr := va, fmask := 0 } ∧
            d.op = m.op ∧ d.at_ = .vat) ∧
      (∀ n k d, o.kind = .mdrain n k d → d.bar < 2 ^ 31 → vatRow d.ofmt ≤ d.ostride → ∃ t, run = .next t ∧ keeps t ∧
        done t o.agent op ∧ (t.core c).acc = x.acc ∧
        (∀ i p, i < 64 → p < vatRow d.ofmt → (t.core c).pool.get (d.out + i * d.ostride + p) = (drainRow x n d i).getD p 0) ∧
        ∀ p, (∀ i, i < 64 → ¬(d.out + i * d.ostride ≤ p ∧ p < d.out + i * d.ostride + vatRow d.ofmt)) →
          (t.core c).pool.get p = x.pool.get p) ∧
      (∀ n k d, o.kind = .mdrain n k d → 2 ^ 31 ≤ d.bar → ∃ t y, run = .next t ∧ keeps t ∧ KeepsPools s t ∧
        t.pending = s.pending ++ [.drainLineLand c op] ∧ (t.core c).drains = x.drains ++ [y] ∧ y.id = op ∧ y.agent = o.agent ∧
        y.lines.flatMap Prod.snd = (List.range 64).flatMap fun i => drainRow x n d i)) ∧
    ((vatReady [] x.vatQ).find? (fun q => q.kind == .wswap) = some o → ∃ t, exec (.wswapEffect c) s = .next t ∧
      t = s.setCore c { x with active := x.shadow, shadow := x.active, vatQ := x.vatQ.filter fun q => q.id != o.id }) ∧
    (∀ p, (vatReady [] x.vatQ).find? (fun q => (x.vatEmpty q).isSome) = some o → x.vatEmpty o = some p →
      let trap := fun (fn d : Nat) =>
        ({ code := 0x08, einfo := BitVec.ofNat 64 (fn + d * 256), eaddr := ownPool p, fmask := 0 } : TrapInfo)
      let ends := fun (t : State) (k id fn d : Nat) => ∀ a, s.agent? c k = some a → id ∈ a.eng.map OpRec.id → ∃ b e, t.agent? c k = some b ∧
        b.traps = a.traps ++ [e] ∧ e.info = trap fn d ∧ e.op = id ∧ e.at_ = .vat ∧ b.eng = completeOp id a.eng
      ∃ t, exec (.vatFault c 0x08) s = .next t ∧ WroteBack s t ∧ (∀ q ∈ (t.core c).vatQ, q.id ≠ o.id) ∧
        (∀ tile scales book stride f sc, o.kind = .wload tile scales book stride f sc →
          (t.core c).shadow.bad = some (0x08, ownPool p) ∧ ends t o.agent o.id 3 0) ∧
        (∀ acc ms, o.kind = .mma acc ms → (ms.map Arrival.agent).Nodup → ∀ m ∈ ms,
          ends t m.agent m.op (if acc then 6 else 5) m.d ∧
          ∀ i j, i < 64 → j < 128 → (t.core c).acc.get (el m.slot i j) = 0x7FC00000) ∧
        ∀ n k d, o.kind = .mdrain n k d → ends t o.agent o.id 8 k) ∧
    (∀ d off bs rest, x.drains.find? (fun d => d.id == op) = some d → d.lines = (off, bs) :: rest →
      let u := s.modCore c fun y => y.poolPut off bs
      let old := u.barGet c (barAt d.bar)
      ∃ t, exec (.drainLineLand c op) s = .next t ∧ WroteBack s t ∧ t.dram = s.dram ∧
        ((∀ n, barAt d.bar ≠ .cluster n) → t.mem = s.mem) ∧
        (∀ p, (∀ k, barAt d.bar = .pool k → ¬(k ≤ p ∧ p < k + 16)) →
          (t.core c).pool.get p = if off ≤ p ∧ p < off + bs.length then bs.getD (p - off) 0 else x.pool.get p) ∧
        t.barGet c (barAt d.bar) = settledBar { old with bytes := wrapS32 (old.bytes - bs.length) } ∧
        (rest ≠ [] → Instr.drainLineLand c op ∈ t.pending) ∧
        (rest = [] → done t d.agent op ∧ ∀ y ∈ (t.core c).drains, y.id ≠ op)) ∧
    ∀ (g : RdvRef) r, x.rdv.find? (fun r => r.wg == g.wg && r.gng == g.gng) = some r → x.lr.flags % 2 = 1 → (r.arrived.map Arrival.agent).Nodup →
      (∀ m ∈ r.arrived, ∃ a p, s.agent? c m.agent = some a ∧ a.handling = none ∧ a.parts.find? m.part = some p) →
      ∃ t, exec (.rendezvousTimeout c g) s = .next t ∧ t.mem = s.mem ∧ KeepsPools s t ∧
        (t.core c).rdv = x.rdv.erase r ∧ ∀ m ∈ r.arrived, ∃ a p b, s.agent? c m.agent = some a ∧
          a.parts.find? m.part = some p ∧ t.agent? c m.agent = some b ∧ b.tcode = 0x0B ∧ b.epc = p.pc ∧
          b.einfo = BitVec.ofNat 64 (r.gng.toNat + r.fn * 2 ^ 16) ∧ b.handling = some (m.part, 0x0B)

/-- R260, R263, R267 to R274, R279 to R281: the events of copies and collective steps. In its turn of the engine a unit moves,
converted, and is counted; the visible point completes the copy with its signal, which waits where its page waits for the pager
(log 25); a fault ends it; a collective step sends its chunk unit by unit, and reduces or gathers the one it receives. Readings
of the model: logs 25, 26 and 33. -/
def Obligations.CopyEvents : Prop :=
  ∀ (s : State) (c op : Nat) (o : CopyOp), s.copyOp? c op = some o →
    let x := s.core c
    let ctx := s.ctxOf c
    let land := exec (.copyLand c op) s
    let unit := s.unitAt o
    let gone := fun (t : State) => (t.core c).copies = x.copies.filter fun p => p.id != op
    let done := fun (t : State) => ∀ a, s.agent? c o.agent = some a → ∃ b, t.agent? c o.agent = some b ∧
      b.eng = completeOp op a.eng
    let mapped := fun (nd : Need) (va : W64) => (s.ctx ctx).translate nd va
    -- the copy counts nothing on a barrier of the cluster, whose completion may write back what caches hold
    let noBar := ∀ name n, o.bar = some name → barAt name ≠ .cluster n
    -- no cache that serves the core holds a line
    let cold := x.l1 = [] ∧ (s.cluster (clusterOf c)).buf = [] ∧ (s.cluster (clusterOf c)).au = []
    -- a signal's object: where it is served, and not in an uncorrectable word, its VALUE falls by 1
    let signalled := fun (t : State) (status : Nat) => ∀ va ia, o.sig = some va → mapped .rw va = some ia →
      s.nak ctx ia true = none → s.home ia % 16 = 0 → s.home ia / 32 ∉ s.bad →
      let h := s.home ia
      t.mem.readLE h 8 = (s.mem.readLE h 8 + (2 ^ 64 - 1)) % 2 ^ 64 ∧
      t.mem.readLE (h + 8) 8 = if s.mem.readLE (h + 8) 8 = 0 ∧ status ≠ 0 then status else s.mem.readLE (h + 8) 8
    (o.fn ≠ 5 → o.suspended = none → o.moved = false → s.engineNext c ≠ some o → land = .next (s.due (.copyLand c op))) ∧
    (∀ p, s.engineNext c = some p → p ∈ x.copies ∧ s.canMove c p = true) ∧
    (o.fn ≠ 5 → o.suspended = none → o.moved = false → o.rowCount ≠ 0 → s.engineNext c = some o → s.unitMeets c o = .go →
      ((∃ a, s.srcAt o o.row o.col = .va a) → s.cachesOwn c) →
      let src : Option (List Byte) := match s.srcAt o o.row o.col with
        | .pool off => some (x.pool.bytes off unit.sb)
        | .lit l => some l
        | .va a => if o.scope < 2 ∧ a.toNat % 128 + unit.sb ≤ 128 then
            (mapped .r a).bind fun ia => if ia % 128 = a.toNat % 128 then some ((List.range unit.sb).map fun i => s.seen c (ia + i)) else none
          else none
        | _ => none
      let due := o.due - if o.fn = 1 ∨ o.fn = 3 ∨ o.fn = 6 ∨ o.fn = 5 then unit.sb else unit.db
      let next : CopyOp := { o.step unit.n with due := due, started := true }
      ∃ t, land = .next t ∧ t.copyOp? c op = some next ∧
        (∀ a, s.agent? c o.agent = some a → src ≠ none → t.agent? c o.agent =
          some { a with cflags := a.cflags ||| (o.convert (src.getD [])).2 }) ∧
        (∃ p, t.pending = p ++ [if next.moved then .copyVisible c op else .copyLand c op]) ∧
        ∀ bs, src = some bs → 0 < unit.sb →
          let out := (o.convert bs).1
          (∀ off, s.dstAt o o.row o.col = .pool off → o.bar = none →
            ∀ p, (t.core c).pool.get p = if off ≤ p ∧ p < off + out.length then out.getD (p - off) 0 else x.pool.get p) ∧
          (∀ va ia, s.dstAt o o.row o.col = .va va → mapped .w va = some ia → o.scope = 4 → out.length = unit.db →
            0 < unit.db → va.toNat % 128 + unit.db ≤ 128 → s.home ia % 128 = va.toNat % 128 → cold → noBar →
            (∀ w ∈ eccWords (s.home ia) unit.db, w ∉ s.bad) →
            ∀ i, i < unit.db → t.mem.get (s.home ia + i) = out.getD i 0)) ∧
    (o.fn ≠ 5 → o.moved = true → ∃ t, exec (.copyVisible c op) s = .next t ∧ gone t ∧ done t ∧ signalled t 0 ∧
      (∀ va ia code, o.sig = some va → mapped .rw va = some ia → s.nak ctx ia true = some code → (code = 0x01 ∨ code = 0x04) →
        t.heldSys = s.heldSys ++ [{ ctx, pieces := [], sigs := [(va, 0)] }] ∧ t.mem = s.mem) ∧
      KeepsPools s t ∧ (o.sig = none → KeepsMemory s t)) ∧
    (∀ (code : BitVec 8) (va : W64), o.fn ≠ 3 → o.fn ≠ 5 → o.fn ≠ 8 →
      let lr := x.lr
      let info : TrapInfo :=
        if o.fn = 4 then { code := 0x0F, einfo := pipeInfo (if code = 0x10 then 7 else 8) o.box.pipe 4 code.toNat, eaddr := va, fmask := 0 }
        else { code := if code = 0x10 then 0x07 else if code = 0x13 then 0x08 else 0x06,
               einfo := faultLayout lr.code o.pc o.word code, eaddr := va, fmask := 0 }
      ∃ t, exec (.copyAbort c op code va) s = .next t ∧ gone t ∧ (noBar → signalled t (1 + code.toNat * 256)) ∧
        (o.bar = none → KeepsPools s t ∧ ∀ l, l ∈ (t.core c).emptyLines ↔ l ∈ x.emptyLines ∧ (l, op) ∉ x.emptier) ∧
        (∀ name, o.bar = some name → (s.barGet c (barAt name)).pend ≠ 0 → (t.barGet c (barAt name)).err = true) ∧
        ∀ a, s.agent? c o.agent = some a → ∃ b, t.agent? c o.agent = some b ∧ b.eng = completeOp op a.eng ∧
          b.cfault = BitVec.ofNat 64 (code.toNat + o.fn * 256 + va.toNat / 2048 * 2048) ∧
          (((o.bar = none ∧ o.sig = none) ∨ (o.fn = 4 ∧ code = 0x10)) → op ∈ a.eng.map OpRec.id →
            ∃ d, b.traps = a.traps ++ [d] ∧ d.info = info ∧ d.op = op ∧ d.at_ = .copy) ∧
          (¬((o.bar = none ∧ o.sig = none) ∨ (o.fn = 4 ∧ code = 0x10)) → b.traps = a.traps)) ∧
    ∀ y g, s.stepOf c o = some (y, g) →
      let n := g.members.length
      let sends := y.sends n g.rank
      let receives := y.receives n g.rank
      let held := fun (u : CollUnit) =>
        let ranges := fun (a : Option W64) => (a.map fun va => s.rangesAt ctx (.va va) u.n).getD []
        s.heldByOlder c o (ranges u.src) (ranges u.dst)
      let clear := fun (u : CollUnit) => s.collMeets c (s.collPieces c .r u.src u.n) (s.collPieces c .w u.dst u.n) = none
      -- a unit's bytes at a virtual address of one line
      let lies := fun (nd : Need) (a : Option W64) (len ia : Nat) => ∃ va, a = some va ∧ mapped nd va = some ia ∧
        va.toNat % 128 + len ≤ 128 ∧ s.home ia % 128 = va.toNat % 128 ∧ ia % 128 = va.toNat % 128
      let at_ := fun (ia len : Nat) => (List.range len).map fun i => s.homeByte (ia + i)
      (o.started = false → o.suspended = none → s.collReady (dieOf c) o y = false →
        exec (.collStart c op) s = .next (s.due (.collStart c op))) ∧
      (o.started = false → o.suspended = none → s.collReady (dieOf c) o y = true →
        ∃ t, exec (.collStart c op) s = .next t ∧ t.copyOp? c op = some { o with started := true } ∧ t.mem = s.mem ∧ KeepsPools s t ∧
          (0 < sends → Instr.copyLand c op ∈ t.pending)) ∧
      (∀ u, o.fn = 5 → o.suspended = none → o.started = true → y.unit g o = some u →
        (held u = true → land = .next (s.due (.copyLand c op))) ∧
        (held u = false → clear u → ∃ t, land = .next t ∧
          (u.sends = true → cold → ∀ ia, lies .r u.src u.n ia →
            t.copyOp? c op = some { o with row := o.row + u.n, due := o.due - u.n, sent := o.sent ++ at_ ia u.n } ∧
            (noBar → ∀ ib, lies .w u.dst u.n ib → (∀ w ∈ eccWords (s.home ib) u.n, w ∉ s.bad) →
              ∀ i, i < u.n → t.mem.get (s.home ib + i) = s.homeByte (ia + i))) ∧
          (u.sends = false → t.copyOp? c op = some { o with col := o.col + u.n, moved := decide (receives ≤ o.col + u.n) } ∧
            KeepsPools s t ∧
            ∀ ib, cold → lies .w u.dst u.n ib → y.esize ∣ u.n → (∀ w ∈ eccWords (s.home ib) u.n, w ∉ s.bad) →
              let data := ((o.land.head?.map Prod.snd).getD []).drop o.col
              u.n ≤ data.length →
              (y.reduces n = false → ∀ i, i < u.n → t.mem.get (s.home ib + i) = data.getD i 0) ∧
              ∀ ia, y.reduces n = true → lies .r u.src u.n ia → ∀ k i, k < u.n / y.esize → i < y.esize →
                let elem := fun (bs : List Byte) => leNat ((bs.drop (k * y.esize)).take y.esize)
                t.mem.get (s.home ib + k * y.esize + i) =
                  BitVec.ofNat 8 ((y.op (elem data) (elem (at_ ia u.n))).1 / 256 ^ i)))) ∧
      (∀ data, o.started = true → o.moved = false → o.land = [] → data.length = receives →
        (g.prev.map Prod.fst = some s.devNum → g.inbox.find? y.step = some data) →
        ∃ t, exec (.collChunkArrive c op data) s = .next t ∧
          t.copyOp? c op = some { o with land := [(0, data)], moved := data.isEmpty } ∧ t.mem = s.mem ∧ KeepsPools s t ∧
          (sends ≤ o.row → data ≠ [] → Instr.copyLand c op ∈ t.pending)) ∧
      (o.started = true → o.moved = true → sends ≤ o.row → ∃ t, exec (.collEnd c op) s = .next t ∧ gone t ∧ done t ∧
        signalled t 0 ∧ KeepsPools s t ∧ ∃ h, (t.die (dieOf c)).groups.find? y.group = some h ∧ h.last = some y.step ∧
          h.members = g.members ∧ h.rank = g.rank)

/-- R180, R181, R221, R222, R291, R297, R305: the events of a core. A parked part whose condition holds wakes and
executes its instruction again (a member of a closed VACQ goes on after it); a try-wait's time runs out; a ready wave is
promoted, a YIELD ends; an access that is served completes and retires with all older ones of its class; an exchange
store reaches the shadow bank of each peer; a part that waited too long at an EMPTY line takes EMPTY_LINE_TIMEOUT at its
instruction. Readings of the model: log 4. -/
def Obligations.CoreEvents : Prop :=
  ∀ (s : State) (c k : Nat) (a : Agent), s.agent? c k = some a →
    let x := s.core c
    -- nothing but this agent changes
    let only := fun (t : State) (b : Agent) => t = s.setAgent c k b
    (∀ part p w, a.parts.find? part = some p → p.wait = some w →
      let q : Part := { p with wait := none, stamp := s.nextId, pc := if w = .baton then p.pc + 4 else p.pc }
      (p.expired = true ∨ s.waitReady c k a part w = true) → exec (.partWake c k part) s =
        .next ({ s with nextId := s.nextId + 1 }.setAgent c k { a with parts := a.parts.put part q })) ∧
    -- the conditions of R297
    (∀ part name (ph : BitVec 16) t, s.waitReady c k a part (.bar name ph t) =
      decide (0 < ((s.barGet c (barAt name)).phase + 65536 - ph.toNat) % 65536 ∧
        ((s.barGet c (barAt name)).phase + 65536 - ph.toNat) % 65536 ≤ 32768)) ∧
    (∀ part, s.waitReady c k a part .baton = true ↔ x.baton = some (a.wg, a.gng)) ∧
    (∀ part offs w, s.waitReady c k a part (.lines offs w) = true ↔ ∀ l ∈ offs, l ∉ x.emptyLines) ∧
    (∀ part h, s.waitReady c k a part (.hres h) = true ↔
      ∀ e, s.hentry (s.ctxOf c) h = some e → e.st ≠ .pending) ∧
    (∀ part p, a.parts.find? part = some p → p.wait.any Wait.tries = true →
      ∃ t b, exec (.trywaitExpire c k part) s = .next t ∧ only t b ∧
        b = { a with parts := a.parts.put part { p with expired := true } }) ∧
    (∀ part p, a.parts.find? part = some p → p.slot.isSome = true → p.wait = none → a.handling = none → k < 128 →
      ∃ t, exec (.wavePromote c k) s = .next t ∧ only t { a with promoted := true }) ∧
    (k < 128 → ∃ t, exec (.yieldExpire c k) s = .next t ∧ only t { a with yielding := false }) ∧
    (128 ≤ k → exec (.yieldExpire c k) s = .next s) ∧
    (∀ cls op, cls ≠ .eng → (∀ f ∈ a.faults, f.id ≠ op) → (∀ o ∈ x.xsts, o.id ≠ op) → (∀ m ∈ s.msgs, m.id ≠ op) →
      (∀ p ∈ a.parts, p.2.op ≠ some op) →
      -- a base die is still to answer it (R473)
      ((∃ d r, d < 4 ∧ r ∈ (s.die d).reqs ∧ r.op = some op) →
        exec (.accessComplete c k cls op) s = .next { s with pending := s.pending ++ [.accessComplete c k cls op] }) ∧
      ((∀ d r, d < 4 → r ∈ (s.die d).reqs → r.op ≠ some op) →
      ∃ t b, exec (.accessComplete c k cls op) s = .next t ∧ only t b ∧
        b.counter cls = retire ((a.counter cls).map fun o => if o.id = op then { o with done := true } else o) ∧
        (∀ other, other ≠ cls → b.counter other = a.counter other) ∧ b.v = a.v ∧ b.s = a.s ∧ b.m = a.m ∧
        (b.regWait = a.regWait.filter fun p => p.2 ≠ op) ∧ (b.replays = a.replays.filter fun r => r ≠ op) ∧
        -- memory issue resumes with the last replay (R436)
        (b.memParked = true ↔ a.memParked = true ∧ (a.faults ≠ [] ∨ b.replays ≠ [])) ∧
        (a.memParked = false → b.traps = a.traps))) ∧
    (∀ op o, x.xsts.find? (fun o => o.id == op) = some o → o.agent = k → o.writes.length = o.peers.length → o.peers.Nodup →
      ∃ t b, exec (.xstLand c op) s = .next t ∧ t.mem = s.mem ∧ t.dram = s.dram ∧ t.agent? c k = some b ∧
        b = { a with xc := completeOp op a.xc } ∧ (t.core c).xsts = x.xsts.filter (fun y => y.id != op) ∧
        (∀ w p, (w, p) ∈ o.writes.zip o.peers → ∀ i,
          (t.core p).pool.get i =
            let at_ := (s.core p).shadowAt w.1
            if at_ ≤ i ∧ i < at_ + w.2.1 then BitVec.ofNat 8 (w.2.2 / 256 ^ (i - at_)) else (s.core p).pool.get i) ∧
        ∀ p, p ∉ o.peers → (t.core p).pool = (s.core p).pool) ∧
    (∀ part p offs w, a.parts.find? part = some p → p.wait = some (.lines offs w) → x.lr.flags % 2 = 1 → a.handling = none →
      (∃ l ∈ offs, l ∈ x.emptyLines) →
      ∃ t b, exec (.emptyLineTimeout c (.part k part)) s = .next t ∧ only t b ∧ b.tcode = 0x08 ∧ b.epc = p.pc ∧
        b.einfo = w.setWidth 64 ∧ b.handling = some (part, 0x08) ∧
        (∃ l ∈ offs, l ∈ x.emptyLines ∧ (∀ m ∈ offs, m ∈ x.emptyLines → l ≤ m) ∧ b.eaddr = ownPool (128 * l)) ∧
        b.parts.find? part = some { p with pc := x.lr.code + BitVec.ofNat 64 x.lr.handlerOff, wait := none,
                                           expired := false, op := none, nofetch := none, latch := none }) ∧
    ∀ (op : Nat) (o : CopyOp) off l rest, s.copyOp? c op = some o → o.fn ≠ 5 → o.moved = false → o.suspended = none →
      s.srcAt o o.row o.col = .pool off → x.emptyOf (linesOf off (s.unitAt o).sb) = l :: rest →
      exec (.emptyLineTimeout c (.copy op)) s = .next (s.due (.copyAbort c op 0x13 (ownPool (128 * l)))) ∧
      exec (.emptyLineTimeout c .vat) s = .next (s.due (.vatFault c 0x08))

/-- R306 to R309: a core that is asked to pre-empt stops admitting, with the cores of its cluster that share its stage's
exchange region; after 2^20 CCLK what has not stopped is forced, and logged; once everything has stopped and drained its
state is saved, with the registers that are not live at the safe point left out; at resumption the saved state is
restored and each part executes its instruction again. Readings of the model: logs 4 and 42. -/
def Obligations.Preemption : Prop :=
  ∀ (s : State) (c : Nat),
    let x := s.core c
    let group := s.preGroup c
    let keeps := fun (t : State) => t.mem = s.mem ∧ t.dram = s.dram ∧ KeepsPools s t ∧ ∀ k, k ∉ group → t.core k = s.core k
    let stopped := fun (y : Core) => ∀ p ∈ y.agents, ∀ q ∈ p.2.parts, q.2.slot = none ∨ q.2.wait ≠ none
    (∀ k, k ∈ group ↔ k = c ∨ ((∃ pl st, x.run = .stage pl st) ∧ x.scrTop < x.xchTop ∧ k / 4 = c / 4 ∧ (s.core k).run = x.run)) ∧
    (x.wgs ≠ [] → (∀ k ∈ group, (s.core k).pre = .none) →
      ∃ t, exec (.preemptRequest c) s = .next t ∧ keeps t ∧ (∀ k ∈ group, t.core k = { s.core k with pre := .requested }) ∧
        t.pending = s.pending ++ group.map Instr.preemptSave) ∧
    (x.pre = .requested → (¬stopped x →
      ∃ t f, exec (.preemptForce c) s = .next t ∧ t.core c = { x with pre := .forced } ∧ (∀ k, k ≠ c → t.core k = s.core k) ∧
        t.mem = s.mem ∧ t.found = s.found ++ [f] ∧ f.die = dieOf c ∧ f.logged = true ∧
        f.entry = { event := 0, time := s.now, channel := dieOf c * 16 + 13, kind := 7, ctx := x.ctx.getD 0xFF, detail := f.entry.detail,
                    where_ := c }) ∧
      (stopped x → exec (.preemptForce c) s = .next s)) ∧
    (x.pre = .requested ∨ x.pre = .forced →
      let of_ := group.filter fun k => (s.core k).pre != .none
      let may := ∀ k ∈ of_, ((s.core k).pre = .forced ∨ ((s.core k).pre = .requested ∧ stopped (s.core k))) ∧
        (s.core k).quietForSave = true
      (¬may → exec (.preemptSave c) s = .next (s.due (.preemptSave c))) ∧
      (may → ∃ t, exec (.preemptSave c) s = .next t ∧ keeps t ∧
        (∀ p ∈ t.plans, ∀ q ∈ p.2.pipes, ∀ w, w ∈ q.waitP ∨ w ∈ q.waitC → w.core ∉ of_) ∧
        (∀ v ∈ t.sweeps, ∀ w ∈ v.waiting, w.at_.core ∉ of_) ∧
        ∀ k ∈ of_, let y := s.core k
          (t.core k).pre = .saved ∧ (t.core k).agents = [] ∧ (t.core k).wgs = [] ∧ (t.core k).baton = none ∧
          ∃ img, (t.core k).image = some img ∧ img.pool = y.pool ∧ img.acc = y.acc ∧ img.active = y.active ∧
            img.shadow = y.shadow ∧ img.wgs = y.wgs ∧ img.emptyLines = y.emptyLines ∧ img.badPool = y.badPool ∧ img.liveHigh = y.liveHigh ∧
            img.heldBaton = y.baton ∧ img.ctx = y.ctx ∧ img.run = y.run ∧ img.lr = y.lr ∧
            (∀ n a, y.agents.find? n = some a → ∃ b, img.agents.find? n = some b ∧ b.ld = a.ld ∧ b.st = a.st ∧ b.q = a.q ∧
              b.gng = a.gng ∧ b.wb = a.wb ∧ b.frm = a.frm ∧ b.fflags = a.fflags ∧ b.tcode = a.tcode ∧ b.epc = a.epc ∧
              b.einfo = a.einfo ∧ b.eaddr = a.eaddr ∧ b.fmask = a.fmask ∧ b.ckey = a.ckey ∧ b.handling = a.handling ∧
              b.faults = a.faults ∧ b.memParked = a.memParked ∧
              b.parts.map Prod.fst = a.parts.map Prod.fst ∧
              -- every register, where a part is parked elsewhere than at a safe point, or has not stopped
              (a.role = .copy ∨ (∃ p ∈ a.parts, (∀ i, p.2.wait ≠ some (.safept i)) ∧ ¬(p.2.slot = none ∧ p.2.wait = none)) →
                b.v = a.v ∧ b.s = a.s ∧ b.m = a.m) ∧
              -- at one safe point, the registers its live mask names; the others read zero
              ∀ i p bs, a.role ≠ .copy → a.parts = [(i, p)] → ∀ e, p.wait = some (.safept e) →
                s.homeBytes (s.ctxOf k) (y.lr.lmtab + BitVec.ofNat 64 (16 * e)) 16 = some bs → of_ = [k] →
                (∀ r l, r < 96 → l < 64 → b.vget r l = if (leNat (bs.take 12)).testBit r then a.vget r l else 0) ∧
                (∀ r, b.sget r = if (leNat ((bs.drop 12).take 3)).testBit r then a.sget r else 0) ∧
                ∀ r, b.mget r = if (leNat (bs.drop 15)).testBit r then a.mget r else 0))) ∧
    -- replays that a save has carried run first (R439); here nothing is carried
    (x.pre = .saved → (∀ k ∈ group, ∀ img, (s.core k).image = some img → ∀ p ∈ img.agents, p.2.faults = []) →
      ∃ t, exec (.resume c) s = .next t ∧ t.mem = s.mem ∧ t.dram = s.dram ∧ (∀ k, k ∉ group → t.core k = s.core k) ∧
      ∀ k ∈ group, (s.core k).pre = .saved → ∀ img, (s.core k).image = some img →
        let y := t.core k
        y.pre = .none ∧ y.image = none ∧ y.pool = img.pool ∧ y.wgs = img.wgs ∧ y.acc = img.acc ∧ y.emptyLines = img.emptyLines ∧ y.badPool = img.badPool ∧
        y.liveHigh = img.liveHigh ∧ y.baton = img.heldBaton ∧ y.run = img.run ∧ y.ctx = img.ctx ∧ y.lr = img.lr ∧
        (img.heldBaton ≠ none → y.active = img.active ∧ y.shadow = img.shadow) ∧ Instr.wgAdmit k ∈ t.pending ∧
        ∀ n b, img.agents.find? n = some b → ∃ a, y.agents.find? n = some a ∧ a.v = b.v ∧ a.s = b.s ∧ a.m = b.m ∧
          a.handling = b.handling ∧
          (a.wdPending = true ↔ b.wdPending = true ∨ (img.lr.flags / 2 % 2 = 1 ∧ n ∈ img.forced)) ∧
          ∀ i p, b.parts.find? i = some p → ∃ q, a.parts.find? i = some q ∧ q.lanes = p.lanes ∧ q.em = p.em ∧ q.slot = p.slot ∧
            ((∀ h, p.wait ≠ some (.rret h)) → q.wait = none ∧ q.pc = p.pc))

/-- R325 to R329, R336, R337, R341: the events at the ends of a pipe. A blocked reservation takes a slot and the next
ticket; a commit enters the committed set at the home; a released slot returns to its free list; a seal takes effect at
the producer end and then at the home; each pipe's occupancy is sampled. Readings of the model: log 39. -/
def Obligations.PipeEvents : Prop :=
  ∀ (s : State) (pl n : Nat) (p : PlanSt) (q : PipeSt), s.plans.find? pl = some p → p.pipes[n]? = some q →
    let here := fun (st : Nat) => (p.stages[st]?).any fun t => t.device == s.devNum
    let keeps := fun (t : State) => t.mem = s.mem ∧ t.dram = s.dram ∧ KeepsPools s t
    let pipe := fun (t : State) (r : PipeSt) (more : Nat) =>
      t.plans.find? pl = some { p with pipes := p.pipes.set n r, commits := p.commits + more }
    let counted := fun (r : PipeSt) => r.skip (r.tickets.length + 1)
    (∀ w rest a part, here q.producer = true → q.waitP = w :: rest → s.agent? w.core w.agent = some a →
      a.parts.find? w.part = some part →
      let uid := (((s.core w.core).wgs.find? a.wg).map Wg.uid).getD 0
      (q.reserve uid = none → exec (.reserveServed pl n) s = .next s) ∧
      ∀ t r, q.reserve uid = some (t, r) → t = q.tNext ∧ r.tNext = q.tNext + 1 ∧
        (∃ k, r.tickets = q.tickets ++ [{ t := q.tNext, at_ := k, wg := uid, st := .reserved }]) ∧
        ∃ u b, exec (.reserveServed pl n) s = .next u ∧ keeps u ∧ pipe u { r with waitP := rest } 0 ∧
          u.agent? w.core w.agent = some b ∧
          (∀ k, b.sget k = if 96 ≤ w.d ∧ w.d < 120 ∧ k = w.d - 96 then BitVec.ofNat 64 t else a.sget k) ∧
          (∃ z, b.parts.find? w.part = some z ∧ z.wait = none ∧ z.pc = part.pc + BitVec.ofNat 64 (part.latch.elim 4 Latch.len) ∧ z.lanes = part.lanes ∧ z.em = part.em) ∧
          u.pending = s.pending ++ if rest = [] then [] else [.reserveServed pl n]) ∧
    (∀ k, (q.tickets.any fun t => t.t == k && !t.atHome && (t.st == .committed || (t.st == .reserved && t.wg == remoteWg))) = true →
      ∃ t, exec (.commitArrive pl n k) s = .next t ∧ keeps t ∧ t.pending = s.pending ∧
        pipe t (counted { q with tickets := q.tickets.map fun u => if u.t = k then { u with st := .committed, atHome := true } else u }) 1) ∧
    (∀ k t, q.tickets.find? (fun u => u.t == k) = some t → here q.consumer = true → (∃ f ∈ q.flying, f.1 = k) →
      s.pulling pl n k = false →
      ∃ u, exec (.releaseArrive pl n k) s = .next u ∧ keeps u ∧ u.pending = s.pending ++ [.reserveServed pl n] ∧
        ∃ r, pipe u r 1 ∧ r.tickets = q.tickets.filter (fun v => v.t != k) ∧ r.flying = q.flying.filter (fun f => f.1 != k) ∧
          r.h = q.h ∧ r.tNext = q.tNext ∧
          (∀ i, t.at_ = .vault i → r.vfree = { q.vfree with back := q.vfree.back ++ [i] } ∧ r.wfree = q.wfree) ∧
          ∀ i, t.at_ = .whey i → r.wfree = { q.wfree with back := q.wfree.back ++ [i] } ∧ r.vfree = q.vfree ∧
            (r.spillOpen = true ↔ q.spillOpen = true ∧ r.wfree.limit - r.wfree.fresh + r.wfree.back.length < q.spill)) ∧
    (s.committing pl n = true → exec (.sealArrive pl n false) s = .next (s.due (.sealArrive pl n false))) ∧
    (s.committing pl n = false → ∃ t, exec (.sealArrive pl n false) s = .next t ∧ keeps t ∧ pipe t { q with sealedP := true } 0 ∧
      t.pending = s.pending ++ [.sealArrive pl n true]) ∧
    (q.sealedP = true ∨ here q.producer = false → ∃ t, exec (.sealArrive pl n true) s = .next t ∧ keeps t ∧
      pipe t { q with sealedP := true, sealedH := true } 0 ∧ t.pending = s.pending) ∧
    ∃ t r, exec (.occupancySample pl) s = .next t ∧ keeps t ∧ t.pending = s.pending ∧ (t.plans.find? pl).bind (fun z => z.pipes[n]?) = some r ∧
      (here q.producer = false → r = q) ∧
      (here q.producer = true → r = { q with occN := q.occN + 1, occSum := q.occSum +
        if q.wfree.size < q.spill then 256 else (q.depth - q.vfree.size) * 256 / max 1 q.depth })

/-- R349 to R359, R365, R366: the events of page-major attention. A pass begins with the least listed page of its die
whose main pass has not begun, else with the least page of the catch-up queue, while the Ladle holds fewer than 8; a
batch goes to an LPASS that waits; a partial with the next ordinal is merged, a later one is held, one that breaks the
rule breaks its slot; a partial that found no buffer goes to a Whey slot, or its slot breaks and its submitter has
HOOP_OVERFLOW recorded. Readings of the model: logs 35, 36 and 37. -/
def Obligations.AttnEvents : Prop :=
  ∀ (s : State) (ctx : Nat) (sw : W64) (v : Sweep), s.sweep? ctx sw = some v →
    let rests := fun (t : State) => t.mem = s.mem ∧ t.dram = s.dram ∧ KeepsPools s t
    let live := v.st = .open_ ∨ v.st = .running ∨ ∃ p ∈ v.slots, p.2.st = .active
    (∀ die, (v.st = .running ∨ v.st = .sealed) → s.ladleLoad die < 8 →
      let run := exec (.passBegin ctx sw die) s
      let asks := fun (t : State) => rests t ∧ t.cores = s.cores ∧ t.pending = s.pending ++
        (v.waiting.map fun w => Instr.batchAssign v.ctx v.addr w.at_.core w.at_.agent) ++ [.passBegin ctx sw die]
      -- a pass offered again is fetched once more
      (∀ i p, v.passes.findIdx? (fun p => p.die == die && !p.fetched) = some i → v.passes[i]? = some p →
        ∃ t, run = .next t ∧ asks t ∧ t.sweep? ctx sw =
          some { v with secondFetch := v.secondFetch + 1, passes := v.passes.set i { p with fetched := true } }) ∧
      ((∀ p ∈ v.passes, p.die = die → p.fetched = true) →
      let listed := fun (n : Nat) => (∃ p ∈ v.slots, n ∈ p.2.pages) ∧ v.walk.getD die 0 ≤ n ∧ n ∉ v.begun ∧ s.pageDie v n = die
      (∀ n, listed n → (∀ m, listed m → n ≤ m) → ∃ t z, run = .next t ∧ asks t ∧ t.sweep? ctx sw = some z ∧
        z = { v with walk := v.walk.put die (n + 1), begun := v.begun ++ [n], mainFetch := v.mainFetch + 1, passes := z.passes } ∧
        ∃ rows, z.passes = v.passes ++ [{ page := n, die := die, catchup := false, rows := rows }] ∧
          ∀ r, r ∈ rows ↔ ∃ x q o, (x, q) ∈ v.slots ∧ q.pages.findIdx? (fun k => k == n) = some o ∧
            r = { slot := x, ord := o, valid := if o + 1 < q.pages.length then 128 else q.last, tag := q.tag, qfmt := q.qfmt,
                  row := q.row }) ∧
      ((∀ n, ¬listed n) → ∀ n, (∃ r, (n, r) ∈ v.catchups) → s.pageDie v n = die →
        (∀ m r, (m, r) ∈ v.catchups → s.pageDie v m = die → n ≤ m) → ∃ t z, run = .next t ∧ asks t ∧ t.sweep? ctx sw = some z ∧
        z = { v with catchups := v.catchups.filter (fun p => p.1 != n), secondFetch := v.secondFetch + 1, passes := z.passes } ∧
        ∃ rows, z.passes = v.passes ++ [{ page := n, die := die, catchup := true, rows := rows }] ∧
          ∀ r, r ∈ rows ↔ (n, r) ∈ v.catchups))) ∧
    (∀ c k w i p a part, v.waiting.find? (fun w => w.at_.core == c && w.at_.agent == k) = some w → s.passFor v w = some i →
      v.passes[i]? = some p → s.agent? c k = some a → a.parts.find? w.at_.part = some part → 96 ≤ w.at_.d →
      let uid := s.uidOf c k
      let e := if v.kvfmt = 6 ∨ v.kvfmt = 7 then 2 else 1
      let rows := p.rows.take 384
      let rest := p.rows.drop 384
      let n := (if p.batch = 0 then 2 * 128 * 128 * e else 0) + rows.foldl (fun t r => t + 128 * kvBytes r.qfmt + 16) 0
      let fits := ∀ name, w.desc.bar = some name → s.barFits c (barAt name) n = true
      let ready := fits ∧ a.room .eng = true
      let word := (part.latch.map Latch.word).getD 0xF4400000
      let codes := [s.stopCode ctx .r (v.ktile p.page) v.tileBytes, s.stopCode ctx .r (v.vtile p.page) v.tileBytes].filterMap id
      let info : W64 := BitVec.ofNat 64 (p.page + rows.length * 2 ^ 24 + (if p.batch = 0 then 0 else 2 ^ 33) +
        (if rest = [] then 2 ^ 34 else 0) + (if p.catchup then 2 ^ 35 else 0) + p.batch % 256 * 2 ^ 40)
      let gives := fun (tiles : Option (List Byte × List Byte)) => ∃ t b, exec (.batchAssign ctx sw c k) s = .next t ∧
        t.agent? c k = some b ∧
        (∀ r, b.sget r = if r = w.at_.d - 96 then 0 else if r = w.at_.d - 95 then info else a.sget r) ∧
        b.eng.map OpRec.id = a.eng.map OpRec.id ++ [s.nextId] ∧
        (∃ z, b.parts.find? w.at_.part = some z ∧ z.wait = none ∧ z.pc = part.pc + BitVec.ofNat 64 (part.latch.elim 4 Latch.len) ∧ z.lanes = part.lanes) ∧
        (∃ o, (t.core c).copies = (s.core c).copies ++ [o] ∧ o.id = s.nextId ∧ o.agent = k ∧ o.fn = 8 ∧ o.bar = w.desc.bar ∧
          o.sig = none ∧ o.land = batchPieces v.hdim e w.desc tiles rows ∧ o.slots = rows.map PRow.slot ∧
          o.due = o.land.foldl (fun t x => t + x.2.length) 0) ∧ (w.desc.bar = none → KeepsPools s t) ∧
        Instr.copyLand c s.nextId ∈ t.pending ∧
        (live → ((∀ name n, w.desc.bar = some name → barAt name ≠ .cluster n) → t.mem = s.mem) ∧ ∃ z, t.sweep? ctx sw = some z ∧ z.batches = v.batches + 1 ∧ z.slots = v.slots ∧
          z.waiting = (v.waiting.filter fun x => !(x.at_.same w.at_)) ∧
          z.passes = if rest = [] then v.passes.eraseIdx i
            else v.passes.set i { p with rows := rest, batch := p.batch + 1, holder := some uid })
      (p.holder = some uid ∨ (p.holder = none ∧ s.targetDie v p.page = dieOf c)) ∧
      -- R253: where its expectation does not fit, the LPASS takes ILLEGAL_OPERAND and the batch stays for another
      (¬fits → (s.core c).lr.flags % 2 = 1 → a.handling = none → ∃ t b, exec (.batchAssign ctx sw c k) s = .next t ∧
        t.agent? c k = some b ∧ b.tcode = 0x02 ∧ b.epc = part.pc ∧ b.einfo = word.setWidth 64 ∧
        b.handling = some (w.at_.part, 0x02) ∧ t.mem = s.mem ∧
        t.sweep? ctx sw = some { v with waiting := v.waiting.filter fun x => !(x.at_.same w.at_) }) ∧
      (fits → a.room .eng = false → exec (.batchAssign ctx sw c k) s = .next (s.due (.batchAssign ctx sw c k))) ∧
      (ready → p.batch ≠ 0 → gives none) ∧
      (ready → p.batch = 0 → codes ≠ [] → (∀ x ∈ codes, resolvable x = true) →
        exec (.batchAssign ctx sw c k) s = .next (s.due (.batchAssign ctx sw c k))) ∧
      (ready → p.batch = 0 → (codes = [] ∨ ∃ x ∈ codes, resolvable x = false) →
        (codes = [] → ∀ kb vb, s.homeBytes ctx (v.ktile p.page) v.tileBytes = some kb → s.homeBytes ctx (v.vtile p.page) v.tileBytes = some vb →
          gives (some (kb, vb))) ∧
        -- a page that cannot be read is not delivered: the slots of its rows that are ACTIVE become BROKEN, reason 4
        ((codes ≠ [] ∨ s.homeBytes ctx (v.ktile p.page) v.tileBytes = none ∨
          s.homeBytes ctx (v.vtile p.page) v.tileBytes = none) → live → v.st ≠ .sealed → v.st ≠ .done →
          ∃ t z, exec (.batchAssign ctx sw c k) s = .next t ∧ t.mem = s.mem ∧ t.cores = s.cores ∧ t.sweep? ctx sw = some z ∧
            z.passes = v.passes.eraseIdx i ∧ ∀ x q, v.slots.find? x = some q →
              (x ∈ p.rows.map PRow.slot → q.st = .active → ∃ y, z.slots.find? x = some y ∧ y.st = .broken 4) ∧
              (x ∉ p.rows.map PRow.slot ∨ q.st ≠ .active → z.slots.find? x = some q)))) ∧
    -- the Hoop, where no other partial waits
    ∀ (op x : Nat) (p : Partial) (whey : Option Nat) (m : Msg), s.msgs.find? (fun m => m.id == op) = some m → m.ctx = ctx →
      m.kind = .partial_ sw x p whey → (v.st = .open_ ∨ v.st = .running) →
      let over_ := fun (t : State) (z : Sweep) => rests t ∧ t.sweep? ctx sw = some z ∧ (∀ y ∈ t.msgs, y.id ≠ op) ∧
        ∀ a, s.agent? m.core m.agent = some a → ∃ b, t.agent? m.core m.agent = some b ∧ b.xc = completeOp op a.xc ∧ b.v = a.v ∧
          b.s = a.s
      let ends := fun (z : Sweep) => ∃ t, exec (.partialArrive op) s = .next t ∧ over_ t z
      let discards := fun (z : Sweep) => ends { z with discarded := v.discarded + 1 }
      (s.hoopWait = [] → (v.slots.find? x = none → discards v) ∧
        ∀ q, v.slots.find? x = some q →
          (q.st ≠ .active → discards v) ∧
          (q.st = .active → (q.pages.length ≤ p.ord ∨ p.ord < q.next ∨ ∃ h ∈ q.held, h.p.ord = p.ord) →
            discards { v with slots := v.slots.put x { q with st := .broken 2 } }) ∧
          (q.st = .active → p.ord < q.pages.length → p.ord = q.next → q.held = [] →
            ends { v with merged := v.merged + 1, slots := v.slots.put x { q with
              acc := Partial.merge v.hdim q.acc p, next := q.next + 1,
              st := if q.next + 1 = q.pages.length then .complete else .active } }) ∧
          (q.st = .active → p.ord < q.pages.length → q.next < p.ord → (∀ h ∈ q.held, h.p.ord ≠ p.ord) →
            (whey = none → s.buffersUsed v.leadDie < 4096 →
              ends { v with slots := v.slots.put x { q with held := q.held ++ [{ p := p, whey := none }] } }) ∧
            (whey ≠ none ∨ 4096 ≤ s.buffersUsed v.leadDie →
              exec (.partialArrive op) s = .next ({ s with hoopWait := [op] }.due (.hoopWaitExpire op))))) ∧
      (s.hoopWait = [op] → ∀ q, v.slots.find? x = some q → q.st = .active → p.ord < q.pages.length → q.next < p.ord →
        (∀ h ∈ q.held, h.p.ord ≠ p.ord) → (whey ≠ none ∨ 4096 ≤ s.buffersUsed v.leadDie) →
        let slot := whey.or (s.freeWhey v)
        let expires := fun (t : State) => exec (.hoopWaitExpire op) s = .next t
        let lost := fun (t : State) (reason : Nat) => expires t ∧ t.hoopWait = [] ∧
          over_ t { v with discarded := v.discarded + 1, slots := v.slots.put x { q with st := .broken reason } }
        (slot = none → ∃ t, lost t 1 ∧
          ∀ a, s.agent? m.core m.agent = some a → op ∈ a.xc.map OpRec.id → ∃ b d, t.agent? m.core m.agent = some b ∧
            b.traps = a.traps ++ [d] ∧ d.op = op ∧
            d.at_ = .hoop ∧ d.info = { code := 0x10, einfo := BitVec.ofNat 64 (x % 1024 + p.ord * 2 ^ 32), eaddr := 0, fmask := 0 }) ∧
        (∀ k, slot = some k →
          (s.stopCode v.ctx .w (v.whey k) 528 = none → ∃ t z, expires t ∧ t.sweep? ctx sw = some z ∧ t.hoopWait = [] ∧
            z = { v with spills := v.spills + 1, slots := v.slots.put x { q with held := q.held ++ [{ p := p, whey := some k }] } }) ∧
          (whey = none → (∀ y ∈ v.slots, ∀ h ∈ y.2.held, h.whey ≠ some k) ∧ k < v.wheySlots) ∧
          ∀ code, s.stopCode v.ctx .w (v.whey k) 528 = some code →
            -- the write goes to the same slot once the pager has answered
            (resolvable code = true → ∃ t, expires t ∧ rests t ∧ t.hoopWait = [op] ∧ t.sweeps = s.sweeps ∧
              t.msgs.find? (fun m => m.id == op) = some { m with kind := .partial_ sw x p (some k) } ∧
              t.pending = s.pending ++ [.hoopWaitExpire op]) ∧
            (resolvable code = false → ∃ t, lost t 4)))

/-- R20, R26, R287 to R289, R316, R322 to R324, R337 to R342, R457: the events of launch, admission, plans and power. A
core loads a launch record, and its pool, Vat, baton and caches start anew; a workgroup is admitted with its waves and
its copy context; a plan starts on the lowest free cores of its dies, and a drained one frees them; the balancer ends
its interval and moves a core by its rule; deadlock is judged from two snapshots; energy is counted and windows begin.
Readings of the model: logs 38 and 39. -/
def Obligations.PlanEvents : Prop :=
  ∀ (s : State) (c : Nat),
    let x := s.core c
    let rests := fun (t : State) => t.mem = s.mem ∧ t.dram = s.dram
    -- R20
    let loaded := fun (t : State) (ctx : Nat) (lr : LaunchRec) (run : RunFor) =>
      let y := t.core c
      WroteBack s t ∧ t.dram = s.dram ∧ y.regTop = lr.regTop ∧ y.scrTop = lr.scrTop ∧ y.xchTop = lr.xchTop ∧ (∀ p, y.pool.get p = 0) ∧
      y.liveHigh = false ∧ y.emptyLines = [] ∧ y.l1 = [] ∧ y.vatQ = [] ∧ y.rdv = [] ∧ y.copies = [] ∧ y.baton = none ∧
      y.active = {} ∧ y.shadow = {} ∧ y.nomActive.valid = false ∧ y.nomShadow.valid = false ∧ y.run = run ∧ y.ctx = some ctx ∧
      y.lr = lr ∧ y.moving = false ∧ y.agents = x.agents ∧
      ∀ k, k ≠ c → (t.core k).pool = (s.core k).pool ∧ (t.core k).agents = (s.core k).agents ∧ (t.core k).run = (s.core k).run
    (∀ pl st p t lr, x.wgs = [] → x.pre = .none → s.plans.find? pl = some p → p.stages[st]? = some t → p.running = true →
      t.lrAddr = lr → c ∈ t.cores → (x.run ≠ .stage pl st ∨ x.moving = true) →
      let run := exec (.launchLoad c p.ctx lr (.stage pl st)) s
      (s.xstTo c = true → run = .next (s.due (.launchLoad c p.ctx lr (.stage pl st)))) ∧
      (s.xstTo c = false → ∃ t', run = .next t' ∧ loaded t' p.ctx t.lr (.stage pl st) ∧ Instr.wgAdmit c ∈ t'.pending)) ∧
    (∀ ctx a lr, x.wgs = [] → x.pre = .none → (∀ pl st, x.run ≠ .stage pl st) → s.launchRec ctx a = some lr →
      (s.ctx ctx).st = .active → s.checkRec ctx lr 1 = 0 → x.noNew = false → s.xstTo c = false →
      ∃ t, exec (.launchLoad c ctx a .tasks) s = .next t ∧ loaded t ctx lr .tasks) ∧
    -- R287 to R289, R324
    (∀ pl st p t g q, x.run = .stage pl st → s.plans.find? pl = some p → p.stages[st]? = some t → p.running = true →
      p.ending = none → x.pre = .none → (s.ctx p.ctx).st = .active → s.offerTo c pl st p t = .take g q →
      let run := exec (.wgAdmit c) s
      let lr := x.lr
      (s.budgetRoom p.ctx t.proj = false → run = .next s) ∧
      (s.budgetRoom p.ctx t.proj = true → x.hasRoom = false → run = .next (s.due (.wgAdmit c))) ∧
      (s.budgetRoom p.ctx t.proj = true → x.hasRoom = true → ∃ t' w b, run = .next t' ∧ rests t' ∧ KeepsPools s t' ∧
        (∀ k, k ≠ c → t'.core k = s.core k) ∧
        t'.pending = s.pending ++ ((if t.kind = 1 ∧ t.lr.blocks ≠ [] then t.cores.filter fun k => k != c else []) ++ [c]).map Instr.wgAdmit ∧
        (∀ k ∈ x.slotsInUse, k < b ∨ b + lr.slotTotal ≤ k) ∧
        w < 8 ∧ x.wgs.find? w = none ∧ b + lr.slotTotal ≤ 16 ∧
        (∀ u ∈ x.wgs, b + lr.slotTotal ≤ u.2.slotBase ∨ u.2.slotBase + lr.slotTotal ≤ b) ∧
        let y := t'.core c
        let rank := p.rankOf t s.devNum
        y.wgs = x.wgs.put w { uid := s.nextId, g := g, slotBase := b, copyEnded := lr.copyOff == 0xFFFFFFFF, task := none } ∧
        (∀ k a, k < 128 → x.agents.find? k = some a → y.agents.find? k = some a) ∧
        (∀ i, i < lr.nwaves → ∃ k base, k < 128 ∧ x.agents.find? k = none ∧
          y.agents.find? k = some { lr.wave w i (s.nextId + 1 + i) (lr.argsOf g) (lr.indices i g rank) with regBase := base } ∧
          -- R16, log 64: a place of its own in the register region
          (0 < lr.vregs → ∀ k' a, k' < 128 → k' ≠ k → y.agents.find? k' = some a → a.regBase ≠ base)) ∧
        (lr.copyOff ≠ 0xFFFFFFFF → y.agents.find? (128 + w) =
          some (lr.context w (s.nextId + 1 + lr.nwaves) (lr.argsOf g) (lr.indices 0 g rank))) ∧
        (∀ e, y.acc.get e = if b * 8192 ≤ e ∧ e < (b + lr.slotTotal) * 8192 then 0 else x.acc.get e) ∧
        ∃ r, t'.plans.find? pl = some r ∧ r.stages = q.stages ∧ r.pipes = q.pipes)) ∧
    -- R26, R32, R34
    (∀ (lr : LaunchRec) (w i age : Nat) (vs : List W64) (lvl : List (BitVec 32)),
      let a := lr.wave w i age vs lvl
      let b := lr.context w age vs lvl
      (∀ n, a.sget n = vs.getD n 0 ∧ b.sget n = vs.getD n 0) ∧ (∀ n l, a.vget n l = 0) ∧ (∀ n, a.mget n = 0) ∧
      a.frm = 0 ∧ a.fflags = 0 ∧ a.wb = 0 ∧ a.gng = 0 ∧ b.role = .copy ∧
      (a.parts.map fun p => (p.2.lanes, p.2.em)) = [(BitVec.allOnes 64, BitVec.allOnes 64)] ∧
      (b.parts.map fun p => p.2.pc) = [lr.code + BitVec.ofNat 64 lr.copyOff]) ∧
    -- R316
    (∀ n p, s.firstWaiting = some (n, p) →
      let wants := (p.stages.filter fun t => t.device == s.devNum).foldl (fun k t => k + t.coreInit) 0
      let may := wants + s.heldCores p.ctx ≤ (s.ctx p.ctx).cbCores ∧ (s.ctx p.ctx).st = .active
      (p.running = false ∧ p.ending = none ∧ ∀ r ∈ s.plans, r.2.running = false → r.2.ending = none →
        r.2.prio ≤ p.prio ∧ (r.2.prio = p.prio → p.order ≤ r.2.order)) ∧
      ((s.pickCores p.stages [] = none ∨ ¬may) → exec .planStart s = .next (s.due .planStart)) ∧
      ∀ ts, s.pickCores p.stages [] = some ts → may → ∃ t q, exec .planStart s = .next t ∧ t.plans.find? n = some q ∧
        q.running = true ∧ q.pipes = p.pipes ∧ q.stages.length = p.stages.length ∧ KeepsPools s t ∧
        (∀ d, (t.core d).agents = (s.core d).agents) ∧
        ∀ k st, q.stages[k]? = some st → st.device = s.devNum → st.running = true ∧ st.cores.length = st.coreInit ∧
          ∀ d ∈ st.cores, s.freeCore d = true ∧ st.dieMask.testBit (d / 32) = true ∧
            Instr.launchLoad d p.ctx st.lrAddr (.stage n k) ∈ t.pending) ∧
    -- R316: a plan that another device's controller has accepted
    (∀ (r : RemotePlan) off,
      let told : Instr := .podRequest r.ctx off (.plan r)
      let run := exec told s
      let open_ := s.numSet = true ∧ (s.ctx r.ctx).st = .active
      (¬open_ → run = .next s) ∧
      (open_ → 32 ≤ s.plans.length → run = .next (s.due told)) ∧
      (open_ → s.plans.length < 32 → s.announced r = none → run = .next s) ∧
      ∀ p, open_ → s.plans.length < 32 → s.announced r = some p → ∃ t slot, run = .next t ∧ rests t ∧
        t.cores = s.cores ∧ t.plans.find? s.planNo = some { p with order := s.planNo, slot := slot } ∧ p.lead = false ∧
        p.ctx = r.ctx ∧ p.prio = r.prio ∧ (∃ st ∈ p.stages, st.device = s.devNum) ∧ slot < 32 ∧
        t.pending = s.pending ++ [.planStart]) ∧
    -- R342
    (∀ pl p st reason stage pipe, s.plans.find? pl = some p → p.ending = some (st, reason, stage, pipe) →
      let still := ∀ d ∈ s.planCores pl, (s.core d).wgs = [] ∨
        (((s.core d).pre = .forced ∨ (s.core d).allStopped = true) ∧ (s.core d).quietForSave = true)
      (¬still → exec (.planDrain pl st reason stage pipe) s = .next (s.due (.planDrain pl st reason stage pipe))) ∧
      (still → ∃ t, exec (.planDrain pl st reason stage pipe) s = .next t ∧ t.plans.find? pl = none ∧ Instr.planStart ∈ t.pending ∧
        (∀ v ∈ t.sweeps, ¬(v.plan = pl ∧ v.ctx = p.ctx)) ∧
        ∀ d k, (s.core d).run = .stage pl k → (t.core d).run = .idle ∧ (t.core d).agents = [] ∧ (t.core d).wgs = [])) ∧
    -- R337 to R339
    (∀ pl p, s.plans.find? pl = some p → ∃ (t : State) (q : PlanSt), exec (.balance pl) s = .next t ∧ rests t ∧ KeepsPools s t ∧
      t.plans.find? pl = some q ∧
      (∀ (n : Nat) (r : PipeSt), p.pipes[n]? = some r →
        q.pipes[n]? = some (if (p.stages[r.producer]?).any (fun (t : StageSt) => t.device == s.devNum) then
          { r with occMean := if r.occN = 0 then 0 else r.occSum / r.occN, occSum := 0, occN := 0 } else r)) ∧
      (p.noBal = true ∨ p.move ≠ none ∨ p.running = false ∨ p.ending ≠ none → q.move = p.move ∧ t.cores = s.cores) ∧
      ∀ m, p.move = none → q.move = some m →
        m.inB = q.inOf m.receiver ∧ m.inD = q.inOf m.donor ∧ m.inD + p.hyst < m.inB ∧ m.donor ≠ m.receiver ∧
        q.outOf m.receiver < p.highWater ∧ (t.core m.core).moving = true ∧ (s.core m.core).noNew = false ∧
        ∃ b d e, p.stages[m.receiver]? = some b ∧ p.stages[m.donor]? = some d ∧ q.stages[m.donor]? = some e ∧
          b.cores.length < b.coreMax ∧ d.coreMin < d.cores.length ∧ m.core ∈ d.cores ∧ b.dieMask.testBit (m.core / 32) = true ∧
          e.cores = d.cores.filter fun k => k != m.core) ∧
    (∀ pl st p m b, x.run = .stage pl st → x.moving = true → x.wgs = [] → x.image = none → s.plans.find? pl = some p →
      p.move = some m → m.core = c → p.ending = none → p.stages[m.receiver]? = some b →
      let run := exec (.coreMoveLoad c) s
      let kept := ∃ t, p.stages[st]? = some t ∧ t.kind = 0 ∧ t.coresAt (5 + c / 4) = 0 ∧ t.node (5 + c / 4) ≠ []
      (kept ∨ s.xstTo c = true → run = .next (s.due (.coreMoveLoad c))) ∧
      (¬kept → s.xstTo c = false → b.ended = true → ∃ t q, run = .next t ∧ rests t ∧ KeepsPools s t ∧ (t.core c).moving = false ∧
        (t.core c).run = .idle ∧ (t.core c).ctx = none ∧ t.plans.find? pl = some q ∧ q.move = none ∧
        Instr.planStart ∈ t.pending) ∧
      (¬kept → s.xstTo c = false → b.ended = false → ∃ t q e, run = .next t ∧ loaded t p.ctx b.lr (.stage pl m.receiver) ∧
        t.plans.find? pl = some q ∧ q.move = some { m with loaded := true } ∧ q.stages[m.receiver]? = some e ∧ c ∈ e.cores ∧
        Instr.wgAdmit c ∈ t.pending)) ∧
    -- R341, R342
    (∀ pl p (remoteQuiet : Bool) (remoteCount sent received : Nat), s.plans.find? pl = some p → p.lead = true → p.running = true → p.ending = none →
      let run := exec (.deadlockSnapshot pl remoteQuiet remoteCount sent received) s
      let quiet := remoteQuiet = true ∧ ∃ o now, p.snap = some o ∧ s.planParked pl = some now ∧ o.commits = p.commits ∧ o.parked = now
      let dead := quiet ∧ sent = received ∧ ∃ o, p.snap = some o ∧ o.quiet = true ∧ o.count = p.commits + remoteCount
      let mayOpen := fun (q : PipeSt) => q.waitP ≠ [] ∧ q.flags % 2 = 0 ∧ 0 < q.spill ∧ 0 < q.wfree.size
      (¬dead → ∃ t o, run = .next t ∧ rests t ∧ t.cores = s.cores ∧ t.plans.find? pl = some { p with snap := some o } ∧
        (o.quiet = true ↔ quiet) ∧ o.count = p.commits + remoteCount ∧ o.commits = p.commits) ∧
      (dead → (∀ q ∈ p.pipes, ¬mayOpen q) → ∃ t, run = .next t ∧ rests t ∧ KeepsPools s t ∧
        t.plans.find? pl = some { p with ending := some (2, 0, 0, 0) } ∧ t.pending = s.pending ++ [.planDrain pl 2 0 0 0]) ∧
      (dead → (∃ q ∈ p.pipes, mayOpen q) → ∃ (t : State) (q : PlanSt), run = .next t ∧ rests t ∧ KeepsPools s t ∧ t.plans.find? pl = some q ∧
        q.snap = none ∧ ∀ (n : Nat) (r : PipeSt), p.pipes[n]? = some r → mayOpen r → ∃ z : PipeSt, q.pipes[n]? = some z ∧ z.spillOpen = true ∧ r.tNext ≤ z.tNext)) ∧
    -- R322, R324, R457
    (∃ t, exec .energyWindow s = .next t ∧ rests t ∧ t.cores = s.cores ∧ t.winEnergy = 0 ∧
      (∀ k, t.ctx k = { s.ctx k with winEnergy := 0 }) ∧ t.pending = s.pending ++ s.cores.map fun p => Instr.wgAdmit p.1) ∧
    (let e := Config.energyOf c s.tick
     let n := x.wgs.length
     ∃ t, exec (.energyUpdate c) s = .next t ∧ rests t ∧ t.devEnergy = s.devEnergy + e ∧ t.winEnergy = s.winEnergy + e ∧
      (∀ k, k ≠ c → t.core k = s.core k) ∧ t.core c = { x with energy := x.energy + e, wgs := (t.core c).wgs } ∧
      (∀ w g, x.wgs.find? w = some g → (t.core c).wgs.find? w = some { g with energy := g.energy + e / n }) ∧
      ∀ k, (t.ctx k).winEnergy = (s.ctx k).winEnergy + if x.ctx = some k then e / n * n else 0) ∧
    (∃ t, exec .clockStretch s = .next t ∧ t = { s with stretch := some (s.stretch.getD s.now) }) ∧
    ∀ since, s.stretch = some since → ∃ t f, exec .stretchEnd s = .next t ∧ t = { s with found := s.found ++ [f], stretch := none } ∧
      f.die = 0 ∧ f.logged = true ∧
      f.entry = { event := 0, time := s.now, channel := 14, kind := 8, ctx := 0xFF, detail := (s.now - since) / 1000,
                  where_ := f.entry.where_ }

/-- R371 to R375, R377 to R387, R389, R392, R406: the events of tasks, invocations and handles. A handle settles with its
signal, the invocations that wait on it, and the RRET that resolved it; a record enters its queue, or its handle breaks;
a task is checked and starts with its arguments; a cancellation acts on a device's table and is acknowledged; a result
migrates. Readings of the model: logs 19, 41 and 47. -/
def Obligations.TaskEvents : Prop :=
  ∀ (s : State),
    let freed := fun (h : W64) (e : HEntry) => if e.dropped = true ∧ (e.st = .resolved ∨ e.st = .broken) ∧ e.waiting = [] then
      ({ gen := if handleHome h ≠ s.devNum then e.gen else if e.gen = 2 ^ 30 - 1 then 1 else e.gen + 1 } : HEntry) else e
    let after := fun (h : W64) (e : HEntry) (how : Settlement) => freed h (match how with
      | .resolved a n dev => { e with waiting := [], st := .resolved, addr := a, size := n, loc := some dev }
      | .broken r d c => { e with waiting := [], st := .broken, reason := r, detail := d, cause := c }
      | .stale => { gen := e.gen })
    let status := fun (how : Settlement) => match how with
      | .broken r d _ => 5 + r.toNat * 2 ^ 8 + d.toNat * 2 ^ 16
      | _ => 0
    -- R377, R378, R381, R382, R389
    (∀ (h : W64) (how : Settlement),
      let ctx := s.ownerOf h
      let run := exec (.handleSettle h how) s
      (s.noticeHeld h = true → run = .next (s.due (.handleSettle h how))) ∧
      (s.noticeHeld h = false → ((s.hentry ctx h).map HEntry.st ≠ some .pending ∨ (how = .stale ∧ handleHome h = s.devNum)) →
        run = .next s) ∧
      ∀ e, s.noticeHeld h = false → s.hentry ctx h = some e → e.st = .pending → (how = .stale → handleHome h ≠ s.devNum) →
        (e.waiting = [] → ∃ t, run = .next t ∧ KeepsPools s t ∧ t.dram = s.dram ∧
          t.hrt.find? (s.hkey h) = some (after h e how) ∧ (∀ k, k ≠ s.hkey h → t.hrt.find? k = s.hrt.find? k) ∧
          (e.sig = 0 → t.mem = s.mem) ∧
          (∀ ia, e.sig ≠ 0 → (s.ctx ctx).translate .rw e.sig = some ia → s.nak ctx ia true = none → s.home ia % 16 = 0 →
            s.home ia / 32 ∉ s.bad →
            let o := s.home ia
            t.mem.readLE o 8 = (s.mem.readLE o 8 + (2 ^ 64 - 1)) % 2 ^ 64 ∧
            t.mem.readLE (o + 8) 8 = if s.mem.readLE (o + 8) 8 = 0 then status how else s.mem.readLE (o + 8) 8) ∧
          ∀ c k a i p, s.agent? c k = some a → a.parts.find? i = some p →
            (s.cores.flatMap fun x => x.2.agents.flatMap fun a => (a.2.parts.filter fun p => p.2.wait == some (.rret h)).map
              fun p => (x.1, a.1, p.1)) = [(c, k, i)] → p.wait = some (.rret h) →
            ∃ b q, t.agent? c k = some b ∧ b.parts.find? i = some q ∧ q.wait = none ∧
              q.pc = p.pc + BitVec.ofNat 64 (p.latch.elim 4 Latch.len) ∧ q.lanes = p.lanes) ∧
        (∀ a n dev, how = .resolved a n dev → ∃ t, run = .next t ∧ ∀ w ∈ e.waiting, ∃ m ∈ t.msgs,
          m.kind = .task { w with input := some (a, n) } dev ∧ m.ctx = ctx ∧ Instr.taskEnqueue (.own m.id) ∈ t.pending) ∧
        ∀ w f, (∀ a n dev, how ≠ .resolved a n dev) → e.waiting = [w] →
          s.hentry ctx w.handle = some f → f.st = .pending → f.waiting = [] →
          s.hkey w.handle ≠ s.hkey h → ∃ t, run = .next t ∧ t.hrt.find? (s.hkey h) = some (after h e how) ∧
            t.hrt.find? (s.hkey w.handle) = some (after w.handle f (.broken (if how = .stale then 5 else 4) 0 h))) ∧
    -- R379: LOC of an entry of this device, once it is chosen
    (∀ ctx (h : W64) dev e, handleHome h = s.devNum → s.hentry ctx h = some e → e.st = .pending → e.waiting = [] →
      s.locate ctx h dev = if e.loc = some dev then s else s.putEntry h { e with loc := some dev }) ∧
    -- R374, R378, R379, R380, R384
    (let breaks := fun (u : State) (m : Msg) (t : TaskRec) (r : BitVec 8) (cause : W64) (o : Out) =>
       o = .next ((u.endMsg m).settle m.ctx t.handle (.broken r 0 cause))
     -- the fate of an invocation where the state of its input handle is known
     let meets := fun (u : State) (m : Msg) (t : TaskRec) (h : W64) (o : Out) =>
       (u.hentry m.ctx h = none → breaks u m t 5 h o) ∧
       ∀ e, u.hentry m.ctx h = some e →
         let off := (e.loc = some u.devNum ∨ handleHome h ≠ u.devNum) ∧ t.job ∈ (u.ctx m.ctx).cancel
         (e.st = .broken → breaks u m t 4 h o) ∧
         (e.st = .resolved → ∃ v, o = .next v ∧ v.cores = u.cores ∧ v.pending = u.pending ++ [.taskEnqueue (.own m.id)] ∧
           v.msgs = (u.msgs.filter fun n => n.id != m.id) ++
             [{ m with kind := .task { t with input := some (e.addr, e.size) } (e.loc.getD u.devNum) }]) ∧
         (e.st = .pending → off → breaks u m t 2 t.handle o) ∧
         (e.st = .pending → ¬off →
           let v := (u.endMsg m).putEntry h { e with waiting := e.waiting ++ [t] }
           o = .next (match e.loc with
             | some d => v.locate m.ctx t.handle d
             | none => v))
     let loose := fun (ctx : Nat) (k : MsgKind) => ({ id := s.nextId, core := 0, agent := 1000, ctx := ctx, kind := k } : Msg)
     let sent := fun (m : Msg) => { s with nextId := s.nextId + 1, msgs := s.msgs ++ [m] }
     (∀ m t dev, s.msgs.find? (fun n => n.id == m.id) = some m → m.kind = .task t dev →
       let run := exec (.taskEnqueue (.own m.id)) s
       let u := if t.via = 0 then s else s.locate m.ctx t.handle dev
       let full := 65536 ≤ (u.ctx m.ctx).taskQ.length
       let off := t.job ∈ (u.ctx m.ctx).cancel
       (s.behindSame m t = true → run = .next (s.due (.taskEnqueue (.own m.id)))) ∧
       (s.behindSame m t = false →
         (dev ≠ s.devNum → run = .next (u.endMsg m)) ∧
         (dev = s.devNum → (∀ d, u.forwardOf t = some d → run = .next ((u.putMsg { m with kind := .task t d }).due (.taskEnqueue (.own m.id)))) ∧
           (u.forwardOf t = none → off → breaks u m t 2 t.handle run) ∧
           (u.forwardOf t = none → ¬off → full → run = .next (u.due (.taskEnqueue (.own m.id)))) ∧
           (u.forwardOf t = none → ¬off → ¬full → ∃ v, run = .next v ∧ v.mem = u.mem ∧ KeepsPools u v ∧
             v.ctx m.ctx = { u.ctx m.ctx with taskQ := (u.ctx m.ctx).taskQ ++ [t] } ∧ (∀ k, k ≠ m.ctx → v.ctx k = u.ctx k) ∧
             v.msgs = (u.msgs.filter fun n => n.id != m.id) ∧ v.pending = u.pending ++ [.taskStart m.ctx] ∧
             ∀ a, u.agent? m.core m.agent = some a → ∃ b, v.agent? m.core m.agent = some b ∧
               b = { a with xc := completeOp m.id a.xc })))) ∧
     -- records of other devices
     (∀ (r : RemoteTask),
       let run := exec (.taskEnqueue (.pod r)) s
       let rec_ := remoteRec r
       let m := loose r.ctx (.task rec_ s.devNum)
       let w := loose r.ctx (.invoke rec_ r.input)
       rec_.handle = r.handle ∧ rec_.via = r.input ∧ rec_.arg0 = r.arg0 ∧ rec_.input = r.result ∧
       ((s.ctx r.ctx).st ≠ .active → run = .next s) ∧
       ((s.ctx r.ctx).st = .active → (r.input = 0 ∨ r.result ≠ none) → run = .next ((sent m).due (.taskEnqueue (.own m.id)))) ∧
       ((s.ctx r.ctx).st = .active → r.input ≠ 0 → r.result = none → meets (sent w) w rec_ r.input run)) ∧
     (∀ (r : RemoteTask),
       let run := exec (.invocationArrive (.pod r)) s
       let rec_ := remoteRec r
       let w := loose r.ctx (.invoke rec_ r.input)
       (((s.ctx r.ctx).st ≠ .active ∨ handleHome r.input ≠ s.devNum) → run = .next s) ∧
       ((s.ctx r.ctx).st = .active → handleHome r.input = s.devNum → meets (sent w) w { rec_ with input := none } r.input run)) ∧
     (∀ m t h, s.msgs.find? (fun n => n.id == m.id) = some m → m.kind = .invoke t h →
       let run := exec (.invocationArrive (.own m.id)) s
       (s.behindOwn m = true → run = .next (s.due (.invocationArrive (.own m.id)))) ∧
       (s.behindOwn m = false → handleHome h ≠ s.devNum → run = .next (s.endMsg m)) ∧
       (s.behindOwn m = false → handleHome h = s.devNum → meets s m t h run)) ∧
     ∀ m h, s.msgs.find? (fun n => n.id == m.id) = some m → m.kind = .drop h →
       let run := exec (.invocationArrive (.own m.id)) s
       let gone := s.dropMsg m.id
       (s.behindOwn m = true → run = .next (s.due (.invocationArrive (.own m.id)))) ∧
       (s.behindOwn m = false → (s.hentry m.ctx h = none → run = .next gone) ∧
         ∀ e, s.hentry m.ctx h = some e → run = .next (gone.putEntry h (freed h { e with dropped := true })))) ∧
    -- R371 to R375
    (∀ ctx t rest, (s.ctx ctx).taskQ = t :: rest → (s.ctx ctx).st = .active →
      let run := exec (.taskStart ctx) s
      let next := s.setCtx ctx { s.ctx ctx with taskQ := rest, taskGone := [] }
      let go := fun (u : State) => if rest = [] then u else u.due (.taskStart ctx)
      let breaks := fun (u : State) (r d : BitVec 8) => run = .next (go (u.settle ctx t.handle (.broken r d t.handle)))
      (∀ ps, s.readNode ctx t = .wait ps → run = .next (s.due (.taskStart ctx))) ∧ (s.readNode ctx t = .bad → breaks next 7 0) ∧
      (∀ va n, s.readNode ctx t = .spoilt va n → breaks (next.metRange ctx va n) 1 7) ∧
      ∀ lr bases strides, s.readNode ctx t = .node lr bases strides →
        let r := s.checkRec ctx lr 1
        (r ≠ 0 → breaks (next.find 0 13 9 ctx r next.freeWhere 0 true) 6 (BitVec.ofNat 8 r)) ∧
        (r = 0 → t.job ∈ (s.ctx ctx).cancel → breaks next 2 0) ∧
        (r = 0 → t.job ∉ (s.ctx ctx).cancel → (s.budgetRoom ctx lr.wgEnergy = false ∨ s.taskCore ctx lr = none) →
          run = .next (s.due (.taskStart ctx))) ∧
        (r = 0 → t.job ∉ (s.ctx ctx).cancel → s.budgetRoom ctx lr.wgEnergy = true → ∀ c load, s.taskCore ctx lr = some (c, load) →
          (load = true → (s.core c).wgs = [] ∧ (s.core c).agents = []) →
          let used := if load then lr else (s.core c).lr
          let b0 := if t.arg0 ≠ 0 then t.arg0 else bases.getD 0 0
          let vs := ((b0 :: bases.drop 1).zip strides).map fun p => p.1 + t.inst * p.2
          let vs := match t.input with
            | some (x, n) => x :: BitVec.ofNat 64 n :: vs.drop 2
            | none => vs
          ∃ u w g, run = .next u ∧ WroteBack s u ∧ (u.ctx ctx).taskQ = rest ∧ (u.core c).run = .tasks ∧ (u.core c).lr = used ∧
            (u.core c).l1 = [] ∧ (u.core c).wgs.find? w = some g ∧ (s.core c).wgs.find? w = none ∧ g.g = 0 ∧
            g.task = some { handle := t.handle, job := t.job } ∧
            ∀ i, i < used.nwaves → ∃ k age lvl base, (u.core c).agents.find? k =
              some { used.wave w i age (vs ++ [t.inst, t.job.setWidth 64]) lvl with regBase := base })) ∧
    -- R383, R387, R392
    (∀ dev ctx len, dev ≠ s.devNum → ∃ t, exec (.queueReport dev ctx len) s = .next t ∧
      t = { s with podQ := t.podQ, podCtx := t.podCtx, lostDevs := s.lostDevs.filter fun d => d != dev } ∧
      (t.podQ.getD ctx []).getD dev 0 = len ∧ dev ∈ t.podCtx.getD ctx [] ∧
      ∀ d, d ≠ dev → (t.podQ.getD ctx []).getD d 0 = (s.podQ.getD ctx []).getD d 0) ∧
    (∀ (ctx : Nat) (job : BitVec 32) (act : CancelAct),
      let x := s.ctx ctx
      let room := ((job :: x.cancel) ++ x.reserved).eraseDups.length ≤ 256
      let mine := s.msgs.find? (fun n => n.ctx == ctx && match n.kind with
        | .jcan j mo _ ds ks _ => j == job && jcanAct mo == act && ds.contains s.devNum && !(ks.any fun a => a.1 == s.devNum)
        | _ => false)
      let run := exec (.cancelArrive s.devNum ctx job act) s
      let acts := fun (t : State) => t.mem = s.mem ∧ t.cores = s.cores ∧ (∀ k, k ≠ ctx → t.ctx k = s.ctx k) ∧
        (act = .reserve → t.ctx ctx = if room then { x with reserved := x.reserved ++ [job] } else x) ∧
        (act = .set → job ∈ (t.ctx ctx).cancel ∧ (∀ j, j ∈ (t.ctx ctx).cancel ↔ j = job ∨ j ∈ x.cancel) ∧
          (t.ctx ctx).reserved = x.reserved.erase job) ∧
        (act = .release → t.ctx ctx = { x with reserved := x.reserved.erase job }) ∧
        (act = .clear → t.ctx ctx = { x with cancel := x.cancel.filter fun j => j != job })
      -- another device's JCAN
      (mine = none → (x.st = .active → ∃ t, run = .next t ∧ acts t ∧ t.pending = s.pending) ∧ (x.st ≠ .active → run = .next s)) ∧
      ∀ (m : Msg) (mode d : Nat) (devs : List Nat) (acks : List (Nat × Bool)) (second : Bool),
        mine = some m → m.kind = .jcan job mode d devs acks second →
        ∃ t, run = .next t ∧ acts t ∧
          (acks.length + 1 < devs.length → t.pending = s.pending) ∧
          (devs.length ≤ acks.length + 1 → act ≠ .reserve → t.pending = s.pending ++ [.jcanComplete m.id]) ∧
          (devs.length = acks.length + 1 → act = .reserve → room → (∀ a ∈ acks, a.2 = true) →
            t.pending = s.pending ++ devs.map fun v => Instr.cancelArrive v m.ctx job .set) ∧
          (devs.length = acks.length + 1 → act = .reserve → ¬room →
            let good := (acks.filter fun a => a.2).map Prod.fst
            t.pending = s.pending ++ if good = [] then [.jcanComplete m.id] else
              good.map fun v => Instr.cancelArrive v m.ctx job .release)) ∧
    (∀ (m : Msg) (job : BitVec 32) (mode d : Nat) (devs : List Nat) (acks : List (Nat × Bool)) (second : Bool),
      s.msgs.find? (fun n => n.id == m.id) = some m → m.kind = .jcan job mode d devs acks second → mode ≠ 0 → devs.length ≤ acks.length →
      ∃ t, exec (.jcanComplete m.id) s = .next t ∧ t.mem = s.mem ∧ t.msgs = (s.msgs.filter fun n => n.id != m.id) ∧
        ∀ a, s.agent? m.core m.agent = some a → ∃ b, t.agent? m.core m.agent = some b ∧ b.xc = completeOp m.id a.xc ∧
          (∀ n, b.sget n = if (n, m.id) ∈ a.regWait then (if mode = 3 then 1 else 0) else a.sget n) ∧
          b.regWait = a.regWait.filter fun p => p.2 ≠ m.id) ∧
    -- R380, R406
    ∀ (h : W64) (dev : Nat) (e : HEntry), s.hentry (s.ownerOf h) h = some e → e.st = .resolved →
      let ctx := s.ownerOf h
      let x := e.loc.getD s.devNum
      let run := exec (.migrate h dev) s
      let ps := s.resultPages ctx e
      (dev = x → run = .next s) ∧
      (dev ≠ x → x = s.devNum → (∃ p ∈ ps, p ∉ s.migrating) → ∃ t, run = .next t ∧
        t = { s with migrating := t.migrating, pending := s.pending ++ [.migrate h dev] } ∧
        ∀ q, q ∈ t.migrating ↔ q ∈ s.migrating ∨ q ∈ ps) ∧
      (dev ≠ x → x = s.devNum → (∀ p ∈ ps, p ∈ s.migrating) → ∃ t, run = .next t ∧
        t.hrt.find? (s.hkey h) = some { e with loc := some dev } ∧ t.forwards.find? h.toNat = some dev ∧ KeepsPools s t ∧
        ∀ p ∈ ps, t.pages.find? p = none ∧ t.freed.find? p = some ctx ∧ (s.heldSys = [] → ∀ a, a / 65536 = p → t.mem.get a = 0)) ∧
      (dev ≠ x → x ≠ s.devNum → dev ≠ s.devNum → ∃ t, run = .next t ∧ t = s.putEntry h { e with loc := some dev }) ∧
      (x ≠ s.devNum → dev = s.devNum → ∃ t, run = .next t ∧ t.hrt.find? (s.hkey h) = some { e with loc := some dev } ∧
        t.forwards.find? h.toNat = none ∧
        ∀ ia a, cut2M e.addr.toNat e.size = [(e.addr.toNat, e.size)] → (s.ctx ctx).translate .r e.addr = some ia →
          iaClass ia = 5 → podDev ia = x → remoteAddr (ia % 2 ^ 43) = some a →
          ∀ b, t.mem.get b = if a ≤ b ∧ b < a + e.size ∧ ((s.pages.find? (b / 65536)).any fun p => p.owner != ctx) = false
            then s.mem.get (ia + (b - a)) else s.mem.get b)

/-- R47, R185, R188, R189, R191, R196 to R199, R272, R404, R434 to R438: the events of the memory side. A NAK parks a wave's
memory issue, or suspends or ends a copy, and asks the pager; the pager's answer reaches every lane that waits for its page,
and a controller's signal that waits for it (log 25); the replays run once every NAK is answered, and refused lanes
leave a MEMORY_FAULT; packets go between slices and base dies with tags; slices write, lines fill and are written back.
Readings of the model: logs 6, 19, 25, 47 and 65. -/
def Obligations.MemoryEvents : Prop :=
  ∀ (s : State),
    (∀ c k a f, s.agent? c k = some a → a.faults.find? (fun g => g.id == f.id) = some f →
      let judge := fun (g : Access) (r : LaneReq) =>
        if r.answer ≠ none then r
        else if r.code ≠ 0x01 ∧ r.code ≠ 0x04 then { r with answer := some false }
        else if s.laneNak c g.kind g.scope r.va g.size = none then { r with answer := some true }
        else r
      let faults := a.faults.map fun (g : Access) => if g.id = f.id then { g with reqs := g.reqs.map (judge g) } else g
      ∃ t, exec (.nakReport c k f.id) s = .next t ∧ t.mem = s.mem ∧ KeepsPools s t ∧
        t.agent? c k = some { a with memParked := true, faults := faults } ∧
        ((∀ g ∈ faults, ∀ r ∈ g.reqs, r.answer ≠ none) → Instr.memoryIssueResume c k ∈ t.pending) ∧
        ∀ r ∈ f.reqs, ∀ p g, f.kind.write = true → s.pageAt c r.va = some p → s.pages.find? p = some g → g.policy = 1 →
          Instr.collapse p ∈ t.pending) ∧
    (∀ c k a o, s.agent? c k = some a → (∀ f ∈ a.faults, f.id ≠ o.id) → s.copyOp? c o.id = some o → o.suspended = none →
      (s.copyStop c o = none → exec (.nakReport c k o.id) s = .next (s.due (.copyLand c o.id))) ∧
      ∀ va code, s.copyStop c o = some (va, code) →
        (code ≠ 0x01 → code ≠ 0x04 → exec (.nakReport c k o.id) s = .next (s.due (.copyAbort c o.id code va))) ∧
        ((code = 0x01 ∨ code = 0x04) → ∃ t, exec (.nakReport c k o.id) s = .next t ∧ t.mem = s.mem ∧
          t.copyOp? c o.id = some { o with suspended := some (va, code) })) ∧
    (∀ page,
      let mark := fun (c : Nat) (ok : Bool) (r : LaneReq) =>
        if r.answer = none ∧ (r.code = 0x01 ∨ r.code = 0x04) ∧ s.pageAt c r.va = some page then { r with answer := some ok } else r
      let lanes := fun (t : State) (ok : Bool) => ∀ c k a, s.agent? c k = some a → ∃ b, t.agent? c k = some b ∧
        b.faults = a.faults.map fun (f : Access) => { f with reqs := f.reqs.map (mark c ok) }
      (∃ t, exec (.pagerAnswer page true) s = .next t ∧ lanes t true ∧
        (∀ p, s.pages.find? page = some p → t.pages.find? page =
          some (if p.retired then { p with retired := false, frame := s.nextFrame } else p)) ∧
        (∀ x, s.pages.find? page = none → iaClass (page * 65536) ≤ 4 → s.pageFor page = some x →
          t.pages.find? page = some { owner := x, frame := s.nextFrame }) ∧
        (∀ p, p ≠ page → t.pages.find? p = s.pages.find? p) ∧ KeepsPools s t ∧
        (s.heldSys = [] → (∀ p, s.pages.find? page = some p → p.retired = false) →
          (∀ w ∈ s.heldWb, w.line * 128 / 65536 ≠ page) → t.mem = s.mem) ∧
        (∀ w ∈ t.heldWb, w.line * 128 / 65536 ≠ page) ∧
        -- a controller's signal that waits for the page
        ∀ x va st ia, s.heldSys = [{ ctx := x, pieces := [], sigs := [(va, st)] }] → s.pages.find? page = none →
          s.pageFor page = some x → (s.ctx x).translate .rw va = some ia → iaClass ia < 4 → iaOff ia < 384 * GiB →
          ia / 65536 = page → ia % 16 = 0 → page ∉ s.migrating → ia / 32 ∉ s.bad → (∀ w ∈ s.heldWb, w.line * 128 / 65536 ≠ page) →
          t.heldSys = [] ∧ t.mem.readLE ia 8 = (s.mem.readLE ia 8 + (2 ^ 64 - 1)) % 2 ^ 64 ∧
          t.mem.readLE (ia + 8) 8 = if s.mem.readLE (ia + 8) 8 = 0 ∧ st ≠ 0 then st else s.mem.readLE (ia + 8) 8) ∧
      ∃ t, exec (.pagerAnswer page false) s = .next t ∧ lanes t false ∧ t.pages = s.pages ∧ KeepsPools s t ∧
        -- who waits to read the page knows of the refusal
        (∀ c k a i p, s.agent? c k = some a → a.parts.find? i = some p → p.wait = some (.fetch page) →
          ∃ b, t.agent? c k = some b ∧ b.parts.find? i = some { p with nofetch := some page }) ∧
        (∀ w ∈ t.heldWb, w.line * 128 / 65536 ≠ page)) ∧
    (∀ c k a, s.agent? c k = some a →
      let run := exec (.memoryIssueResume c k) s
      let answered := ∀ f ∈ a.faults, ∀ r ∈ f.reqs, r.answer ≠ none
      ((a.memParked = false ∨ ¬answered) → run = .next s) ∧
      (a.memParked = true → answered → ∃ t b, run = .next t ∧ t.agent? c k = some b ∧
        (b.memParked = true ↔ (b.faults ≠ [] ∨ b.replays ≠ [])) ∧
        ∀ f r rs, a.faults = [f] → f.reqs = r :: rs → (∀ q ∈ f.reqs, q.answer = some false) → b.faults = [] ∧
          b.replays = a.replays ++ [f.id] ∧ Instr.accessComplete c k f.cls f.id ∈ t.pending ∧ WroteBack s t ∧ KeepsPools s t ∧
          (f.ord = 0 → f.scope ≠ 5 → t.mem = s.mem) ∧
          let e := faultLayout (s.core c).lr.code f.pc f.word r.code
          ∃ d, b.traps = a.traps ++ [d] ∧ d.op = f.id ∧ d.at_ = .park none ∧
            d.info = { code := 0x06, einfo := e, eaddr := r.va, fmask := maskOf (f.reqs.map LaneReq.lane) })) ∧
    -- packets
    (∀ d sl stk pch,
      let x := s.die d
      let at_ := fun (r : Req) => r.slice = sl ∧ r.stack = stk ∧ r.pch = pch
      let keeps := fun (t : State) => t.mem = s.mem ∧ t.cores = s.cores ∧ ∀ e, e ≠ d → t.die e = s.die e
      (∀ r k, x.reqs.find? (fun q => q.at_ sl stk pch && q.tag.isNone && q.nak.isNone) = some r → k < 8 →
        (∀ q ∈ x.reqs, at_ q → q.tag ≠ some k) → (∀ j, j < k → ∃ q ∈ x.reqs, at_ q ∧ q.tag = some j) →
        ∃ t, exec (.portSend d sl stk pch) s = .next t ∧ keeps t ∧ t.dram = s.dram ∧
          (t.die d).req? sl stk pch k = some { r with tag := some k } ∧ (t.die d).reqs.length = x.reqs.length ∧
          t.pending = s.pending ++ [if r.write then .wr d sl stk pch k else .rd d sl stk pch k]) ∧
      ((∀ k, k < 8 → ∃ q ∈ x.reqs, at_ q ∧ q.tag = some k) → exec (.portSend d sl stk pch) s = .next s) ∧
      ∀ r k, x.req? sl stk pch k = some r →
        let now := s.baseNak r.ctx r.ia
        let put := fun (t : State) (q : Req) => (t.die d).req? sl stk pch k = some q
        (r.write = false → r.served = false →
          (x.mayServe r = false → exec (.rd d sl stk pch k) s = .next (s.due (.rd d sl stk pch k))) ∧
          (x.mayServe r = true → ∃ t, exec (.rd d sl stk pch k) s = .next t ∧ keeps t ∧ t.dram = s.dram ∧
            (now = none →
              put t { r with served := true, data := s.dram.bytes r.ia 64, err := (eccWords r.ia 64).any fun w => s.dramBad.contains w } ∧
              t.pending = s.pending ++ [.rdr d sl stk pch k]) ∧
            ∀ code, now = some code → put t { r with served := true, nak := some code } ∧
              t.pending = s.pending ++ [.nak d sl stk pch k code])) ∧
        (r.write = true → r.served = false →
          (x.mayServe r = false → exec (.wr d sl stk pch k) s = .next (s.due (.wr d sl stk pch k))) ∧
          (x.mayServe r = true → ∃ t, exec (.wr d sl stk pch k) s = .next t ∧ keeps t ∧
            (now = none → put t { r with served := true } ∧ Instr.wra d sl stk pch k ∈ t.pending ∧
              (∀ w, w ∈ t.dramBad ↔ w ∈ r.marks ∨ (w ∈ s.dramBad ∧ r.covers w = false)) ∧
              (r.ia % 64 = 0 → r.ia / 32 ∉ s.dramBad → r.ia / 32 + 1 ∉ s.dramBad → r.marks = [] → ∀ b, t.dram.get b =
                if r.ia ≤ b ∧ b < r.ia + 64 ∧ r.mask.getD (b - r.ia) false = true then r.data.getD (b - r.ia) 0
                else s.dram.get b)) ∧
            ∀ code, now = some code → put t { r with served := true, nak := some code } ∧ t.dram = s.dram ∧
              t.pending = s.pending ++ [.nak d sl stk pch k code])) ∧
        -- a reply frees the tag
        (let ends := fun (i : Instr) => ∃ t, exec i s = .next t ∧ keeps t ∧ t.dram = s.dram ∧ (t.die d).reqs = x.reqs.erase r ∧
          t.pending = s.pending ++ [.portSend d sl stk pch]
         (r.write = false → r.served = true → r.nak = none → ends (.rdr d sl stk pch k)) ∧
         (r.write = true → r.served = true → r.nak = none → ends (.wra d sl stk pch k)) ∧
         ∀ code, r.nak = some code → (¬(r.write = true ∧ code = 0x04) → ends (.nak d sl stk pch k code)) ∧
          -- a write to a retired frame waits for the pager
          (r.write = true → code = 0x04 → ∃ t, exec (.nak d sl stk pch k code) s = .next t ∧ keeps t ∧
            t.pending = s.pending ++ [.portSend d sl stk pch] ∧
            t.dram = s.dram ∧ { r with tag := none } ∈ (t.die d).reqs))) ∧
    -- slices and caches
    (∀ (ctx ia : Nat) (data : List (BitVec 8)) (mask : List Bool), mask.length = data.length → s.home ia % 128 + data.length ≤ 128 →
      let a := s.home ia
      let wrote := fun (t : State) => ∀ b, t.mem.get b =
        if a ≤ b ∧ b < a + data.length ∧ mask.getD (b - a) false = true then data.getD (b - a) 0 else s.mem.get b
      ∃ t, exec (.sliceWrite ctx ia data mask) s = .next t ∧ t.dram = s.dram ∧ KeepsPools s t ∧
        ((homeOf a).isSome = true → s.nak ctx ia true ≠ none → t.mem = s.mem) ∧
        ((homeOf a).isSome = true → s.nak ctx ia true = some 0x04 → ∃ w, t.heldWb = s.heldWb ++ [w] ∧ w.line = a / 128 ∧ w.own = ctx) ∧
        ((homeOf a).isSome = true → s.nak ctx ia true = none → (∀ w ∈ eccWords a data.length, w ∉ s.bad) → wrote t) ∧
        -- what another device or the host holds; a page of which this device has a replica changes by its collapse alone
        (homeOf a = none → s.replicaHeld a = false → wrote t) ∧
        (homeOf a = none → s.replicaHeld a = true → t = s)) ∧
    (∀ c ia x, (s.core c).ctx = some x →
      (s.nak x ia false ≠ none → exec (.lineFill c ia) s = .next s) ∧
      (s.nak x ia false = none → ∃ t, exec (.lineFill c ia) s = .next t ∧ WroteBack s t ∧ t.dram = s.dram ∧ KeepsPools s t ∧
        (∃ l, (t.core c).l1.find? (ia / 128) = some l ∧ l.own = x) ∧
        (s.cachesOwn c → t.mem = s.mem ∧ ∀ h, t.seen c h = s.seen c h))) ∧
    (∀ c line, c < 128 → ∃ t, exec (.writeBack (.l1 c) line) s = .next t ∧ WroteBack s t ∧ t.dram = s.dram ∧ KeepsPools s t ∧
      (t.core c).l1.find? line = none ∧
      ∀ l, (s.core c).l1.find? line = some l → (s.cluster (c / 4)).foreign l.own line = false → l.dirty ≠ 0 →
        t.mem = s.mem ∧ ∃ b, (t.cluster (c / 4)).line? l.own line = some b ∧ ∀ i, i < 128 →
          -- the cluster's line receives the dirty bytes and no other
          (l.dirty.getLsbD i = true → b.data.get i = l.data.get i ∧ b.dirty.getLsbD i = true ∧ b.valid.getLsbD i = true) ∧
          (l.dirty.getLsbD i = false → match (s.cluster (c / 4)).line? l.own line with
            | some k => b.data.get i = k.data.get i ∧ b.dirty.getLsbD i = k.dirty.getLsbD i ∧ b.valid.getLsbD i = k.valid.getLsbD i
            | none => b.dirty.getLsbD i = false ∧ b.valid.getLsbD i = false)) ∧
    (∀ u line, u < 32 → ∃ t, exec (.writeBack (.buffer u) line) s = .next t ∧ WroteBack s t ∧ t.dram = s.dram ∧ KeepsPools s t ∧
      (t.cluster u).buf.find? line = none ∧ (t.cluster u).au.find? line = none ∧
      ∀ l, (s.cluster u).buf.find? line = some l → (s.cluster u).au.find? line = none →
        let h := s.home (line * 128) / 128
        s.retiredLine h = false → (∀ w ∈ eccWords (h * 128) 128, w ∉ s.bad) → l.bad &&& l.dirty = 0 →
        ∀ i, i < 128 → t.mem.get (h * 128 + i) = if l.dirty.getLsbD i then l.data.get i else s.mem.get (h * 128 + i)) ∧
    -- a line leaves the cache ways: its dirty bytes go to the base die
    (∀ d line, iaClass (line * 128) ≤ 4 → (homeOf (line * 128)).map Prod.fst = some d →
      ∃ t, exec (.writeBack (.ways d) line) s = .next t ∧ t.mem = s.mem ∧ t.dram = s.dram ∧ KeepsPools s t ∧
        t.wayOf (line * 128) = none ∧
        ∀ w, s.wayOf (line * 128) = some w → ∀ i, i < 128 → w.dirty.getLsbD i = true → ∃ r ∈ (t.die d).reqs,
          r.write = true ∧ r.ctx = w.own ∧ r.ia ≤ line * 128 + i ∧ line * 128 + i < r.ia + 64 ∧
          r.mask.getD (line * 128 + i - r.ia) false = true ∧ r.data.getD (line * 128 + i - r.ia) 0 = s.mem.get (line * 128 + i)) ∧
    ∀ d line, d < 4 → ∃ t, exec (.writeBack (.replica d) line) s = .next t ∧ t.mem = s.mem ∧ t.dram = s.dram ∧ KeepsPools s t ∧
      (t.die d).reps.find? line = none

/-- R280, R382, R402 to R405, R417, R419: the events of page ownership and of the pod. A page that passes to another
context, or back to free, reads zero; a read-duplicated page collapses once every holder of a replica has acknowledged;
a replica is filled or made known; a request of another device is performed at the home, unless it is refused; what
waits for a device that is lost ends. Readings of the model: logs 19 and 47. -/
def Obligations.PodEvents : Prop :=
  ∀ (s : State),
    (∀ n own, (∀ c, own = some c → c < 64) → iaClass (n * 65536) ≤ 4 → n < 2 ^ 40 →
      ∃ t, exec (.pageOwnerChange (.page n) own) s = .next t ∧ KeepsPools s t ∧
        -- a page in use keeps its frame, a free one gets a new one
        (t.pages.find? n = match own, s.pages.find? n with
          | some c, some g => some { g with owner := c, policy := 0 }
          | some c, none => some { owner := c, frame := s.nextFrame }
          | none, _ => none) ∧
        (∀ g, own = none → s.pages.find? n = some g → t.freed.find? n = some g.owner) ∧
        (∀ p, p ≠ n → t.pages.find? p = s.pages.find? p) ∧ (∀ a, a / 65536 = n → t.mem.get a = 0 ∧ t.dram.get a = 0) ∧
        ∀ a, a / 65536 ≠ n → t.mem.get a = s.mem.get a ∧ t.dram.get a = s.dram.get a) ∧
    (∀ d g own, (∀ c, own = some c → c < 64) → d < 4 → g < 64 * (s.die d).vaultSteps * 12 →
      ∃ t, exec (.pageOwnerChange (.granule d g) own) s = .next t ∧ KeepsPools s t ∧ t.pages = s.pages ∧
        (t.die d).vaultOwn.find? g = own ∧ ∀ i, i < 65536 → t.mem.get (7 * 2 ^ 53 + d * 2 ^ 51 + g * 65536 + i) = 0) ∧
    (∀ page p, s.pages.find? page = some p →
      (p.policy = 1 → s.collapse.find? page = none →
        let devs := (s.replicas.find? page).getD []
        ∃ t, exec (.collapse page) s = .next t ∧ t = { s with collapse := t.collapse, pending := t.pending } ∧
          t.collapse.find? page = some devs ∧ t.pending = s.pending ++ if devs = [] then [.collapseDone page] else []) ∧
      ((p.policy ≠ 1 ∨ (s.collapse.find? page).isSome = true) → exec (.collapse page) s = .next s) ∧
      (s.collapse.find? page = some [] → ∃ t, exec (.collapseDone page) s = .next t ∧ (s.heldSys = [] → t.mem = s.mem) ∧ KeepsPools s t ∧
        t.pages.find? page = some { p with policy := 0 } ∧ t.collapse.find? page = none ∧ t.replicas.find? page = none ∧
        let mark := fun (c : Nat) (r : LaneReq) =>
          if r.answer = none ∧ (r.code = 0x01 ∨ r.code = 0x04) ∧ s.pageAt c r.va = some page then { r with answer := some true } else r
        ∀ c k a, s.agent? c k = some a → ∃ b, t.agent? c k = some b ∧
          b.faults = a.faults.map fun (f : Access) => { f with reqs := f.reqs.map (mark c) }) ∧
      ∀ devs, s.collapse.find? page = some devs → devs ≠ [] → exec (.collapseDone page) s = .next s) ∧
    (∀ page dev,
      -- this device's own replica goes, and every line of the page with it
      (dev = s.devNum → ∃ t, exec (.replicaInvalidate page dev) s = .next t ∧ KeepsPools s t ∧
        (s.replicaHeld (page * 65536) = true → t.replicas.find? page = none ∧
          ∀ a, t.repMem.get a = if a / 65536 = page then 0 else s.repMem.get a) ∧
        (s.replicaHeld (page * 65536) = false → t.replicas = s.replicas ∧ t.repMem = s.repMem) ∧
        (∀ c l x, (t.core c).l1.find? l = some x → s.home (l * 128) / 65536 ≠ page) ∧
        ∀ a, a / 65536 ≠ page → t.mem.get a = s.mem.get a) ∧
      (∀ devs, dev ≠ s.devNum → s.collapse.find? page = some devs → ∃ t, exec (.replicaInvalidate page dev) s = .next t ∧
        t = { s with collapse := t.collapse, replicas := t.replicas, pending := t.pending } ∧
        t.collapse.find? page = some (devs.filter fun d => d != dev) ∧
        (∀ d, d ∈ (t.replicas.find? page).getD [] ↔ d ≠ dev ∧ d ∈ (s.replicas.find? page).getD []) ∧
        t.pending = s.pending ++ if (∀ d ∈ devs, d = dev) ∧ devs ≠ [] then [.collapseDone page] else []) ∧
      (∀ data, dev = s.devNum → iaClass (page * 65536) = 5 → podDev (page * 65536) ≠ s.devNum →
        (remoteAddr (page * 65536 % 2 ^ 43)).isSome = true → (data.map Prod.fst).Nodup →
        ∃ t, exec (.replicaMake page dev data) s = .next t ∧ KeepsPools s t ∧ t.replicas.find? page = some [dev] ∧
          (∀ b ∈ data, b.1 < 65536 → t.mem.get (page * 65536 + b.1) = b.2 ∧ t.repMem.get (page * 65536 + b.1) = b.2) ∧
          (∀ i, i < 65536 → i ∉ data.map Prod.fst → t.mem.get (page * 65536 + i) = 0 ∧ t.repMem.get (page * 65536 + i) = 0) ∧
          ∀ a, a / 65536 ≠ page → t.mem.get a = s.mem.get a ∧ t.repMem.get a = s.repMem.get a) ∧
      ∀ p data, dev ≠ s.devNum → s.pages.find? page = some p → p.policy = 1 → s.collapse.find? page = none →
        ∃ t, exec (.replicaMake page dev data) s = .next t ∧ t = { s with replicas := t.replicas } ∧
          ∀ d, d ∈ (t.replicas.find? page).getD [] ↔ d = dev ∨ d ∈ (s.replicas.find? page).getD []) ∧
    (∀ ctx off req, (∀ r, req ≠ .plan r) →
      let run := exec (.podRequest ctx off req) s
      let nak := fun (o : Nat) (w : Bool) => s.podNak ctx o w (podEngine req)
      let ends := [off, off + podSize req - 1]
      let at_ := (remoteAddr off).getD 0
      let reads := off < 2 ^ 42 ∧ ∀ o ∈ ends, nak o false = none
      let open_ := reads ∧ ∀ o ∈ ends, nak o true = none
      let keeps := ∃ t, run = .next t ∧ t.mem = s.mem ∧ t.dram = s.dram ∧ t.cores = s.cores
      (¬reads → run = .next s) ∧
      (podWrites req = false → keeps) ∧
      -- a write to a read-duplicated page starts its collapse
      (podWrites req = true → reads → ¬open_ → ∃ t, run = .next t ∧ t = { s with pending := t.pending } ∧
        ∀ o ∈ ends, ∀ a p, remoteAddr o = some a → s.pages.find? (a / 65536) = some p → p.policy = 1 →
          Instr.collapse (a / 65536) ∈ t.pending) ∧
      (∀ data e, req = .write data e → open_ → (∀ w ∈ eccWords at_ data.length, w ∉ s.bad) → ∃ t, run = .next t ∧ t.cores = s.cores ∧
        ∀ a, t.mem.get a = if at_ ≤ a ∧ a < at_ + data.length then data.getD (a - at_) 0 else s.mem.get a) ∧
      ∀ fn n v w e, req = .atom fn n v w e → n = 4 ∨ n = 8 → open_ →
        ((at_ % n ≠ 0 ∨ s.memBad at_ n = true) → keeps) ∧
        (at_ % n = 0 → s.memBad at_ n = false → ∃ t, run = .next t ∧ t.cores = s.cores ∧
          t.mem.readLE at_ n = atomNew fn (8 * n) (s.mem.readLE at_ n) v.toNat w.toNat % 2 ^ (8 * n) ∧
          ∀ a, (a < at_ ∨ at_ + n ≤ a) → t.mem.get a = s.mem.get a)) ∧
    ∀ dev, dev ≠ s.devNum → ∃ t, exec (.peerUnreachable dev) s = .next t ∧ t.lostDevs = insertNat dev s.lostDevs ∧
      (∀ e ∈ s.lostSteps dev, e ∈ t.pending) ∧
      (∀ h e, handleHome h = s.devNum → s.hentry e.owner h = some e → s.hrt.find? (s.hkey h) = some e → e.st = .pending →
        (e.loc = some dev ∨ (e.loc = none ∧ e.via = some dev)) → e.waiting = [] →
        ∃ f, t.hrt.find? (s.hkey h) = some f ∧ (e.dropped = false → f.st = .broken) ∧ (e.dropped = true → f.st = .free)) ∧
      ∀ m ∈ s.msgs, ((∃ r, m.kind = .task r dev) ∨ (∃ r h, m.kind = .invoke r h ∧ handleHome h = dev) ∨
        ∃ h, m.kind = .drop h ∧ handleHome h = dev) → ∀ n ∈ t.msgs, n.id ≠ m.id

/-- R411, R416, R440, R443 to R446, R449 to R453: the events of errors, refresh, links and time. An error is counted and
logged, an uncorrectable one makes its bits bad, a unit with as many events in its window as its threshold is retired;
refreshes are postponed up to 8; a failed lane is dropped; the link retrains after 8 failed replays; the time base is
set by its first exchange, slewed by later ones, and holds over without them. Readings of the model: logs 20, 22, 45 and
46. -/
def Obligations.ErrorTimeLink : Prop :=
  ∀ (s : State),
    let rests := fun (t : State) => t.mem = s.mem ∧ t.dram = s.dram ∧ KeepsPools s t ∧ t.now = s.now
    -- an entry, but for DETAIL, which has no content for these kinds
    let log := fun (e : LogEntry) (d ch kind who at_ : Nat) =>
      e = { event := 0, time := s.now, channel := d * 16 + ch, kind := kind, ctx := who, detail := e.detail, where_ := at_ }
    (∀ (chan cls unit : Nat) (ctx : Option Nat) (at_ : Nat), chan < 64 → chan % 16 ≠ 15 → (cls = 2 → unit < 128 * 65536) →
      let d := chan / 16
      let ch := chan % 16
      let entry := fun (e : LogEntry) (kind : Nat) => log e d ch kind (ctx.getD 0xFF) at_
      let old := ((s.die d).units.find? fun u => u.cls == cls && u.unit == unit).getD { cls := cls, unit := unit, times := [] }
      let times := s.now :: old.times.filter fun t => decide (s.now < t + s.reg (.retireWindow cls) 1000000000)
      let lasting := old.retired = false ∧ s.reg (.retireThreshold cls) 4 ≤ times.length
      -- a lane and a frame of the cache ways need no spare
      let kind := if cls = 3 ∨ (cls = 1 ∧ (s.die d).vaultSteps * 6144 ≤ unit % 65536) ∨
        (s.die d).spares.getD (spareKey cls unit) 0 < spareLimit cls then 4 else 5
      -- a spare stands in its place, with no event yet
      let spared := lasting ∧ cls ≠ 3 ∧ ¬(cls = 1 ∧ (s.die d).vaultSteps * 6144 ≤ unit % 65536) ∧ kind = 4
      let counted := fun (t : State) (rest : List Found) => (4 ≤ cls → rest = []) ∧ (cls < 4 →
        (¬spared → ∃ u ∈ (t.die d).units, u.cls = cls ∧ u.unit = unit ∧ u.times = times ∧
          (u.retired = true ↔ old.retired = true ∨ lasting)) ∧
        (spared → ∀ u ∈ (t.die d).units, u.cls ≠ cls ∨ u.unit ≠ unit) ∧ (¬lasting → rest = []) ∧
        (lasting → ∃ f g, rest = [f, g] ∧ entry f.entry 3 ∧ entry g.entry kind))
      let run := fun (bad : Bool) => exec (.errorEvent chan cls unit bad ctx at_) s
      (∃ t f rest, run false = .next t ∧ rests t ∧ t.found = s.found ++ f :: rest ∧ entry f.entry 1 ∧ f.counter = 1 ∧
        f.logged = true ∧ counted t rest) ∧
      ∃ t f rest, run true = .next t ∧ rests t ∧ t.found = s.found ++ f :: rest ∧ entry f.entry 2 ∧ f.counter = 2 ∧
        f.logged = true ∧
        (ch = 13 → rest = [] ∧ ∀ n p, s.plans.find? n = some p → p.slot = at_ → p.ending = none →
          ∃ q, t.plans.find? n = some q ∧ q.ending = some (3, 0xFD, 0, 0)) ∧
        -- the word of a row is bad at the base die, and, where the cache ways do not hold the line, to its readers
        (let row := iaClass at_ ≤ 4 → (∀ w, w ∈ t.dramBad ↔ w = at_ / 32 ∨ w ∈ s.dramBad) ∧
           ((s.wayOf at_).isSome = true → t.bad = s.bad) ∧
           (s.wayOf at_ = none → ∀ w, (w / 4 ≠ at_ / 128 → (w ∈ t.bad ↔ w ∈ s.bad)) ∧
             ((∀ h r, homeOf (at_ / 128 * 128) = some h → r ∈ (s.die h.1).reqs → r.ia / 128 ≠ at_ / 128) →
               w / 4 = at_ / 128 → (w ∈ t.bad ↔ w ∈ t.dramBad)))
         let spoiled := fun (old new : AList CLine) => ∀ l, old.find? (at_ / 128) = some l → ∃ m, new.find? (at_ / 128) = some m ∧
           m = { l with bad := m.bad } ∧ ∀ j, j < 128 →
             (m.bad.getLsbD j = true ↔ l.bad.getLsbD j = true ∨ (j / 32 = at_ % 128 / 32 ∧ l.valid.getLsbD j = true))
         ch ≠ 13 →
          (cls = 0 ∨ ((cls = 4 ∨ 6 ≤ cls) ∧ ch = 6) → row) ∧
          (cls = 1 → spoiled (s.die d).reps (t.die d).reps ∧
            (¬lasting → t.dramBad = s.dramBad ∧
              ((iaClass at_ = 7 ∨ (s.wayOf at_).isSome = true) → (homeOf at_).map Prod.fst = some d →
                ∀ w, w ∈ t.bad ↔ w = at_ / 32 ∨ w ∈ s.bad))) ∧
          (cls = 2 → let x := s.core (unit / 65536)
            let a := unit % 65536 * 128
            (x.regB ≤ a → (t.core (unit / 65536)).poolBad a 128 = true) ∧
            ∀ k b, a < x.regB → x.agents.find? k = some b → b.role ≠ .copy → b.regBase ≤ a → (a - b.regBase) / 32 < b.vregs * 8 →
              ∃ e i, (t.core (unit / 65536)).agents.find? k = some e ∧ i < 4 ∧ (a - b.regBase) / 32 + i ∈ e.vbad) ∧
          (cls = 3 → t.bad = s.bad ∧ t.dramBad = s.dramBad) ∧
          (cls = 5 → t.bad = s.bad ∧ ∀ v ∈ t.sweeps, v.leadDie = d → ∀ q ∈ v.slots, v.base + q.1 = unit →
            ∀ h ∈ q.2.held, h.whey = none → h.bad = true) ∧
          (cls = 4 ∨ 6 ≤ cls → (ch = 8 → unit < 128 → spoiled (s.core unit).l1 (t.core unit).l1) ∧
            (ch = 9 → unit < 32 → spoiled (s.cluster unit).buf (t.cluster unit).buf ∧
              spoiled (s.cluster unit).au (t.cluster unit).au))) ∧
        (ch ≠ 13 → cls = 0 → t.pages.find? (at_ / 65536) = (s.pages.find? (at_ / 65536)).map (fun p => { p with retired := true }) ∧
          ((s.pages.find? (at_ / 65536)).any Page.retired = false → ∃ g, rest = [g] ∧ entry g.entry 4) ∧
          ((s.pages.find? (at_ / 65536)).any Page.retired = true → rest = [])) ∧
        (ch ≠ 13 → cls ≠ 0 → counted t rest)) ∧
    -- R449
    (∀ d stk pch,
      let n := (s.die d).postponed.getD (stk * 64 + pch) 0
      let owes := fun (t : State) (m : Nat) => rests t ∧ (t.die d).postponed.getD (stk * 64 + pch) 0 = m ∧
        (∀ k, k ≠ stk * 64 + pch → (t.die d).postponed.getD k 0 = (s.die d).postponed.getD k 0)
      (∃ t, exec (.refresh d stk pch true) s = .next t ∧ owes t (n - 1) ∧ t.found = s.found) ∧
      (∃ t, exec (.refresh d stk pch false) s = .next t ∧ owes t (min 8 (n + 1)) ∧ t.found = s.found) ∧
      (n < 8 → exec (.activationAlert d stk pch) s = .next s) ∧
      (8 ≤ n → ∃ t f, exec (.activationAlert d stk pch) s = .next t ∧ owes t 7 ∧ t.found = s.found ++ [f] ∧ f.die = d ∧
        f.entry.channel = d * 16 + stk ∧ f.counter = 3 ∧ f.logged = false)) ∧
    -- R411, R416
    (∀ lane, ∃ t f, exec (.laneFail 0 lane) s = .next t ∧ rests t ∧ t.link = { s.link with lanes := 8 } ∧
      t.found = s.found ++ [f] ∧ log f.entry 0 12 4 0xFF lane) ∧
    (∀ n lane, 1 ≤ n → n ≤ 24 → ∃ t f, exec (.laneFail n lane) s = .next t ∧ rests t ∧ t.found = s.found ++ [f] ∧
      log f.entry ((n - 1) / 6) 11 4 0xFF ((n - 1) * 16 + lane) ∧
      t.link.ua.getD (n - 1) 4 = (if s.link.ua.getD (n - 1) 4 = 4 then 2 else 1) ∧ t.link.lanes = s.link.lanes) ∧
    (∀ n lane, 25 ≤ n → ∃ t f, exec (.laneFail n lane) s = .next t ∧ rests t ∧ t.link = s.link ∧ t.found = s.found ++ [f] ∧
      log f.entry ((n - 25) % 4) 10 4 0xFF ((n - 25) / 4 * 16 + lane) ∧ (n - 25) / 4 ∈ (t.die ((n - 25) % 4)).d2dHalf) ∧
    (let l := s.link
     let idle := l.down = true ∨ l.retraining = true
     (idle → ∀ ok, exec (.flitReplay ok) s = .next s) ∧
     (¬idle → exec (.flitReplay true) s = .next { s with link := { l with failed := 0 } } ∧
       exec (.flitReplay false) s = .next { s with link := if l.failed < 7 then { l with failed := l.failed + 1 }
                                                           else { l with failed := 0, retraining := true } }) ∧
     (l.retraining = false → exec .linkDown s = .next s) ∧
     (l.retraining = true → ∃ t, exec .linkDown s = .next t ∧ rests t ∧ t.link = { l with retraining := false, down := true } ∧
       t.ptp.t1 = none ∧ t.ptp.st = if s.ptp.st = .locked then .holdover else s.ptp.st) ∧
     exec .linkRetrain s = .next { s with link := { l with retraining := false } }) ∧
    -- R452, R453
    (s.link.down = true → exec .ptpExchange s = .next s) ∧
    (s.link.down = false → exec .ptpExchange s = .next { s with ptp := { s.ptp with t1 := some s.now } }) ∧
    (∀ (t1 t2 t3 : Nat), s.ptp.t1 = some t1 → s.link.down = false →
      let offset : Int := (((t2 : Int) - t1) - ((s.now : Int) - t3)) / 2
      let delay : Int := (((t2 : Int) - t1) + ((s.now : Int) - t3)) / 2
      let good := offset.natAbs ≤ 50
      let run := exec (.ptpReply t2 t3) s
      (s.ptp.st = .unsync → ∃ t, run = .next t ∧ t.mem = s.mem ∧ KeepsPools s t ∧ t.ptp.st = .holdover ∧ t.ptp.t1 = none ∧
        t.now = max s.now ((t3 : Int) + delay).toNat) ∧
      (s.ptp.st ≠ .unsync → ∃ t, run = .next t ∧ rests t ∧ t.ptp.t1 = none ∧
        t.ptp.rate = max (-100000) (min 100000 (offset * 125 / 2)) ∧ t.ptp.offsets = (offset :: s.ptp.offsets).take 8 ∧
        t.ptp.last = s.now ∧
        (good → t.ptp.lastGood = s.now ∧ ∀ x ∈ (offset :: s.ptp.offsets).take 8, x.natAbs + 20 ≤ t.ptp.bound) ∧
        (¬good → t.ptp.lastGood = s.ptp.lastGood ∧ t.ptp.bound = s.ptp.bound) ∧
        (t.ptp.st = .locked ↔ (s.ptp.st = .locked ∧ offset.natAbs ≤ 1000) ∨ (s.ptp.st = .holdover ∧ good ∧ 7 ≤ s.ptp.good)) ∧
        (t.ptp.st = .locked ∨ t.ptp.st = .holdover))) ∧
    (s.now < s.ptp.last + 3000000 → exec .ptpTimeout s = .next s) ∧
    (s.ptp.last + 3000000 ≤ s.now → ∃ t, exec .ptpTimeout s = .next t ∧ rests t ∧
      t.ptp = if s.ptp.st = .locked then { s.ptp with st := .holdover, good := 0 } else s.ptp)

/-- R285, R411, R413 to R415, R423 to R425: the events of the host adapter and of the boot ROM: launch windows are
decoded, launches accepted or discarded, reports asked for and given, and a firmware image is verified against the
module's values; the cryptographic functions are opaque (log 9). Readings of the model: logs 9, 38, 43 and 55. -/
def Obligations.HostEvents : Prop :=
  ∀ (s : State),
    (∀ (ctx off size : Nat) (data : BitVec 512),
      let x := s.ctx ctx
      let run := exec (.launchRequest ctx off size data) s
      let ok := s.link.down = false ∧ s.fw.recovery = false ∧ x.st = .active ∧ off = 0 ∧ size = 64
      (¬ok ∨ LwReq.ofData data = none → run = .next s) ∧
      ∀ r, LwReq.ofData data = some r → ok →
        (r.plan = data.extractLsb' 0 64 ∧ r.prio = (data.extractLsb' 320 8).toNat ∧ r.prio < 4 ∧
          (r.errStop = true ↔ data.extractLsb' 328 8 = 1) ∧
          ∀ a, a ∈ r.waits ↔ a ≠ 0 ∧ ∃ k, k < 4 ∧ a = data.extractLsb' (64 * (k + 1)) 64) ∧
        (x.lwQ.length < 256 → ∃ t, run = .next t ∧ t = { s with ctxs := t.ctxs, pending := t.pending } ∧
          t.ctx ctx = { x with lwQ := x.lwQ ++ [r] } ∧ t.pending = s.pending ++ [.launchWaitSatisfied ctx x.lwQ.length]) ∧
        (256 ≤ x.lwQ.length → ∃ t, run = .next t ∧ t = { s with ctxs := t.ctxs } ∧
          t.ctx ctx = { x with lwDropped := x.lwDropped + 1 })) ∧
    -- R413: a read of the window
    (∀ ctx, (s.fw.recovery = true → ∀ off, s.windowRead ctx off = none) ∧
      (s.fw.recovery = false → s.windowRead ctx 64 = some (256 - (s.ctx ctx).lwQ.length) ∧
        s.windowRead ctx 72 = some (s.ctx ctx).lwDropped ∧ ∀ off, off ≠ 64 → off ≠ 72 → s.windowRead ctx off = none)) ∧
    -- R414: a check finds requests satisfied in arrival order, and they are passed in the order found
    (∀ ctx idx,
      let u := s.checkWaits ctx
      let x := u.ctx ctx
      let run := exec (.launchWaitSatisfied ctx idx) s
      let fits := fun (q : LwReq) => ∀ a ∈ q.waits, ∃ v t, s.readSig ctx q.gone a = .val v t ∧ v.sle 0 = true
      (u = { s with ctxs := u.ctxs, nextId := u.nextId } ∧ x = { s.ctx ctx with lwQ := x.lwQ } ∧
        x.lwQ.length = (s.ctx ctx).lwQ.length ∧
        ∀ (i : Nat) (q : LwReq), (s.ctx ctx).lwQ[i]? = some q → ∃ r, x.lwQ[i]? = some r ∧ r = { q with found := r.found } ∧
          (q.found ≠ none → r.found = q.found) ∧ (q.found = none → (r.found ≠ none ↔ fits q)) ∧
          ∀ (j : Nat) (p : LwReq) (m n : Nat), i < j → q.found = none → r.found = some m → (s.ctx ctx).lwQ[j]? = some p → p.found = none →
            (x.lwQ[j]?).bind LwReq.found = some n → m < n) ∧
      (x.lwQ[idx]? = none → run = .next u) ∧
      ∀ r, x.lwQ[idx]? = some r →
        let sigs := r.waits.map (s.readSig ctx r.gone)
        let gone := u.endLaunch ctx idx
        let waits := run = .next (u.due (.launchWaitSatisfied ctx idx))
        let notYet := r.found = none ∨ ∃ p ∈ u.ctxs, ∃ q ∈ p.2.lwQ, ∃ m n, q.found = some m ∧ r.found = some n ∧ m < n ∧
          u.planAwaits p.1 q.plan q.gone = false
        let stopped := r.errStop = true ∧ ∃ v t, SigRead.val v t ∈ sigs ∧ t ≠ 0
        let refused := fun (reason : Nat) => run = .next (gone.refusePlan ctx { gone.checkPlan ctx r.plan r.prio with reason := reason })
        (gone = { u with ctxs := gone.ctxs, pending := gone.pending } ∧ gone.ctx ctx = { x with lwQ := x.lwQ.eraseIdx idx } ∧
          ∀ j, idx < j → Instr.launchWaitSatisfied ctx j ∈ u.pending → Instr.launchWaitSatisfied ctx (j - 1) ∈ gone.pending) ∧
        (x.st ≠ .active → run = .next gone) ∧
        (x.st = .active → .lost ∈ sigs → refused 0x21) ∧
        (x.st = .active → .lost ∉ sigs → notYet → waits) ∧
        (x.st = .active → .lost ∉ sigs → ¬notYet → stopped → refused 0x20) ∧
        (x.st = .active → .lost ∉ sigs → ¬notYet → ¬stopped →
          ((u.planAwaits ctx r.plan r.gone = true ∨ 32 ≤ u.plans.length) → waits) ∧
          (u.planAwaits ctx r.plan r.gone = false → u.plans.length < 32 → run = .next (gone.launchPlan ctx r.plan r.prio).2))) ∧
    -- R415; in recovery no virtual function is there (R423)
    (s.fw.recovery = true → ∀ ctx idx addr thr vec,
      exec (.watchArm ctx idx addr thr vec) s = .next s ∧ exec (.watchFire ctx idx) s = .next s) ∧
    (∀ (ctx idx : Nat) (addr thr : BitVec 64) (vec : Nat), idx < 256 → s.fw.recovery = false →
      ∃ t, exec (.watchArm ctx idx addr thr vec) s = .next t ∧
      t = { s with ctxs := t.ctxs, pending := s.pending ++ [.watchFire ctx idx] } ∧
      (t.ctx ctx).watches.find? idx = some { addr := addr, threshold := thr, vector := vec, armed := true } ∧
      ∀ k, k ≠ idx → (t.ctx ctx).watches.find? k = (s.ctx ctx).watches.find? k) ∧
    (∀ ctx idx w, (s.ctx ctx).watches.find? idx = some w →
      let run := exec (.watchFire ctx idx) s
      ((w.armed = false ∨ s.link.down = true) → run = .next s) ∧
      (w.armed = true → s.link.down = false → s.fw.recovery = false →
        (∀ v st, s.readSig ctx [] w.addr = .val v st → v.sle w.threshold = true → ∃ t, run = .next t ∧
          t = { s with ctxs := t.ctxs, msix := s.msix ++ [w.vector] } ∧
          (t.ctx ctx).watches.find? idx = some { w with armed := false }) ∧
        ((∀ v st, s.readSig ctx [] w.addr = .val v st → v.sle w.threshold = false) → run = .next (s.due (.watchFire ctx idx))))) ∧
    -- R423
    (∀ (image : Option Image), ∃ t, exec (.deviceReset image) s = .next t ∧
      t = { State.reset with agenda := s.agenda, tick := s.tick, nextId := s.nextId, fw := t.fw } ∧ t.fw.minSvn = s.fw.minSvn ∧
      let img := if image.isSome then image else s.fw.flash
      let good := fun (i : Image) => Config.rootVerifies i.body i.signature = true ∧ s.fw.minSvn ≤ i.svn
      t.fw.flash = img ∧ (t.fw.recovery = true ↔ ∀ i, img = some i → ¬good i) ∧
        ∀ i, img = some i → good i → t.fw.svn = i.svn ∧ t.fw.body = i.body) ∧
    (∀ (i : Image),
      let good := s.fw.recovery = true ∧ Config.rootVerifies i.body i.signature = true ∧ s.fw.minSvn ≤ i.svn
      (¬good → exec (.recoveryImage i) s = .next s) ∧
      (good → exec (.recoveryImage i) s = .next { s with fw := { s.fw with recovery := false, svn := i.svn, body := i.body,
                                                                           flash := some i } })) ∧
    (∀ v, let may := s.fw.recovery = false ∧ s.fw.minSvn < v ∧ v ≤ s.fw.svn
      (may → exec (.svnRaise v) s = .next { s with fw := { s.fw with minSvn := v } }) ∧ (¬may → exec (.svnRaise v) s = .next s)) ∧
    -- R425
    ∀ (ctx : Nat) (nonce : BitVec 256),
      (s.fw.recovery = true → exec (.attestationRequest ctx nonce) s = .next s) ∧
      (s.fw.recovery = false → ∃ t bs, exec (.attestationRequest ctx nonce) s = .next t ∧ t = { s with report := some bs } ∧
        bs.length = 320 ∧ bs.take 4 = leBytes 0x41545331 4 ∧ (bs.drop 8).take 8 = leBytes s.now 8 ∧
        (bs.drop 16).take 2 = leBytes s.devNum 2 ∧ (bs.drop 18).take 2 = leBytes ctx 2 ∧ (bs.drop 20).take 4 = leBytes s.fw.svn 4 ∧
        (bs.drop 24).take 32 = leBytes nonce.toNat 32 ∧ (bs.drop 56).take 64 = leBytes s.fw.body 64 ∧
        bs.drop 256 = leBytes (Config.identitySign s.fw.svn (bs.take 256)).toNat 64)

/-- R1, R24, R25, R278, R323, R393 to R397, R408, R418, R420 to R422, R448, R459, R460: ownership, and the registers its
owner writes. A write of another master changes nothing but the count of such writes. Readings of the model: logs 43, 44
and 48. -/
def Obligations.RegisterEvents : Prop :=
  ∀ (s : State) (m : Nat),
    -- 1 s without a heartbeat, and nobody owns the device
    let lapse := s.mgmt.owner.isSome ∧ s.mgmt.heartbeat + 1000000000 ≤ s.now
    let base : State := if lapse then { s with mgmt := { s.mgmt with owner := none, claims := [], opened := s.now, handover := none } } else s
    let foreign : State := { base with mgmt := { base.mgmt with nonOwnerWrites := base.mgmt.nonOwnerWrites + 1 } }
    let mine := base.mgmt.owner = some m
    let owned := fun (i : Instr) (t : State) => (mine → exec i s = .next t) ∧ (¬mine → exec i s = .next foreign)
    let elected : State := { s with mgmt := { s.mgmt with owner := some m, heartbeat := s.now, handover := none, claims := [] } }
    -- R420 to R422
    let may := s.mgmt.owner = none ∧ s.mgmt.claims ≠ [] ∧ s.mgmt.opened + 10000000 ≤ s.now
    (∀ prio nonce,
      let claim := exec (.ownershipClaim m prio nonce) s
      let window := if base.mgmt.claims = [] ∧ base.mgmt.opened + 10000000 ≤ s.now then s.now else base.mgmt.opened
      (¬may → base.mgmt.owner = none → claim = .next { base with mgmt := { base.mgmt with opened := window, claims :=
        (base.mgmt.claims.filter fun c => c.1 != m) ++ [(m, prio, nonce % 2 ^ 32)] } }) ∧
      (mine → claim = .next s) ∧
      (base.mgmt.owner ≠ none → ¬mine → claim = .next foreign) ∧
      -- a claim after the 10 ms finds the election decided
      (∀ v, may → exec .electionDecide s = .next v →
        (v.mgmt.owner = none → claim = .next { v with mgmt := { v.mgmt with claims := [(m, prio, nonce % 2 ^ 32)] } }) ∧
        (v.mgmt.owner = some m → claim = .next v) ∧
        (v.mgmt.owner ≠ none → v.mgmt.owner ≠ some m →
          claim = .next { v with mgmt := { v.mgmt with nonOwnerWrites := v.mgmt.nonOwnerWrites + 1 } })) ∧
      owned (.handover m prio nonce) { s with mgmt := { s.mgmt with handover := some (prio, nonce % 2 ^ 32, s.now) } } ∧
      (∀ p n since, s.mgmt.handover = some (p, n, since) →
        let same := prio = p ∧ nonce % 2 ^ 32 = n ∧ s.now ≤ since + 100000000
        (¬lapse → same → exec (.accept m prio nonce) s = .next elected) ∧
        (¬lapse → ¬same → exec (.accept m prio nonce) s = .next (if mine then s else foreign)) ∧
        exec .handoverLapse s = .next (if since + 100000000 < s.now then
          { s with mgmt := { s.mgmt with handover := none } } else s)) ∧
      ((lapse ∨ s.mgmt.handover = none) → exec (.accept m prio nonce) s = .next (if mine then s else foreign))) ∧
    (let alone := fun (c : Nat × Nat × Nat) => c ∈ s.mgmt.claims ∧ (s.mgmt.claims.filter fun d => d.2 == c.2).length = 1
     (¬may → exec .electionDecide s = .next s) ∧
     (may → (∀ c, ¬alone c) →
       exec .electionDecide s = .next { s with mgmt := { s.mgmt with claims := [], opened := s.now } }) ∧
     (∀ prio nonce, may → alone (m, prio, nonce) →
       (∀ c, alone c → prio < c.2.1 ∨ (prio = c.2.1 ∧ nonce ≤ c.2.2)) → exec .electionDecide s = .next elected)) ∧
    owned (.heartbeat m) { s with mgmt := { s.mgmt with heartbeat := s.now } } ∧
    exec .ownerLapse s = .next base ∧
    -- R1
    (∀ w, owned (.powerLimitWrite m w) (if 1500 ≤ w ∧ w ≤ 3200 then { s with powerLimit := w } else s)) ∧
    -- R24, R25, R189
    (∀ (d : Nat) (v : BitVec 32),
      let new := v.toNat % 16
      let old := (s.die d).vaultSteps
      let base := 7 * 2 ^ 53 + d * 2 ^ 51
      (¬mine → exec (.carveWrite m d v) s = .next foreign) ∧
      (mine → (8 < new ∨ new = old ∨ s.carveBusy d = true) → exec (.carveWrite m d v) s = .next s) ∧
      (mine → new ≤ 8 → new ≠ old → s.carveBusy d = false → ∃ t, exec (.carveWrite m d v) s = .next t ∧ KeepsPools s t ∧
        (t.die d).vaultSteps = new ∧ (t.die d).reps = [] ∧
        (old < new → t.mem = s.mem) ∧
        (new < old → ∀ i, 64 * new * 786432 ≤ i → i < 64 * old * 786432 → t.mem.get (base + i) = 0) ∧
        -- the frames that the vault takes hold no line any more
        ∀ l w, iaClass (l * 128) ≤ 4 → (homeOf (l * 128)).map Prod.fst = some d → (t.die d).ways.find? l = some w →
          new * 6144 ≤ w.frame)) ∧
    -- R393 to R397
    (∀ x, owned (.ctxActivate m x) (if (s.ctx x).st = .free then
      State.setCtx { s with freed := s.freed.filter fun p => p.2 != x } x { s.ctx x with st := .active } else s)) ∧
    (∀ x, (¬mine → exec (.ctxTeardown m x) s = .next foreign) ∧ (mine → (s.ctx x).st ≠ .active → exec (.ctxTeardown m x) s = .next s) ∧
      (mine → (s.ctx x).st = .active → ∃ t, exec (.ctxTeardown m x) s = .next t ∧ t.mem = s.mem ∧ KeepsPools s t ∧
        t.ctx x = { s.ctx x with st := .teardown } ∧ Instr.teardownFree x ∈ t.pending ∧
        ∀ n p, s.plans.find? n = some p → p.ctx = x → p.ending = none →
          ∃ q, t.plans.find? n = some q ∧ q.ending = some (3, 0xFE, 0, 0))) ∧
    (∀ x, let run := exec (.teardownFree x) s
      ((s.ctx x).st ≠ .teardown → run = .next s) ∧
      ((s.ctx x).st = .teardown → (∃ p ∈ s.plans, p.2.ctx = x) → run = .next (s.due (.teardownFree x))) ∧
      ((s.ctx x).st = .teardown → (∀ p ∈ s.plans, p.2.ctx ≠ x) → ∃ t, run = .next t ∧
        (t.ctx x).st = .free ∧ (t.ctx x).taskQ = [] ∧ (t.ctx x).lwQ = [] ∧ (t.ctx x).cancel = [] ∧ (∀ v ∈ t.sweeps, v.ctx ≠ x) ∧
        (∀ n ∈ t.msgs, n.ctx ≠ x) ∧
        (∀ c, (s.core c).ctx = some x → (t.core c).ctx = none ∧ (t.core c).run = .idle ∧ (t.core c).agents = []) ∧
        (∀ p g, t.pages.find? p = some g → g.owner ≠ x) ∧
        ∀ p g, s.pages.find? p = some g → g.owner = x → t.freed.find? p = some x ∧ ∀ a, a / 65536 = p → t.mem.get a = 0)) ∧
    (∀ (x n : Nat) (va ia ctl : BitVec 64), n < 8 →
      let old := (s.ctx x).mw.getD n {}
      let new : Window := { vbase := va.toNat / 2 ^ 21, ibase := ia.toNat % 2 ^ 56 / 2 ^ 21, log2 := ctl.toNat / 256 % 64,
                            valid := ctl.getLsbD 3, x := ctl.getLsbD 2, w := ctl.getLsbD 1, r := ctl.getLsbD 0 }
      let refused := (new.valid = true ∨ (old.valid = true ∧ new ≠ old)) ∧ s.windowBad x n new = true
      (¬mine → exec (.mapWindowWrite m x n va ia ctl) s = .next foreign) ∧
      (mine → refused → exec (.mapWindowWrite m x n va ia ctl) s = .next { s with mwErr := true }) ∧
      (mine → ¬refused → exec (.mapWindowWrite m x n va ia ctl) s =
        .next (s.setCtx x { s.ctx x with mw := (s.ctx x).mw.put n new }))) ∧
    (∀ x (v : BitVec 32), owned (.cbCoresWrite m x v) ((s.setCtx x { s.ctx x with cbCores := v.toNat % 256 }).due .planStart)) ∧
    -- R408
    (∀ p, owned (.swapReq m p) (if 8 ≤ p ∨ p ∈ s.swaps then s else { s with swaps := s.swaps ++ [p], swapDone := false })) ∧
    (s.swaps = [] → exec .swapDone s = .next s) ∧
    (∀ p rest, s.swaps = p :: rest → (s.routes.map Prod.fst).Nodup → (s.shadowRoutes.map Prod.fst).Nodup →
      ∃ t, exec .swapDone s = .next t ∧ t = { s with swaps := rest, swapDone := true, routes := t.routes, shadowRoutes := t.shadowRoutes } ∧
        ∀ k, (k / 2 ^ 32 = p → t.routes.find? k = s.shadowRoutes.find? k ∧ t.shadowRoutes.find? k = s.routes.find? k) ∧
          (k / 2 ^ 32 ≠ p → t.routes.find? k = s.routes.find? k ∧ t.shadowRoutes.find? k = s.shadowRoutes.find? k)) ∧
    -- R448
    (let dies := (List.range 4).map s.die
     owned (.snapReq m) { s with snap := some { chans := dies.map Die.chan, lost := dies.map Die.lost, elWr := dies.map Die.elWr,
                                                elRd := dies.map Die.elRd, logs := dies.map Die.log, nextEvent := s.nextEvent } }) ∧
    -- R459, R460
    (∀ (d : Nat) (v : BitVec 64) (w : BitVec 32),
      let x := s.die d
      let size := w.toNat / 2 % 32
      owned (.trBaseWrite m d v) (if x.trEn = true then s else s.setDie d { x with
        trBase := v.toNat % 2 ^ 56 / 2 ^ x.trLog2 * 2 ^ x.trLog2, trWr := 0, trRd := 0, trace := [] }) ∧
      owned (.trCtlWrite m d w) (s.setDie d (if x.trEn = false ∧ 20 ≤ size ∧ size ≤ 30 ∧ size ≠ x.trLog2 then
          { x with trLog2 := size, trWr := 0, trRd := 0, trace := [], trEn := w.getLsbD 0, trMask := w.extractLsb' 9 7 }
        else { x with trEn := w.getLsbD 0, trMask := w.extractLsb' 9 7 })) ∧
      exec (.trRdWrite d v) s = .next (if x.trRd ≤ v.toNat ∧ v.toNat ≤ x.trWr then s.setDie d { x with trRd := v.toNat } else s) ∧
      owned (.trDroppedWrite m d) (s.setDie d { x with trDropped := 0 })) ∧
    -- R418
    (∀ (v : BitVec 10),
      (mine → (∃ x ∈ s.ctxs, x.2.st = .active) → exec (.deviceNumberWrite m v) s = .next s) ∧
      (mine → (∀ x ∈ s.ctxs, x.2.st ≠ .active) →
        exec (.deviceNumberWrite m v) s = .next { s with devNum := v.toNat, numSet := true }) ∧
      (¬mine → exec (.deviceNumberWrite m v) s = .next foreign)) ∧
    -- registers without a row of their own
    (∀ v,
      let wrote := fun (r : MgmtReg) (t : State) => owned (.registerWrite m r v) t
      (∀ x, x < 64 → wrote (.cbEnergy x) (s.setCtx x { s.ctx x with cbEnergy := v % 2 ^ 32 }) ∧
        wrote (.ttBase x) (s.setCtx x { s.ctx x with ttBase := BitVec.ofNat 64 (v / 16 * 16) }) ∧
        wrote (.ttCount x) (s.setCtx x { s.ctx x with ttCount := v % 65536 }) ∧
        wrote (.hostMap x) (s.setCtx x { s.ctx x with hostMap := decide (v % 2 = 1) }) ∧
        ((s.ctx x).st = .free → wrote (.part x) (s.setCtx x { s.ctx x with part := v % 8 })) ∧
        ∀ k, k < 4 → wrote (.cbBw x k) (s.setCtx x { s.ctx x with cbBw := (s.ctx x).cbBw.put k (v % 2 ^ 32) })) ∧
      -- the weight of a class at a queue, and before any write
      (∀ q c, q < 292 → c < 4 → (s.regs = [] → s.qosWeight q c = [4, 4, 2, 1].getD c 0) ∧
        ∃ t, wrote (.qosWeight q c) t ∧ t = { s with regs := t.regs } ∧
          t.qosWeight q c = if 1 ≤ v ∧ v ≤ 15 then v else s.qosWeight q c) ∧
      wrote .mwErr (if v = 0 then { s with mwErr := false } else s) ∧
      (∀ d, d < 4 → wrote (.elRd d) (if (s.die d).elRd ≤ v ∧ v ≤ (s.die d).elWr then
        s.setDie d { s.die d with elRd := v } else s)) ∧
      (∀ p e, p < 8 → e < 2 ^ 32 → wrote (.shadowRoute p e) { s with shadowRoutes := s.shadowRoutes.put (p * 2 ^ 32 + e) v }) ∧
      ∀ d g, d < 4 → g < 2 ^ 32 → ∀ x, x = (s.die d).groups.getD g {} →
        let group := fun (y : Group) => s.setDie d { s.die d with groups := (s.die d).groups.put g y }
        wrote (.groupRank d g) (group { x with rank := v }) ∧
        (∀ r, wrote (.groupMember d g r) (group { x with members := x.members.set r (v / 4 % 1024, v % 4) })) ∧
        (v ≤ 1024 → wrote (.groupSize d g)
          (group { x with members := x.members.take v ++ List.replicate (v - x.members.length) (0, 0) })))
end

