-- ==== Sys2Proof/Laws/Maps.lean ====
section
/-! SUPPORT. Laws of the sparse memories and tables: a read after a write, the canonical form kept by every operation. -/

namespace Sys2Proof.Machine

-- Sparse memories ------------------------------------------------------------------------------------------------

theorem SMap.get_insert {w : Nat} (m : SMap w) (a b : Nat) (v : BitVec w) :
    (m.insert a v).get b = if b = a then v else m.get b := by
  induction m with
  | nil => simp [SMap.insert, SMap.get]
  | cons p rest ih =>
    obtain ⟨c, u⟩ := p
    simp only [SMap.insert]
    split
    · simp [SMap.get]
    · split
      · subst_vars; by_cases h : b = c <;> simp [SMap.get, h]
      · by_cases h : b = c
        · subst h; simp [SMap.get]; intro h2; omega
        · simp [SMap.get, h, ih]

theorem SMap.get_filter {w : Nat} (m : SMap w) (f : Nat → Bool) (b : Nat) :
    SMap.get (m.filter fun p => f p.1) b = if f b then m.get b else 0 := by
  induction m with
  | nil => simp [SMap.get]
  | cons p rest ih =>
    obtain ⟨c, u⟩ := p
    by_cases hc : f c <;> by_cases h : b = c <;> simp_all [SMap.get]

/-- A write of one value: it is read back there, and every other address reads as before. -/
@[simp] theorem SMap.get_set {w : Nat} (m : SMap w) (a b : Nat) (v : BitVec w) :
    (m.set a v).get b = if b = a then v else m.get b := by
  unfold SMap.set
  split
  · rw [SMap.get_filter m (fun x => decide (x ≠ a)) b]; by_cases h : b = a <;> simp_all
  · exact SMap.get_insert m a b v

/-- A cleared range reads zero; every other address reads as before. -/
theorem SMap.get_clear {w : Nat} (m : SMap w) (lo n b : Nat) :
    (m.clear lo n).get b = if lo ≤ b ∧ b < lo + n then 0 else m.get b := by
  unfold SMap.clear
  rw [SMap.get_filter m (fun x => decide (x < lo ∨ lo + n ≤ x)) b]
  by_cases h : lo ≤ b ∧ b < lo + n
  · rw [if_pos h, if_neg]; simp; omega
  · rw [if_neg h, if_pos]; simp; omega

theorem SMap.wfAbove_mono {w : Nat} {lo hi : Option Nat} {m : SMap w} (h : SMap.wfAbove hi m = true)
    (hle : ∀ l, lo = some l → ∃ k, hi = some k ∧ l ≤ k) : SMap.wfAbove lo m = true := by
  cases m with
  | nil => rfl
  | cons p rest =>
    obtain ⟨b, v⟩ := p
    cases lo with
    | none => cases hi <;> simp_all [SMap.wfAbove]
    | some l =>
      obtain ⟨k, hk, hlk⟩ := hle l rfl
      subst hk
      simp [SMap.wfAbove] at h ⊢
      exact ⟨⟨by omega, h.1.2⟩, h.2⟩

theorem SMap.wfAbove_filter {w : Nat} (f : Nat × BitVec w → Bool) :
    ∀ (lo : Option Nat) (m : SMap w), SMap.wfAbove lo m = true → SMap.wfAbove lo (m.filter f) = true
  | _, [], _ => rfl
  | lo, (b, v) :: rest, h => by
    have hr : SMap.wfAbove (some b) rest = true := by cases lo <;> simp_all [SMap.wfAbove]
    have ih := SMap.wfAbove_filter f (some b) rest hr
    by_cases hf : f (b, v)
    · cases lo <;> simp_all [SMap.wfAbove, List.filter]
    · rw [List.filter_cons_of_neg hf]
      refine SMap.wfAbove_mono ih ?_
      intro l hl; subst hl
      simp [SMap.wfAbove] at h
      exact ⟨b, rfl, by omega⟩

theorem SMap.wfAbove_insert {w : Nat} (a : Nat) (v : BitVec w) (hv : v ≠ 0) :
    ∀ (lo : Option Nat) (m : SMap w), (∀ l, lo = some l → l < a) → SMap.wfAbove lo m = true →
      SMap.wfAbove lo (m.insert a v) = true
  | lo, [], hlo, _ => by cases lo <;> simp_all [SMap.insert, SMap.wfAbove]
  | lo, (b, u) :: rest, hlo, h => by
    have hr : SMap.wfAbove (some b) rest = true := by cases lo <;> simp_all [SMap.wfAbove]
    have hu : u ≠ 0 := by cases lo <;> simp_all [SMap.wfAbove]
    simp only [SMap.insert]
    split
    · cases lo <;> simp_all [SMap.wfAbove]
    · split
      · subst_vars; cases lo <;> simp_all [SMap.wfAbove]
      · have hba : b < a := by omega
        have ih := SMap.wfAbove_insert a v hv (some b) rest (by simp [hba]) hr
        cases lo <;> simp_all [SMap.wfAbove]

/-- A write keeps the canonical form. -/
theorem SMap.wf_set {w : Nat} {m : SMap w} (a : Nat) (v : BitVec w) (h : m.wf = true) : (m.set a v).wf = true := by
  unfold SMap.set SMap.wf at *
  split
  · exact SMap.wfAbove_filter _ none m h
  · exact SMap.wfAbove_insert a v ‹_› none m (by simp) h

/-- So does dropping entries. -/
theorem SMap.wf_filter {w : Nat} {m : SMap w} (f : Nat × BitVec w → Bool) (h : m.wf = true) :
    SMap.wf (m.filter f) = true := SMap.wfAbove_filter f none m h

theorem SMap.wf_clear {w : Nat} {m : SMap w} (lo n : Nat) (h : m.wf = true) : (m.clear lo n).wf = true :=
  SMap.wf_filter _ h

/-- And any list of writes. -/
theorem SMap.wf_foldl {α : Type} {w : Nat} (f : SMap w → α → SMap w) (hf : ∀ m x, m.wf = true → (f m x).wf = true)
    (l : List α) {m : SMap w} (h : m.wf = true) : (l.foldl f m).wf = true := by
  induction l generalizing m with
  | nil => exact h
  | cons x xs ih => exact ih (hf m x h)

theorem SMap.wf_writeLE (a n v : Nat) {m : SMap 8} (h : m.wf = true) : (m.writeLE a n v).wf = true := by
  induction n generalizing m a v with
  | zero => exact h
  | succ n ih => exact ih _ _ (SMap.wf_set _ _ h)

theorem SMap.wf_putBytes (a : Nat) (bs : List Byte) {m : SMap 8} (h : m.wf = true) : (m.putBytes a bs).wf = true := by
  induction bs generalizing m a with
  | nil => exact h
  | cons b bs ih => exact ih _ (SMap.wf_set _ _ h)

/-- Two canonical memories that read alike from a bound on are the same list. -/
theorem SMap.get_below {w : Nat} {m : SMap w} {lo b : Nat} (h : SMap.wfAbove (some lo) m = true) (hb : b ≤ lo) :
    m.get b = 0 := by
  induction m generalizing lo with
  | nil => rfl
  | cons p rest ih =>
    obtain ⟨c, u⟩ := p
    simp [SMap.wfAbove] at h
    have : b ≠ c := by omega
    simp [SMap.get, this, ih h.2 (by omega)]

/-- Equal memories are equal data: two canonical lists that read alike are the same list. -/
theorem SMap.ext_get {w : Nat} {m n : SMap w} (hm : m.wf = true) (hn : n.wf = true) (h : ∀ a, m.get a = n.get a) : m = n := by
  unfold SMap.wf at *
  suffices ∀ (lo : Option Nat) (m n : SMap w), SMap.wfAbove lo m = true → SMap.wfAbove lo n = true → (∀ a, m.get a = n.get a) → m = n from
    this none m n hm hn h
  intro lo m
  induction m generalizing lo with
  | nil =>
    intro n _ hn h
    cases n with
    | nil => rfl
    | cons p rest =>
      obtain ⟨c, u⟩ := p
      have := h c
      cases lo <;> simp_all [SMap.get, SMap.wfAbove]
  | cons p rest ih =>
    obtain ⟨b, v⟩ := p
    intro n hm hn h
    have hr : SMap.wfAbove (some b) rest = true := by cases lo <;> simp_all [SMap.wfAbove]
    have hv : v ≠ 0 := by cases lo <;> simp_all [SMap.wfAbove]
    cases n with
    | nil => have := h b; simp_all [SMap.get]
    | cons q more =>
      obtain ⟨c, u⟩ := q
      have hr' : SMap.wfAbove (some c) more = true := by cases lo <;> simp_all [SMap.wfAbove]
      have hu : u ≠ 0 := by cases lo <;> simp_all [SMap.wfAbove]
      have hbc : b = c := by
        rcases Nat.lt_trichotomy b c with hlt | heq | hgt
        · have := h b
          simp [SMap.get, Nat.ne_of_lt hlt, SMap.get_below hr' (Nat.le_of_lt hlt)] at this
          exact absurd this hv
        · exact heq
        · have := h c
          simp [SMap.get, Nat.ne_of_lt hgt, SMap.get_below hr (Nat.le_of_lt hgt)] at this
          exact absurd this.symm hu
      subst hbc
      have hvu : v = u := by have := h b; simpa [SMap.get] using this
      subst hvu
      have : rest = more := by
        apply ih (some b) more hr hr'
        intro a
        by_cases hab : a = b
        · subst hab; rw [SMap.get_below hr (Nat.le_refl _), SMap.get_below hr' (Nat.le_refl _)]
        · have := h a; simpa [SMap.get, hab] using this
      rw [this]

-- Tables ---------------------------------------------------------------------------------------------------------

/-- An entry written is found; every other key finds what it found before. -/
@[simp] theorem AList.find?_put {α : Type} (t : AList α) (k j : Nat) (v : α) :
    (t.put k v).find? j = if j = k then some v else t.find? j := by
  induction t with
  | nil => simp [AList.put, AList.find?]
  | cons p rest ih =>
    obtain ⟨c, u⟩ := p
    simp only [AList.put]
    split
    · simp [AList.find?]
    · split
      · subst_vars; by_cases h : j = c <;> simp [AList.find?, h]
      · by_cases h : j = c
        · subst h; simp [AList.find?]; intro h2; omega
        · simp [AList.find?, h, ih]

@[simp] theorem AList.getD_put {α : Type} (t : AList α) (k j : Nat) (v d : α) :
    (t.put k v).getD j d = if j = k then v else t.getD j d := by
  unfold AList.getD; rw [AList.find?_put]; split <;> rfl

/-- A removed key finds nothing; every other key finds what it found before. -/
@[simp] theorem AList.find?_del {α : Type} (t : AList α) (k j : Nat) :
    (t.del k).find? j = if j = k then none else t.find? j := by
  unfold AList.del
  induction t with
  | nil => simp [AList.find?]
  | cons p rest ih =>
    obtain ⟨c, u⟩ := p
    by_cases hc : c = k <;> by_cases h : j = c <;> simp_all [AList.find?]

end Sys2Proof.Machine
end

