-- ==== Sys2Proof/Laws/State.lean ====
section
/-! SUPPORT. What the named updates of the state leave alone: one lemma for each field and update, true by definition. -/

namespace Sys2Proof.Machine

-- setCore
@[simp] theorem State.agenda_setCore (s : State) (c : Nat) (x : Core) : (s.setCore c x).agenda = s.agenda := rfl
@[simp] theorem State.pending_setCore (s : State) (c : Nat) (x : Core) : (s.setCore c x).pending = s.pending := rfl
@[simp] theorem State.turnEv_setCore (s : State) (c : Nat) (x : Core) : (s.setCore c x).turnEv = s.turnEv := rfl
@[simp] theorem State.cur_setCore (s : State) (c : Nat) (x : Core) : (s.setCore c x).cur = s.cur := rfl
@[simp] theorem State.nextId_setCore (s : State) (c : Nat) (x : Core) : (s.setCore c x).nextId = s.nextId := rfl
@[simp] theorem State.tick_setCore (s : State) (c : Nat) (x : Core) : (s.setCore c x).tick = s.tick := rfl
@[simp] theorem State.now_setCore (s : State) (c : Nat) (x : Core) : (s.setCore c x).now = s.now := rfl
@[simp] theorem State.cycle_setCore (s : State) (c : Nat) (x : Core) : (s.setCore c x).cycle = s.cycle := rfl
@[simp] theorem State.clusters_setCore (s : State) (c : Nat) (x : Core) : (s.setCore c x).clusters = s.clusters := rfl
@[simp] theorem State.dies_setCore (s : State) (c : Nat) (x : Core) : (s.setCore c x).dies = s.dies := rfl
@[simp] theorem State.ctxs_setCore (s : State) (c : Nat) (x : Core) : (s.setCore c x).ctxs = s.ctxs := rfl
@[simp] theorem State.mem_setCore (s : State) (c : Nat) (x : Core) : (s.setCore c x).mem = s.mem := rfl
@[simp] theorem State.dram_setCore (s : State) (c : Nat) (x : Core) : (s.setCore c x).dram = s.dram := rfl
@[simp] theorem State.repMem_setCore (s : State) (c : Nat) (x : Core) : (s.setCore c x).repMem = s.repMem := rfl
@[simp] theorem State.bad_setCore (s : State) (c : Nat) (x : Core) : (s.setCore c x).bad = s.bad := rfl
@[simp] theorem State.dramBad_setCore (s : State) (c : Nat) (x : Core) : (s.setCore c x).dramBad = s.dramBad := rfl
@[simp] theorem State.heldWb_setCore (s : State) (c : Nat) (x : Core) : (s.setCore c x).heldWb = s.heldWb := rfl
@[simp] theorem State.heldSys_setCore (s : State) (c : Nat) (x : Core) : (s.setCore c x).heldSys = s.heldSys := rfl
@[simp] theorem State.pages_setCore (s : State) (c : Nat) (x : Core) : (s.setCore c x).pages = s.pages := rfl
@[simp] theorem State.nextFrame_setCore (s : State) (c : Nat) (x : Core) : (s.setCore c x).nextFrame = s.nextFrame := rfl
@[simp] theorem State.freed_setCore (s : State) (c : Nat) (x : Core) : (s.setCore c x).freed = s.freed := rfl
@[simp] theorem State.collapse_setCore (s : State) (c : Nat) (x : Core) : (s.setCore c x).collapse = s.collapse := rfl
@[simp] theorem State.replicas_setCore (s : State) (c : Nat) (x : Core) : (s.setCore c x).replicas = s.replicas := rfl
@[simp] theorem State.migrating_setCore (s : State) (c : Nat) (x : Core) : (s.setCore c x).migrating = s.migrating := rfl
@[simp] theorem State.plans_setCore (s : State) (c : Nat) (x : Core) : (s.setCore c x).plans = s.plans := rfl
@[simp] theorem State.planNo_setCore (s : State) (c : Nat) (x : Core) : (s.setCore c x).planNo = s.planNo := rfl
@[simp] theorem State.sweeps_setCore (s : State) (c : Nat) (x : Core) : (s.setCore c x).sweeps = s.sweeps := rfl
@[simp] theorem State.hrt_setCore (s : State) (c : Nat) (x : Core) : (s.setCore c x).hrt = s.hrt := rfl
@[simp] theorem State.msgs_setCore (s : State) (c : Nat) (x : Core) : (s.setCore c x).msgs = s.msgs := rfl
@[simp] theorem State.hoopWait_setCore (s : State) (c : Nat) (x : Core) : (s.setCore c x).hoopWait = s.hoopWait := rfl
@[simp] theorem State.lostDevs_setCore (s : State) (c : Nat) (x : Core) : (s.setCore c x).lostDevs = s.lostDevs := rfl
@[simp] theorem State.podCtx_setCore (s : State) (c : Nat) (x : Core) : (s.setCore c x).podCtx = s.podCtx := rfl
@[simp] theorem State.podQ_setCore (s : State) (c : Nat) (x : Core) : (s.setCore c x).podQ = s.podQ := rfl
@[simp] theorem State.forwards_setCore (s : State) (c : Nat) (x : Core) : (s.setCore c x).forwards = s.forwards := rfl
@[simp] theorem State.devNum_setCore (s : State) (c : Nat) (x : Core) : (s.setCore c x).devNum = s.devNum := rfl
@[simp] theorem State.numSet_setCore (s : State) (c : Nat) (x : Core) : (s.setCore c x).numSet = s.numSet := rfl
@[simp] theorem State.powerLimit_setCore (s : State) (c : Nat) (x : Core) : (s.setCore c x).powerLimit = s.powerLimit := rfl
@[simp] theorem State.mwErr_setCore (s : State) (c : Nat) (x : Core) : (s.setCore c x).mwErr = s.mwErr := rfl
@[simp] theorem State.regs_setCore (s : State) (c : Nat) (x : Core) : (s.setCore c x).regs = s.regs := rfl
@[simp] theorem State.mgmt_setCore (s : State) (c : Nat) (x : Core) : (s.setCore c x).mgmt = s.mgmt := rfl
@[simp] theorem State.swaps_setCore (s : State) (c : Nat) (x : Core) : (s.setCore c x).swaps = s.swaps := rfl
@[simp] theorem State.swapDone_setCore (s : State) (c : Nat) (x : Core) : (s.setCore c x).swapDone = s.swapDone := rfl
@[simp] theorem State.routes_setCore (s : State) (c : Nat) (x : Core) : (s.setCore c x).routes = s.routes := rfl
@[simp] theorem State.shadowRoutes_setCore (s : State) (c : Nat) (x : Core) : (s.setCore c x).shadowRoutes = s.shadowRoutes := rfl
@[simp] theorem State.fw_setCore (s : State) (c : Nat) (x : Core) : (s.setCore c x).fw = s.fw := rfl
@[simp] theorem State.report_setCore (s : State) (c : Nat) (x : Core) : (s.setCore c x).report = s.report := rfl
@[simp] theorem State.link_setCore (s : State) (c : Nat) (x : Core) : (s.setCore c x).link = s.link := rfl
@[simp] theorem State.msix_setCore (s : State) (c : Nat) (x : Core) : (s.setCore c x).msix = s.msix := rfl
@[simp] theorem State.stretch_setCore (s : State) (c : Nat) (x : Core) : (s.setCore c x).stretch = s.stretch := rfl
@[simp] theorem State.ptp_setCore (s : State) (c : Nat) (x : Core) : (s.setCore c x).ptp = s.ptp := rfl
@[simp] theorem State.devEnergy_setCore (s : State) (c : Nat) (x : Core) : (s.setCore c x).devEnergy = s.devEnergy := rfl
@[simp] theorem State.winEnergy_setCore (s : State) (c : Nat) (x : Core) : (s.setCore c x).winEnergy = s.winEnergy := rfl
@[simp] theorem State.nextEvent_setCore (s : State) (c : Nat) (x : Core) : (s.setCore c x).nextEvent = s.nextEvent := rfl
@[simp] theorem State.found_setCore (s : State) (c : Nat) (x : Core) : (s.setCore c x).found = s.found := rfl
@[simp] theorem State.snap_setCore (s : State) (c : Nat) (x : Core) : (s.setCore c x).snap = s.snap := rfl

-- modCore
@[simp] theorem State.agenda_modCore (s : State) (c : Nat) (f : Core → Core) : (s.modCore c f).agenda = s.agenda := rfl
@[simp] theorem State.pending_modCore (s : State) (c : Nat) (f : Core → Core) : (s.modCore c f).pending = s.pending := rfl
@[simp] theorem State.turnEv_modCore (s : State) (c : Nat) (f : Core → Core) : (s.modCore c f).turnEv = s.turnEv := rfl
@[simp] theorem State.cur_modCore (s : State) (c : Nat) (f : Core → Core) : (s.modCore c f).cur = s.cur := rfl
@[simp] theorem State.nextId_modCore (s : State) (c : Nat) (f : Core → Core) : (s.modCore c f).nextId = s.nextId := rfl
@[simp] theorem State.tick_modCore (s : State) (c : Nat) (f : Core → Core) : (s.modCore c f).tick = s.tick := rfl
@[simp] theorem State.now_modCore (s : State) (c : Nat) (f : Core → Core) : (s.modCore c f).now = s.now := rfl
@[simp] theorem State.cycle_modCore (s : State) (c : Nat) (f : Core → Core) : (s.modCore c f).cycle = s.cycle := rfl
@[simp] theorem State.clusters_modCore (s : State) (c : Nat) (f : Core → Core) : (s.modCore c f).clusters = s.clusters := rfl
@[simp] theorem State.dies_modCore (s : State) (c : Nat) (f : Core → Core) : (s.modCore c f).dies = s.dies := rfl
@[simp] theorem State.ctxs_modCore (s : State) (c : Nat) (f : Core → Core) : (s.modCore c f).ctxs = s.ctxs := rfl
@[simp] theorem State.mem_modCore (s : State) (c : Nat) (f : Core → Core) : (s.modCore c f).mem = s.mem := rfl
@[simp] theorem State.dram_modCore (s : State) (c : Nat) (f : Core → Core) : (s.modCore c f).dram = s.dram := rfl
@[simp] theorem State.repMem_modCore (s : State) (c : Nat) (f : Core → Core) : (s.modCore c f).repMem = s.repMem := rfl
@[simp] theorem State.bad_modCore (s : State) (c : Nat) (f : Core → Core) : (s.modCore c f).bad = s.bad := rfl
@[simp] theorem State.dramBad_modCore (s : State) (c : Nat) (f : Core → Core) : (s.modCore c f).dramBad = s.dramBad := rfl
@[simp] theorem State.heldWb_modCore (s : State) (c : Nat) (f : Core → Core) : (s.modCore c f).heldWb = s.heldWb := rfl
@[simp] theorem State.heldSys_modCore (s : State) (c : Nat) (f : Core → Core) : (s.modCore c f).heldSys = s.heldSys := rfl
@[simp] theorem State.pages_modCore (s : State) (c : Nat) (f : Core → Core) : (s.modCore c f).pages = s.pages := rfl
@[simp] theorem State.nextFrame_modCore (s : State) (c : Nat) (f : Core → Core) : (s.modCore c f).nextFrame = s.nextFrame := rfl
@[simp] theorem State.freed_modCore (s : State) (c : Nat) (f : Core → Core) : (s.modCore c f).freed = s.freed := rfl
@[simp] theorem State.collapse_modCore (s : State) (c : Nat) (f : Core → Core) : (s.modCore c f).collapse = s.collapse := rfl
@[simp] theorem State.replicas_modCore (s : State) (c : Nat) (f : Core → Core) : (s.modCore c f).replicas = s.replicas := rfl
@[simp] theorem State.migrating_modCore (s : State) (c : Nat) (f : Core → Core) : (s.modCore c f).migrating = s.migrating := rfl
@[simp] theorem State.plans_modCore (s : State) (c : Nat) (f : Core → Core) : (s.modCore c f).plans = s.plans := rfl
@[simp] theorem State.planNo_modCore (s : State) (c : Nat) (f : Core → Core) : (s.modCore c f).planNo = s.planNo := rfl
@[simp] theorem State.sweeps_modCore (s : State) (c : Nat) (f : Core → Core) : (s.modCore c f).sweeps = s.sweeps := rfl
@[simp] theorem State.hrt_modCore (s : State) (c : Nat) (f : Core → Core) : (s.modCore c f).hrt = s.hrt := rfl
@[simp] theorem State.msgs_modCore (s : State) (c : Nat) (f : Core → Core) : (s.modCore c f).msgs = s.msgs := rfl
@[simp] theorem State.hoopWait_modCore (s : State) (c : Nat) (f : Core → Core) : (s.modCore c f).hoopWait = s.hoopWait := rfl
@[simp] theorem State.lostDevs_modCore (s : State) (c : Nat) (f : Core → Core) : (s.modCore c f).lostDevs = s.lostDevs := rfl
@[simp] theorem State.podCtx_modCore (s : State) (c : Nat) (f : Core → Core) : (s.modCore c f).podCtx = s.podCtx := rfl
@[simp] theorem State.podQ_modCore (s : State) (c : Nat) (f : Core → Core) : (s.modCore c f).podQ = s.podQ := rfl
@[simp] theorem State.forwards_modCore (s : State) (c : Nat) (f : Core → Core) : (s.modCore c f).forwards = s.forwards := rfl
@[simp] theorem State.devNum_modCore (s : State) (c : Nat) (f : Core → Core) : (s.modCore c f).devNum = s.devNum := rfl
@[simp] theorem State.numSet_modCore (s : State) (c : Nat) (f : Core → Core) : (s.modCore c f).numSet = s.numSet := rfl
@[simp] theorem State.powerLimit_modCore (s : State) (c : Nat) (f : Core → Core) : (s.modCore c f).powerLimit = s.powerLimit := rfl
@[simp] theorem State.mwErr_modCore (s : State) (c : Nat) (f : Core → Core) : (s.modCore c f).mwErr = s.mwErr := rfl
@[simp] theorem State.regs_modCore (s : State) (c : Nat) (f : Core → Core) : (s.modCore c f).regs = s.regs := rfl
@[simp] theorem State.mgmt_modCore (s : State) (c : Nat) (f : Core → Core) : (s.modCore c f).mgmt = s.mgmt := rfl
@[simp] theorem State.swaps_modCore (s : State) (c : Nat) (f : Core → Core) : (s.modCore c f).swaps = s.swaps := rfl
@[simp] theorem State.swapDone_modCore (s : State) (c : Nat) (f : Core → Core) : (s.modCore c f).swapDone = s.swapDone := rfl
@[simp] theorem State.routes_modCore (s : State) (c : Nat) (f : Core → Core) : (s.modCore c f).routes = s.routes := rfl
@[simp] theorem State.shadowRoutes_modCore (s : State) (c : Nat) (f : Core → Core) : (s.modCore c f).shadowRoutes = s.shadowRoutes := rfl
@[simp] theorem State.fw_modCore (s : State) (c : Nat) (f : Core → Core) : (s.modCore c f).fw = s.fw := rfl
@[simp] theorem State.report_modCore (s : State) (c : Nat) (f : Core → Core) : (s.modCore c f).report = s.report := rfl
@[simp] theorem State.link_modCore (s : State) (c : Nat) (f : Core → Core) : (s.modCore c f).link = s.link := rfl
@[simp] theorem State.msix_modCore (s : State) (c : Nat) (f : Core → Core) : (s.modCore c f).msix = s.msix := rfl
@[simp] theorem State.stretch_modCore (s : State) (c : Nat) (f : Core → Core) : (s.modCore c f).stretch = s.stretch := rfl
@[simp] theorem State.ptp_modCore (s : State) (c : Nat) (f : Core → Core) : (s.modCore c f).ptp = s.ptp := rfl
@[simp] theorem State.devEnergy_modCore (s : State) (c : Nat) (f : Core → Core) : (s.modCore c f).devEnergy = s.devEnergy := rfl
@[simp] theorem State.winEnergy_modCore (s : State) (c : Nat) (f : Core → Core) : (s.modCore c f).winEnergy = s.winEnergy := rfl
@[simp] theorem State.nextEvent_modCore (s : State) (c : Nat) (f : Core → Core) : (s.modCore c f).nextEvent = s.nextEvent := rfl
@[simp] theorem State.found_modCore (s : State) (c : Nat) (f : Core → Core) : (s.modCore c f).found = s.found := rfl
@[simp] theorem State.snap_modCore (s : State) (c : Nat) (f : Core → Core) : (s.modCore c f).snap = s.snap := rfl

-- setCluster
@[simp] theorem State.agenda_setCluster (s : State) (u : Nat) (x : Cluster) : (s.setCluster u x).agenda = s.agenda := rfl
@[simp] theorem State.pending_setCluster (s : State) (u : Nat) (x : Cluster) : (s.setCluster u x).pending = s.pending := rfl
@[simp] theorem State.turnEv_setCluster (s : State) (u : Nat) (x : Cluster) : (s.setCluster u x).turnEv = s.turnEv := rfl
@[simp] theorem State.cur_setCluster (s : State) (u : Nat) (x : Cluster) : (s.setCluster u x).cur = s.cur := rfl
@[simp] theorem State.nextId_setCluster (s : State) (u : Nat) (x : Cluster) : (s.setCluster u x).nextId = s.nextId := rfl
@[simp] theorem State.tick_setCluster (s : State) (u : Nat) (x : Cluster) : (s.setCluster u x).tick = s.tick := rfl
@[simp] theorem State.now_setCluster (s : State) (u : Nat) (x : Cluster) : (s.setCluster u x).now = s.now := rfl
@[simp] theorem State.cycle_setCluster (s : State) (u : Nat) (x : Cluster) : (s.setCluster u x).cycle = s.cycle := rfl
@[simp] theorem State.cores_setCluster (s : State) (u : Nat) (x : Cluster) : (s.setCluster u x).cores = s.cores := rfl
@[simp] theorem State.dies_setCluster (s : State) (u : Nat) (x : Cluster) : (s.setCluster u x).dies = s.dies := rfl
@[simp] theorem State.ctxs_setCluster (s : State) (u : Nat) (x : Cluster) : (s.setCluster u x).ctxs = s.ctxs := rfl
@[simp] theorem State.mem_setCluster (s : State) (u : Nat) (x : Cluster) : (s.setCluster u x).mem = s.mem := rfl
@[simp] theorem State.dram_setCluster (s : State) (u : Nat) (x : Cluster) : (s.setCluster u x).dram = s.dram := rfl
@[simp] theorem State.repMem_setCluster (s : State) (u : Nat) (x : Cluster) : (s.setCluster u x).repMem = s.repMem := rfl
@[simp] theorem State.bad_setCluster (s : State) (u : Nat) (x : Cluster) : (s.setCluster u x).bad = s.bad := rfl
@[simp] theorem State.dramBad_setCluster (s : State) (u : Nat) (x : Cluster) : (s.setCluster u x).dramBad = s.dramBad := rfl
@[simp] theorem State.heldWb_setCluster (s : State) (u : Nat) (x : Cluster) : (s.setCluster u x).heldWb = s.heldWb := rfl
@[simp] theorem State.heldSys_setCluster (s : State) (u : Nat) (x : Cluster) : (s.setCluster u x).heldSys = s.heldSys := rfl
@[simp] theorem State.pages_setCluster (s : State) (u : Nat) (x : Cluster) : (s.setCluster u x).pages = s.pages := rfl
@[simp] theorem State.nextFrame_setCluster (s : State) (u : Nat) (x : Cluster) : (s.setCluster u x).nextFrame = s.nextFrame := rfl
@[simp] theorem State.freed_setCluster (s : State) (u : Nat) (x : Cluster) : (s.setCluster u x).freed = s.freed := rfl
@[simp] theorem State.collapse_setCluster (s : State) (u : Nat) (x : Cluster) : (s.setCluster u x).collapse = s.collapse := rfl
@[simp] theorem State.replicas_setCluster (s : State) (u : Nat) (x : Cluster) : (s.setCluster u x).replicas = s.replicas := rfl
@[simp] theorem State.migrating_setCluster (s : State) (u : Nat) (x : Cluster) : (s.setCluster u x).migrating = s.migrating := rfl
@[simp] theorem State.plans_setCluster (s : State) (u : Nat) (x : Cluster) : (s.setCluster u x).plans = s.plans := rfl
@[simp] theorem State.planNo_setCluster (s : State) (u : Nat) (x : Cluster) : (s.setCluster u x).planNo = s.planNo := rfl
@[simp] theorem State.sweeps_setCluster (s : State) (u : Nat) (x : Cluster) : (s.setCluster u x).sweeps = s.sweeps := rfl
@[simp] theorem State.hrt_setCluster (s : State) (u : Nat) (x : Cluster) : (s.setCluster u x).hrt = s.hrt := rfl
@[simp] theorem State.msgs_setCluster (s : State) (u : Nat) (x : Cluster) : (s.setCluster u x).msgs = s.msgs := rfl
@[simp] theorem State.hoopWait_setCluster (s : State) (u : Nat) (x : Cluster) : (s.setCluster u x).hoopWait = s.hoopWait := rfl
@[simp] theorem State.lostDevs_setCluster (s : State) (u : Nat) (x : Cluster) : (s.setCluster u x).lostDevs = s.lostDevs := rfl
@[simp] theorem State.podCtx_setCluster (s : State) (u : Nat) (x : Cluster) : (s.setCluster u x).podCtx = s.podCtx := rfl
@[simp] theorem State.podQ_setCluster (s : State) (u : Nat) (x : Cluster) : (s.setCluster u x).podQ = s.podQ := rfl
@[simp] theorem State.forwards_setCluster (s : State) (u : Nat) (x : Cluster) : (s.setCluster u x).forwards = s.forwards := rfl
@[simp] theorem State.devNum_setCluster (s : State) (u : Nat) (x : Cluster) : (s.setCluster u x).devNum = s.devNum := rfl
@[simp] theorem State.numSet_setCluster (s : State) (u : Nat) (x : Cluster) : (s.setCluster u x).numSet = s.numSet := rfl
@[simp] theorem State.powerLimit_setCluster (s : State) (u : Nat) (x : Cluster) : (s.setCluster u x).powerLimit = s.powerLimit := rfl
@[simp] theorem State.mwErr_setCluster (s : State) (u : Nat) (x : Cluster) : (s.setCluster u x).mwErr = s.mwErr := rfl
@[simp] theorem State.regs_setCluster (s : State) (u : Nat) (x : Cluster) : (s.setCluster u x).regs = s.regs := rfl
@[simp] theorem State.mgmt_setCluster (s : State) (u : Nat) (x : Cluster) : (s.setCluster u x).mgmt = s.mgmt := rfl
@[simp] theorem State.swaps_setCluster (s : State) (u : Nat) (x : Cluster) : (s.setCluster u x).swaps = s.swaps := rfl
@[simp] theorem State.swapDone_setCluster (s : State) (u : Nat) (x : Cluster) : (s.setCluster u x).swapDone = s.swapDone := rfl
@[simp] theorem State.routes_setCluster (s : State) (u : Nat) (x : Cluster) : (s.setCluster u x).routes = s.routes := rfl
@[simp] theorem State.shadowRoutes_setCluster (s : State) (u : Nat) (x : Cluster) : (s.setCluster u x).shadowRoutes = s.shadowRoutes := rfl
@[simp] theorem State.fw_setCluster (s : State) (u : Nat) (x : Cluster) : (s.setCluster u x).fw = s.fw := rfl
@[simp] theorem State.report_setCluster (s : State) (u : Nat) (x : Cluster) : (s.setCluster u x).report = s.report := rfl
@[simp] theorem State.link_setCluster (s : State) (u : Nat) (x : Cluster) : (s.setCluster u x).link = s.link := rfl
@[simp] theorem State.msix_setCluster (s : State) (u : Nat) (x : Cluster) : (s.setCluster u x).msix = s.msix := rfl
@[simp] theorem State.stretch_setCluster (s : State) (u : Nat) (x : Cluster) : (s.setCluster u x).stretch = s.stretch := rfl
@[simp] theorem State.ptp_setCluster (s : State) (u : Nat) (x : Cluster) : (s.setCluster u x).ptp = s.ptp := rfl
@[simp] theorem State.devEnergy_setCluster (s : State) (u : Nat) (x : Cluster) : (s.setCluster u x).devEnergy = s.devEnergy := rfl
@[simp] theorem State.winEnergy_setCluster (s : State) (u : Nat) (x : Cluster) : (s.setCluster u x).winEnergy = s.winEnergy := rfl
@[simp] theorem State.nextEvent_setCluster (s : State) (u : Nat) (x : Cluster) : (s.setCluster u x).nextEvent = s.nextEvent := rfl
@[simp] theorem State.found_setCluster (s : State) (u : Nat) (x : Cluster) : (s.setCluster u x).found = s.found := rfl
@[simp] theorem State.snap_setCluster (s : State) (u : Nat) (x : Cluster) : (s.setCluster u x).snap = s.snap := rfl

-- setDie
@[simp] theorem State.agenda_setDie (s : State) (d : Nat) (x : Die) : (s.setDie d x).agenda = s.agenda := rfl
@[simp] theorem State.pending_setDie (s : State) (d : Nat) (x : Die) : (s.setDie d x).pending = s.pending := rfl
@[simp] theorem State.turnEv_setDie (s : State) (d : Nat) (x : Die) : (s.setDie d x).turnEv = s.turnEv := rfl
@[simp] theorem State.cur_setDie (s : State) (d : Nat) (x : Die) : (s.setDie d x).cur = s.cur := rfl
@[simp] theorem State.nextId_setDie (s : State) (d : Nat) (x : Die) : (s.setDie d x).nextId = s.nextId := rfl
@[simp] theorem State.tick_setDie (s : State) (d : Nat) (x : Die) : (s.setDie d x).tick = s.tick := rfl
@[simp] theorem State.now_setDie (s : State) (d : Nat) (x : Die) : (s.setDie d x).now = s.now := rfl
@[simp] theorem State.cycle_setDie (s : State) (d : Nat) (x : Die) : (s.setDie d x).cycle = s.cycle := rfl
@[simp] theorem State.cores_setDie (s : State) (d : Nat) (x : Die) : (s.setDie d x).cores = s.cores := rfl
@[simp] theorem State.clusters_setDie (s : State) (d : Nat) (x : Die) : (s.setDie d x).clusters = s.clusters := rfl
@[simp] theorem State.ctxs_setDie (s : State) (d : Nat) (x : Die) : (s.setDie d x).ctxs = s.ctxs := rfl
@[simp] theorem State.mem_setDie (s : State) (d : Nat) (x : Die) : (s.setDie d x).mem = s.mem := rfl
@[simp] theorem State.dram_setDie (s : State) (d : Nat) (x : Die) : (s.setDie d x).dram = s.dram := rfl
@[simp] theorem State.repMem_setDie (s : State) (d : Nat) (x : Die) : (s.setDie d x).repMem = s.repMem := rfl
@[simp] theorem State.bad_setDie (s : State) (d : Nat) (x : Die) : (s.setDie d x).bad = s.bad := rfl
@[simp] theorem State.dramBad_setDie (s : State) (d : Nat) (x : Die) : (s.setDie d x).dramBad = s.dramBad := rfl
@[simp] theorem State.heldWb_setDie (s : State) (d : Nat) (x : Die) : (s.setDie d x).heldWb = s.heldWb := rfl
@[simp] theorem State.heldSys_setDie (s : State) (d : Nat) (x : Die) : (s.setDie d x).heldSys = s.heldSys := rfl
@[simp] theorem State.pages_setDie (s : State) (d : Nat) (x : Die) : (s.setDie d x).pages = s.pages := rfl
@[simp] theorem State.nextFrame_setDie (s : State) (d : Nat) (x : Die) : (s.setDie d x).nextFrame = s.nextFrame := rfl
@[simp] theorem State.freed_setDie (s : State) (d : Nat) (x : Die) : (s.setDie d x).freed = s.freed := rfl
@[simp] theorem State.collapse_setDie (s : State) (d : Nat) (x : Die) : (s.setDie d x).collapse = s.collapse := rfl
@[simp] theorem State.replicas_setDie (s : State) (d : Nat) (x : Die) : (s.setDie d x).replicas = s.replicas := rfl
@[simp] theorem State.migrating_setDie (s : State) (d : Nat) (x : Die) : (s.setDie d x).migrating = s.migrating := rfl
@[simp] theorem State.plans_setDie (s : State) (d : Nat) (x : Die) : (s.setDie d x).plans = s.plans := rfl
@[simp] theorem State.planNo_setDie (s : State) (d : Nat) (x : Die) : (s.setDie d x).planNo = s.planNo := rfl
@[simp] theorem State.sweeps_setDie (s : State) (d : Nat) (x : Die) : (s.setDie d x).sweeps = s.sweeps := rfl
@[simp] theorem State.hrt_setDie (s : State) (d : Nat) (x : Die) : (s.setDie d x).hrt = s.hrt := rfl
@[simp] theorem State.msgs_setDie (s : State) (d : Nat) (x : Die) : (s.setDie d x).msgs = s.msgs := rfl
@[simp] theorem State.hoopWait_setDie (s : State) (d : Nat) (x : Die) : (s.setDie d x).hoopWait = s.hoopWait := rfl
@[simp] theorem State.lostDevs_setDie (s : State) (d : Nat) (x : Die) : (s.setDie d x).lostDevs = s.lostDevs := rfl
@[simp] theorem State.podCtx_setDie (s : State) (d : Nat) (x : Die) : (s.setDie d x).podCtx = s.podCtx := rfl
@[simp] theorem State.podQ_setDie (s : State) (d : Nat) (x : Die) : (s.setDie d x).podQ = s.podQ := rfl
@[simp] theorem State.forwards_setDie (s : State) (d : Nat) (x : Die) : (s.setDie d x).forwards = s.forwards := rfl
@[simp] theorem State.devNum_setDie (s : State) (d : Nat) (x : Die) : (s.setDie d x).devNum = s.devNum := rfl
@[simp] theorem State.numSet_setDie (s : State) (d : Nat) (x : Die) : (s.setDie d x).numSet = s.numSet := rfl
@[simp] theorem State.powerLimit_setDie (s : State) (d : Nat) (x : Die) : (s.setDie d x).powerLimit = s.powerLimit := rfl
@[simp] theorem State.mwErr_setDie (s : State) (d : Nat) (x : Die) : (s.setDie d x).mwErr = s.mwErr := rfl
@[simp] theorem State.regs_setDie (s : State) (d : Nat) (x : Die) : (s.setDie d x).regs = s.regs := rfl
@[simp] theorem State.mgmt_setDie (s : State) (d : Nat) (x : Die) : (s.setDie d x).mgmt = s.mgmt := rfl
@[simp] theorem State.swaps_setDie (s : State) (d : Nat) (x : Die) : (s.setDie d x).swaps = s.swaps := rfl
@[simp] theorem State.swapDone_setDie (s : State) (d : Nat) (x : Die) : (s.setDie d x).swapDone = s.swapDone := rfl
@[simp] theorem State.routes_setDie (s : State) (d : Nat) (x : Die) : (s.setDie d x).routes = s.routes := rfl
@[simp] theorem State.shadowRoutes_setDie (s : State) (d : Nat) (x : Die) : (s.setDie d x).shadowRoutes = s.shadowRoutes := rfl
@[simp] theorem State.fw_setDie (s : State) (d : Nat) (x : Die) : (s.setDie d x).fw = s.fw := rfl
@[simp] theorem State.report_setDie (s : State) (d : Nat) (x : Die) : (s.setDie d x).report = s.report := rfl
@[simp] theorem State.link_setDie (s : State) (d : Nat) (x : Die) : (s.setDie d x).link = s.link := rfl
@[simp] theorem State.msix_setDie (s : State) (d : Nat) (x : Die) : (s.setDie d x).msix = s.msix := rfl
@[simp] theorem State.stretch_setDie (s : State) (d : Nat) (x : Die) : (s.setDie d x).stretch = s.stretch := rfl
@[simp] theorem State.ptp_setDie (s : State) (d : Nat) (x : Die) : (s.setDie d x).ptp = s.ptp := rfl
@[simp] theorem State.devEnergy_setDie (s : State) (d : Nat) (x : Die) : (s.setDie d x).devEnergy = s.devEnergy := rfl
@[simp] theorem State.winEnergy_setDie (s : State) (d : Nat) (x : Die) : (s.setDie d x).winEnergy = s.winEnergy := rfl
@[simp] theorem State.nextEvent_setDie (s : State) (d : Nat) (x : Die) : (s.setDie d x).nextEvent = s.nextEvent := rfl
@[simp] theorem State.found_setDie (s : State) (d : Nat) (x : Die) : (s.setDie d x).found = s.found := rfl
@[simp] theorem State.snap_setDie (s : State) (d : Nat) (x : Die) : (s.setDie d x).snap = s.snap := rfl

-- setCtx
@[simp] theorem State.agenda_setCtx (s : State) (c : Nat) (x : Ctx) : (s.setCtx c x).agenda = s.agenda := rfl
@[simp] theorem State.pending_setCtx (s : State) (c : Nat) (x : Ctx) : (s.setCtx c x).pending = s.pending := rfl
@[simp] theorem State.turnEv_setCtx (s : State) (c : Nat) (x : Ctx) : (s.setCtx c x).turnEv = s.turnEv := rfl
@[simp] theorem State.cur_setCtx (s : State) (c : Nat) (x : Ctx) : (s.setCtx c x).cur = s.cur := rfl
@[simp] theorem State.nextId_setCtx (s : State) (c : Nat) (x : Ctx) : (s.setCtx c x).nextId = s.nextId := rfl
@[simp] theorem State.tick_setCtx (s : State) (c : Nat) (x : Ctx) : (s.setCtx c x).tick = s.tick := rfl
@[simp] theorem State.now_setCtx (s : State) (c : Nat) (x : Ctx) : (s.setCtx c x).now = s.now := rfl
@[simp] theorem State.cycle_setCtx (s : State) (c : Nat) (x : Ctx) : (s.setCtx c x).cycle = s.cycle := rfl
@[simp] theorem State.cores_setCtx (s : State) (c : Nat) (x : Ctx) : (s.setCtx c x).cores = s.cores := rfl
@[simp] theorem State.clusters_setCtx (s : State) (c : Nat) (x : Ctx) : (s.setCtx c x).clusters = s.clusters := rfl
@[simp] theorem State.dies_setCtx (s : State) (c : Nat) (x : Ctx) : (s.setCtx c x).dies = s.dies := rfl
@[simp] theorem State.mem_setCtx (s : State) (c : Nat) (x : Ctx) : (s.setCtx c x).mem = s.mem := rfl
@[simp] theorem State.dram_setCtx (s : State) (c : Nat) (x : Ctx) : (s.setCtx c x).dram = s.dram := rfl
@[simp] theorem State.repMem_setCtx (s : State) (c : Nat) (x : Ctx) : (s.setCtx c x).repMem = s.repMem := rfl
@[simp] theorem State.bad_setCtx (s : State) (c : Nat) (x : Ctx) : (s.setCtx c x).bad = s.bad := rfl
@[simp] theorem State.dramBad_setCtx (s : State) (c : Nat) (x : Ctx) : (s.setCtx c x).dramBad = s.dramBad := rfl
@[simp] theorem State.heldWb_setCtx (s : State) (c : Nat) (x : Ctx) : (s.setCtx c x).heldWb = s.heldWb := rfl
@[simp] theorem State.heldSys_setCtx (s : State) (c : Nat) (x : Ctx) : (s.setCtx c x).heldSys = s.heldSys := rfl
@[simp] theorem State.pages_setCtx (s : State) (c : Nat) (x : Ctx) : (s.setCtx c x).pages = s.pages := rfl
@[simp] theorem State.nextFrame_setCtx (s : State) (c : Nat) (x : Ctx) : (s.setCtx c x).nextFrame = s.nextFrame := rfl
@[simp] theorem State.freed_setCtx (s : State) (c : Nat) (x : Ctx) : (s.setCtx c x).freed = s.freed := rfl
@[simp] theorem State.collapse_setCtx (s : State) (c : Nat) (x : Ctx) : (s.setCtx c x).collapse = s.collapse := rfl
@[simp] theorem State.replicas_setCtx (s : State) (c : Nat) (x : Ctx) : (s.setCtx c x).replicas = s.replicas := rfl
@[simp] theorem State.migrating_setCtx (s : State) (c : Nat) (x : Ctx) : (s.setCtx c x).migrating = s.migrating := rfl
@[simp] theorem State.plans_setCtx (s : State) (c : Nat) (x : Ctx) : (s.setCtx c x).plans = s.plans := rfl
@[simp] theorem State.planNo_setCtx (s : State) (c : Nat) (x : Ctx) : (s.setCtx c x).planNo = s.planNo := rfl
@[simp] theorem State.sweeps_setCtx (s : State) (c : Nat) (x : Ctx) : (s.setCtx c x).sweeps = s.sweeps := rfl
@[simp] theorem State.hrt_setCtx (s : State) (c : Nat) (x : Ctx) : (s.setCtx c x).hrt = s.hrt := rfl
@[simp] theorem State.msgs_setCtx (s : State) (c : Nat) (x : Ctx) : (s.setCtx c x).msgs = s.msgs := rfl
@[simp] theorem State.hoopWait_setCtx (s : State) (c : Nat) (x : Ctx) : (s.setCtx c x).hoopWait = s.hoopWait := rfl
@[simp] theorem State.lostDevs_setCtx (s : State) (c : Nat) (x : Ctx) : (s.setCtx c x).lostDevs = s.lostDevs := rfl
@[simp] theorem State.podCtx_setCtx (s : State) (c : Nat) (x : Ctx) : (s.setCtx c x).podCtx = s.podCtx := rfl
@[simp] theorem State.podQ_setCtx (s : State) (c : Nat) (x : Ctx) : (s.setCtx c x).podQ = s.podQ := rfl
@[simp] theorem State.forwards_setCtx (s : State) (c : Nat) (x : Ctx) : (s.setCtx c x).forwards = s.forwards := rfl
@[simp] theorem State.devNum_setCtx (s : State) (c : Nat) (x : Ctx) : (s.setCtx c x).devNum = s.devNum := rfl
@[simp] theorem State.numSet_setCtx (s : State) (c : Nat) (x : Ctx) : (s.setCtx c x).numSet = s.numSet := rfl
@[simp] theorem State.powerLimit_setCtx (s : State) (c : Nat) (x : Ctx) : (s.setCtx c x).powerLimit = s.powerLimit := rfl
@[simp] theorem State.mwErr_setCtx (s : State) (c : Nat) (x : Ctx) : (s.setCtx c x).mwErr = s.mwErr := rfl
@[simp] theorem State.regs_setCtx (s : State) (c : Nat) (x : Ctx) : (s.setCtx c x).regs = s.regs := rfl
@[simp] theorem State.mgmt_setCtx (s : State) (c : Nat) (x : Ctx) : (s.setCtx c x).mgmt = s.mgmt := rfl
@[simp] theorem State.swaps_setCtx (s : State) (c : Nat) (x : Ctx) : (s.setCtx c x).swaps = s.swaps := rfl
@[simp] theorem State.swapDone_setCtx (s : State) (c : Nat) (x : Ctx) : (s.setCtx c x).swapDone = s.swapDone := rfl
@[simp] theorem State.routes_setCtx (s : State) (c : Nat) (x : Ctx) : (s.setCtx c x).routes = s.routes := rfl
@[simp] theorem State.shadowRoutes_setCtx (s : State) (c : Nat) (x : Ctx) : (s.setCtx c x).shadowRoutes = s.shadowRoutes := rfl
@[simp] theorem State.fw_setCtx (s : State) (c : Nat) (x : Ctx) : (s.setCtx c x).fw = s.fw := rfl
@[simp] theorem State.report_setCtx (s : State) (c : Nat) (x : Ctx) : (s.setCtx c x).report = s.report := rfl
@[simp] theorem State.link_setCtx (s : State) (c : Nat) (x : Ctx) : (s.setCtx c x).link = s.link := rfl
@[simp] theorem State.msix_setCtx (s : State) (c : Nat) (x : Ctx) : (s.setCtx c x).msix = s.msix := rfl
@[simp] theorem State.stretch_setCtx (s : State) (c : Nat) (x : Ctx) : (s.setCtx c x).stretch = s.stretch := rfl
@[simp] theorem State.ptp_setCtx (s : State) (c : Nat) (x : Ctx) : (s.setCtx c x).ptp = s.ptp := rfl
@[simp] theorem State.devEnergy_setCtx (s : State) (c : Nat) (x : Ctx) : (s.setCtx c x).devEnergy = s.devEnergy := rfl
@[simp] theorem State.winEnergy_setCtx (s : State) (c : Nat) (x : Ctx) : (s.setCtx c x).winEnergy = s.winEnergy := rfl
@[simp] theorem State.nextEvent_setCtx (s : State) (c : Nat) (x : Ctx) : (s.setCtx c x).nextEvent = s.nextEvent := rfl
@[simp] theorem State.found_setCtx (s : State) (c : Nat) (x : Ctx) : (s.setCtx c x).found = s.found := rfl
@[simp] theorem State.snap_setCtx (s : State) (c : Nat) (x : Ctx) : (s.setCtx c x).snap = s.snap := rfl

-- due
@[simp] theorem State.agenda_due (s : State) (e : Instr) : (s.due e).agenda = s.agenda := rfl
@[simp] theorem State.turnEv_due (s : State) (e : Instr) : (s.due e).turnEv = s.turnEv := rfl
@[simp] theorem State.cur_due (s : State) (e : Instr) : (s.due e).cur = s.cur := rfl
@[simp] theorem State.nextId_due (s : State) (e : Instr) : (s.due e).nextId = s.nextId := rfl
@[simp] theorem State.tick_due (s : State) (e : Instr) : (s.due e).tick = s.tick := rfl
@[simp] theorem State.now_due (s : State) (e : Instr) : (s.due e).now = s.now := rfl
@[simp] theorem State.cycle_due (s : State) (e : Instr) : (s.due e).cycle = s.cycle := rfl
@[simp] theorem State.cores_due (s : State) (e : Instr) : (s.due e).cores = s.cores := rfl
@[simp] theorem State.clusters_due (s : State) (e : Instr) : (s.due e).clusters = s.clusters := rfl
@[simp] theorem State.dies_due (s : State) (e : Instr) : (s.due e).dies = s.dies := rfl
@[simp] theorem State.ctxs_due (s : State) (e : Instr) : (s.due e).ctxs = s.ctxs := rfl
@[simp] theorem State.mem_due (s : State) (e : Instr) : (s.due e).mem = s.mem := rfl
@[simp] theorem State.dram_due (s : State) (e : Instr) : (s.due e).dram = s.dram := rfl
@[simp] theorem State.repMem_due (s : State) (e : Instr) : (s.due e).repMem = s.repMem := rfl
@[simp] theorem State.bad_due (s : State) (e : Instr) : (s.due e).bad = s.bad := rfl
@[simp] theorem State.dramBad_due (s : State) (e : Instr) : (s.due e).dramBad = s.dramBad := rfl
@[simp] theorem State.heldWb_due (s : State) (e : Instr) : (s.due e).heldWb = s.heldWb := rfl
@[simp] theorem State.heldSys_due (s : State) (e : Instr) : (s.due e).heldSys = s.heldSys := rfl
@[simp] theorem State.pages_due (s : State) (e : Instr) : (s.due e).pages = s.pages := rfl
@[simp] theorem State.nextFrame_due (s : State) (e : Instr) : (s.due e).nextFrame = s.nextFrame := rfl
@[simp] theorem State.freed_due (s : State) (e : Instr) : (s.due e).freed = s.freed := rfl
@[simp] theorem State.collapse_due (s : State) (e : Instr) : (s.due e).collapse = s.collapse := rfl
@[simp] theorem State.replicas_due (s : State) (e : Instr) : (s.due e).replicas = s.replicas := rfl
@[simp] theorem State.migrating_due (s : State) (e : Instr) : (s.due e).migrating = s.migrating := rfl
@[simp] theorem State.plans_due (s : State) (e : Instr) : (s.due e).plans = s.plans := rfl
@[simp] theorem State.planNo_due (s : State) (e : Instr) : (s.due e).planNo = s.planNo := rfl
@[simp] theorem State.sweeps_due (s : State) (e : Instr) : (s.due e).sweeps = s.sweeps := rfl
@[simp] theorem State.hrt_due (s : State) (e : Instr) : (s.due e).hrt = s.hrt := rfl
@[simp] theorem State.msgs_due (s : State) (e : Instr) : (s.due e).msgs = s.msgs := rfl
@[simp] theorem State.hoopWait_due (s : State) (e : Instr) : (s.due e).hoopWait = s.hoopWait := rfl
@[simp] theorem State.lostDevs_due (s : State) (e : Instr) : (s.due e).lostDevs = s.lostDevs := rfl
@[simp] theorem State.podCtx_due (s : State) (e : Instr) : (s.due e).podCtx = s.podCtx := rfl
@[simp] theorem State.podQ_due (s : State) (e : Instr) : (s.due e).podQ = s.podQ := rfl
@[simp] theorem State.forwards_due (s : State) (e : Instr) : (s.due e).forwards = s.forwards := rfl
@[simp] theorem State.devNum_due (s : State) (e : Instr) : (s.due e).devNum = s.devNum := rfl
@[simp] theorem State.numSet_due (s : State) (e : Instr) : (s.due e).numSet = s.numSet := rfl
@[simp] theorem State.powerLimit_due (s : State) (e : Instr) : (s.due e).powerLimit = s.powerLimit := rfl
@[simp] theorem State.mwErr_due (s : State) (e : Instr) : (s.due e).mwErr = s.mwErr := rfl
@[simp] theorem State.regs_due (s : State) (e : Instr) : (s.due e).regs = s.regs := rfl
@[simp] theorem State.mgmt_due (s : State) (e : Instr) : (s.due e).mgmt = s.mgmt := rfl
@[simp] theorem State.swaps_due (s : State) (e : Instr) : (s.due e).swaps = s.swaps := rfl
@[simp] theorem State.swapDone_due (s : State) (e : Instr) : (s.due e).swapDone = s.swapDone := rfl
@[simp] theorem State.routes_due (s : State) (e : Instr) : (s.due e).routes = s.routes := rfl
@[simp] theorem State.shadowRoutes_due (s : State) (e : Instr) : (s.due e).shadowRoutes = s.shadowRoutes := rfl
@[simp] theorem State.fw_due (s : State) (e : Instr) : (s.due e).fw = s.fw := rfl
@[simp] theorem State.report_due (s : State) (e : Instr) : (s.due e).report = s.report := rfl
@[simp] theorem State.link_due (s : State) (e : Instr) : (s.due e).link = s.link := rfl
@[simp] theorem State.msix_due (s : State) (e : Instr) : (s.due e).msix = s.msix := rfl
@[simp] theorem State.stretch_due (s : State) (e : Instr) : (s.due e).stretch = s.stretch := rfl
@[simp] theorem State.ptp_due (s : State) (e : Instr) : (s.due e).ptp = s.ptp := rfl
@[simp] theorem State.devEnergy_due (s : State) (e : Instr) : (s.due e).devEnergy = s.devEnergy := rfl
@[simp] theorem State.winEnergy_due (s : State) (e : Instr) : (s.due e).winEnergy = s.winEnergy := rfl
@[simp] theorem State.nextEvent_due (s : State) (e : Instr) : (s.due e).nextEvent = s.nextEvent := rfl
@[simp] theorem State.found_due (s : State) (e : Instr) : (s.due e).found = s.found := rfl
@[simp] theorem State.snap_due (s : State) (e : Instr) : (s.due e).snap = s.snap := rfl

-- setAgent
@[simp] theorem State.agenda_setAgent (s : State) (c k : Nat) (a : Agent) : (s.setAgent c k a).agenda = s.agenda := rfl
@[simp] theorem State.pending_setAgent (s : State) (c k : Nat) (a : Agent) : (s.setAgent c k a).pending = s.pending := rfl
@[simp] theorem State.turnEv_setAgent (s : State) (c k : Nat) (a : Agent) : (s.setAgent c k a).turnEv = s.turnEv := rfl
@[simp] theorem State.cur_setAgent (s : State) (c k : Nat) (a : Agent) : (s.setAgent c k a).cur = s.cur := rfl
@[simp] theorem State.nextId_setAgent (s : State) (c k : Nat) (a : Agent) : (s.setAgent c k a).nextId = s.nextId := rfl
@[simp] theorem State.tick_setAgent (s : State) (c k : Nat) (a : Agent) : (s.setAgent c k a).tick = s.tick := rfl
@[simp] theorem State.now_setAgent (s : State) (c k : Nat) (a : Agent) : (s.setAgent c k a).now = s.now := rfl
@[simp] theorem State.cycle_setAgent (s : State) (c k : Nat) (a : Agent) : (s.setAgent c k a).cycle = s.cycle := rfl
@[simp] theorem State.clusters_setAgent (s : State) (c k : Nat) (a : Agent) : (s.setAgent c k a).clusters = s.clusters := rfl
@[simp] theorem State.dies_setAgent (s : State) (c k : Nat) (a : Agent) : (s.setAgent c k a).dies = s.dies := rfl
@[simp] theorem State.ctxs_setAgent (s : State) (c k : Nat) (a : Agent) : (s.setAgent c k a).ctxs = s.ctxs := rfl
@[simp] theorem State.mem_setAgent (s : State) (c k : Nat) (a : Agent) : (s.setAgent c k a).mem = s.mem := rfl
@[simp] theorem State.dram_setAgent (s : State) (c k : Nat) (a : Agent) : (s.setAgent c k a).dram = s.dram := rfl
@[simp] theorem State.repMem_setAgent (s : State) (c k : Nat) (a : Agent) : (s.setAgent c k a).repMem = s.repMem := rfl
@[simp] theorem State.bad_setAgent (s : State) (c k : Nat) (a : Agent) : (s.setAgent c k a).bad = s.bad := rfl
@[simp] theorem State.dramBad_setAgent (s : State) (c k : Nat) (a : Agent) : (s.setAgent c k a).dramBad = s.dramBad := rfl
@[simp] theorem State.heldWb_setAgent (s : State) (c k : Nat) (a : Agent) : (s.setAgent c k a).heldWb = s.heldWb := rfl
@[simp] theorem State.heldSys_setAgent (s : State) (c k : Nat) (a : Agent) : (s.setAgent c k a).heldSys = s.heldSys := rfl
@[simp] theorem State.pages_setAgent (s : State) (c k : Nat) (a : Agent) : (s.setAgent c k a).pages = s.pages := rfl
@[simp] theorem State.nextFrame_setAgent (s : State) (c k : Nat) (a : Agent) : (s.setAgent c k a).nextFrame = s.nextFrame := rfl
@[simp] theorem State.freed_setAgent (s : State) (c k : Nat) (a : Agent) : (s.setAgent c k a).freed = s.freed := rfl
@[simp] theorem State.collapse_setAgent (s : State) (c k : Nat) (a : Agent) : (s.setAgent c k a).collapse = s.collapse := rfl
@[simp] theorem State.replicas_setAgent (s : State) (c k : Nat) (a : Agent) : (s.setAgent c k a).replicas = s.replicas := rfl
@[simp] theorem State.migrating_setAgent (s : State) (c k : Nat) (a : Agent) : (s.setAgent c k a).migrating = s.migrating := rfl
@[simp] theorem State.plans_setAgent (s : State) (c k : Nat) (a : Agent) : (s.setAgent c k a).plans = s.plans := rfl
@[simp] theorem State.planNo_setAgent (s : State) (c k : Nat) (a : Agent) : (s.setAgent c k a).planNo = s.planNo := rfl
@[simp] theorem State.sweeps_setAgent (s : State) (c k : Nat) (a : Agent) : (s.setAgent c k a).sweeps = s.sweeps := rfl
@[simp] theorem State.hrt_setAgent (s : State) (c k : Nat) (a : Agent) : (s.setAgent c k a).hrt = s.hrt := rfl
@[simp] theorem State.msgs_setAgent (s : State) (c k : Nat) (a : Agent) : (s.setAgent c k a).msgs = s.msgs := rfl
@[simp] theorem State.hoopWait_setAgent (s : State) (c k : Nat) (a : Agent) : (s.setAgent c k a).hoopWait = s.hoopWait := rfl
@[simp] theorem State.lostDevs_setAgent (s : State) (c k : Nat) (a : Agent) : (s.setAgent c k a).lostDevs = s.lostDevs := rfl
@[simp] theorem State.podCtx_setAgent (s : State) (c k : Nat) (a : Agent) : (s.setAgent c k a).podCtx = s.podCtx := rfl
@[simp] theorem State.podQ_setAgent (s : State) (c k : Nat) (a : Agent) : (s.setAgent c k a).podQ = s.podQ := rfl
@[simp] theorem State.forwards_setAgent (s : State) (c k : Nat) (a : Agent) : (s.setAgent c k a).forwards = s.forwards := rfl
@[simp] theorem State.devNum_setAgent (s : State) (c k : Nat) (a : Agent) : (s.setAgent c k a).devNum = s.devNum := rfl
@[simp] theorem State.numSet_setAgent (s : State) (c k : Nat) (a : Agent) : (s.setAgent c k a).numSet = s.numSet := rfl
@[simp] theorem State.powerLimit_setAgent (s : State) (c k : Nat) (a : Agent) : (s.setAgent c k a).powerLimit = s.powerLimit := rfl
@[simp] theorem State.mwErr_setAgent (s : State) (c k : Nat) (a : Agent) : (s.setAgent c k a).mwErr = s.mwErr := rfl
@[simp] theorem State.regs_setAgent (s : State) (c k : Nat) (a : Agent) : (s.setAgent c k a).regs = s.regs := rfl
@[simp] theorem State.mgmt_setAgent (s : State) (c k : Nat) (a : Agent) : (s.setAgent c k a).mgmt = s.mgmt := rfl
@[simp] theorem State.swaps_setAgent (s : State) (c k : Nat) (a : Agent) : (s.setAgent c k a).swaps = s.swaps := rfl
@[simp] theorem State.swapDone_setAgent (s : State) (c k : Nat) (a : Agent) : (s.setAgent c k a).swapDone = s.swapDone := rfl
@[simp] theorem State.routes_setAgent (s : State) (c k : Nat) (a : Agent) : (s.setAgent c k a).routes = s.routes := rfl
@[simp] theorem State.shadowRoutes_setAgent (s : State) (c k : Nat) (a : Agent) : (s.setAgent c k a).shadowRoutes = s.shadowRoutes := rfl
@[simp] theorem State.fw_setAgent (s : State) (c k : Nat) (a : Agent) : (s.setAgent c k a).fw = s.fw := rfl
@[simp] theorem State.report_setAgent (s : State) (c k : Nat) (a : Agent) : (s.setAgent c k a).report = s.report := rfl
@[simp] theorem State.link_setAgent (s : State) (c k : Nat) (a : Agent) : (s.setAgent c k a).link = s.link := rfl
@[simp] theorem State.msix_setAgent (s : State) (c k : Nat) (a : Agent) : (s.setAgent c k a).msix = s.msix := rfl
@[simp] theorem State.stretch_setAgent (s : State) (c k : Nat) (a : Agent) : (s.setAgent c k a).stretch = s.stretch := rfl
@[simp] theorem State.ptp_setAgent (s : State) (c k : Nat) (a : Agent) : (s.setAgent c k a).ptp = s.ptp := rfl
@[simp] theorem State.devEnergy_setAgent (s : State) (c k : Nat) (a : Agent) : (s.setAgent c k a).devEnergy = s.devEnergy := rfl
@[simp] theorem State.winEnergy_setAgent (s : State) (c k : Nat) (a : Agent) : (s.setAgent c k a).winEnergy = s.winEnergy := rfl
@[simp] theorem State.nextEvent_setAgent (s : State) (c k : Nat) (a : Agent) : (s.setAgent c k a).nextEvent = s.nextEvent := rfl
@[simp] theorem State.found_setAgent (s : State) (c k : Nat) (a : Agent) : (s.setAgent c k a).found = s.found := rfl
@[simp] theorem State.snap_setAgent (s : State) (c k : Nat) (a : Agent) : (s.setAgent c k a).snap = s.snap := rfl

-- setMe
@[simp] theorem State.agenda_setMe (s : State) (a : Agent) : (s.setMe a).agenda = s.agenda := rfl
@[simp] theorem State.pending_setMe (s : State) (a : Agent) : (s.setMe a).pending = s.pending := rfl
@[simp] theorem State.turnEv_setMe (s : State) (a : Agent) : (s.setMe a).turnEv = s.turnEv := rfl
@[simp] theorem State.cur_setMe (s : State) (a : Agent) : (s.setMe a).cur = s.cur := rfl
@[simp] theorem State.nextId_setMe (s : State) (a : Agent) : (s.setMe a).nextId = s.nextId := rfl
@[simp] theorem State.tick_setMe (s : State) (a : Agent) : (s.setMe a).tick = s.tick := rfl
@[simp] theorem State.now_setMe (s : State) (a : Agent) : (s.setMe a).now = s.now := rfl
@[simp] theorem State.cycle_setMe (s : State) (a : Agent) : (s.setMe a).cycle = s.cycle := rfl
@[simp] theorem State.clusters_setMe (s : State) (a : Agent) : (s.setMe a).clusters = s.clusters := rfl
@[simp] theorem State.dies_setMe (s : State) (a : Agent) : (s.setMe a).dies = s.dies := rfl
@[simp] theorem State.ctxs_setMe (s : State) (a : Agent) : (s.setMe a).ctxs = s.ctxs := rfl
@[simp] theorem State.mem_setMe (s : State) (a : Agent) : (s.setMe a).mem = s.mem := rfl
@[simp] theorem State.dram_setMe (s : State) (a : Agent) : (s.setMe a).dram = s.dram := rfl
@[simp] theorem State.repMem_setMe (s : State) (a : Agent) : (s.setMe a).repMem = s.repMem := rfl
@[simp] theorem State.bad_setMe (s : State) (a : Agent) : (s.setMe a).bad = s.bad := rfl
@[simp] theorem State.dramBad_setMe (s : State) (a : Agent) : (s.setMe a).dramBad = s.dramBad := rfl
@[simp] theorem State.heldWb_setMe (s : State) (a : Agent) : (s.setMe a).heldWb = s.heldWb := rfl
@[simp] theorem State.heldSys_setMe (s : State) (a : Agent) : (s.setMe a).heldSys = s.heldSys := rfl
@[simp] theorem State.pages_setMe (s : State) (a : Agent) : (s.setMe a).pages = s.pages := rfl
@[simp] theorem State.nextFrame_setMe (s : State) (a : Agent) : (s.setMe a).nextFrame = s.nextFrame := rfl
@[simp] theorem State.freed_setMe (s : State) (a : Agent) : (s.setMe a).freed = s.freed := rfl
@[simp] theorem State.collapse_setMe (s : State) (a : Agent) : (s.setMe a).collapse = s.collapse := rfl
@[simp] theorem State.replicas_setMe (s : State) (a : Agent) : (s.setMe a).replicas = s.replicas := rfl
@[simp] theorem State.migrating_setMe (s : State) (a : Agent) : (s.setMe a).migrating = s.migrating := rfl
@[simp] theorem State.plans_setMe (s : State) (a : Agent) : (s.setMe a).plans = s.plans := rfl
@[simp] theorem State.planNo_setMe (s : State) (a : Agent) : (s.setMe a).planNo = s.planNo := rfl
@[simp] theorem State.sweeps_setMe (s : State) (a : Agent) : (s.setMe a).sweeps = s.sweeps := rfl
@[simp] theorem State.hrt_setMe (s : State) (a : Agent) : (s.setMe a).hrt = s.hrt := rfl
@[simp] theorem State.msgs_setMe (s : State) (a : Agent) : (s.setMe a).msgs = s.msgs := rfl
@[simp] theorem State.hoopWait_setMe (s : State) (a : Agent) : (s.setMe a).hoopWait = s.hoopWait := rfl
@[simp] theorem State.lostDevs_setMe (s : State) (a : Agent) : (s.setMe a).lostDevs = s.lostDevs := rfl
@[simp] theorem State.podCtx_setMe (s : State) (a : Agent) : (s.setMe a).podCtx = s.podCtx := rfl
@[simp] theorem State.podQ_setMe (s : State) (a : Agent) : (s.setMe a).podQ = s.podQ := rfl
@[simp] theorem State.forwards_setMe (s : State) (a : Agent) : (s.setMe a).forwards = s.forwards := rfl
@[simp] theorem State.devNum_setMe (s : State) (a : Agent) : (s.setMe a).devNum = s.devNum := rfl
@[simp] theorem State.numSet_setMe (s : State) (a : Agent) : (s.setMe a).numSet = s.numSet := rfl
@[simp] theorem State.powerLimit_setMe (s : State) (a : Agent) : (s.setMe a).powerLimit = s.powerLimit := rfl
@[simp] theorem State.mwErr_setMe (s : State) (a : Agent) : (s.setMe a).mwErr = s.mwErr := rfl
@[simp] theorem State.regs_setMe (s : State) (a : Agent) : (s.setMe a).regs = s.regs := rfl
@[simp] theorem State.mgmt_setMe (s : State) (a : Agent) : (s.setMe a).mgmt = s.mgmt := rfl
@[simp] theorem State.swaps_setMe (s : State) (a : Agent) : (s.setMe a).swaps = s.swaps := rfl
@[simp] theorem State.swapDone_setMe (s : State) (a : Agent) : (s.setMe a).swapDone = s.swapDone := rfl
@[simp] theorem State.routes_setMe (s : State) (a : Agent) : (s.setMe a).routes = s.routes := rfl
@[simp] theorem State.shadowRoutes_setMe (s : State) (a : Agent) : (s.setMe a).shadowRoutes = s.shadowRoutes := rfl
@[simp] theorem State.fw_setMe (s : State) (a : Agent) : (s.setMe a).fw = s.fw := rfl
@[simp] theorem State.report_setMe (s : State) (a : Agent) : (s.setMe a).report = s.report := rfl
@[simp] theorem State.link_setMe (s : State) (a : Agent) : (s.setMe a).link = s.link := rfl
@[simp] theorem State.msix_setMe (s : State) (a : Agent) : (s.setMe a).msix = s.msix := rfl
@[simp] theorem State.stretch_setMe (s : State) (a : Agent) : (s.setMe a).stretch = s.stretch := rfl
@[simp] theorem State.ptp_setMe (s : State) (a : Agent) : (s.setMe a).ptp = s.ptp := rfl
@[simp] theorem State.devEnergy_setMe (s : State) (a : Agent) : (s.setMe a).devEnergy = s.devEnergy := rfl
@[simp] theorem State.winEnergy_setMe (s : State) (a : Agent) : (s.setMe a).winEnergy = s.winEnergy := rfl
@[simp] theorem State.nextEvent_setMe (s : State) (a : Agent) : (s.setMe a).nextEvent = s.nextEvent := rfl
@[simp] theorem State.found_setMe (s : State) (a : Agent) : (s.setMe a).found = s.found := rfl
@[simp] theorem State.snap_setMe (s : State) (a : Agent) : (s.setMe a).snap = s.snap := rfl

-- modMe
@[simp] theorem State.agenda_modMe (s : State) (f : Agent → Agent) : (s.modMe f).agenda = s.agenda := rfl
@[simp] theorem State.pending_modMe (s : State) (f : Agent → Agent) : (s.modMe f).pending = s.pending := rfl
@[simp] theorem State.turnEv_modMe (s : State) (f : Agent → Agent) : (s.modMe f).turnEv = s.turnEv := rfl
@[simp] theorem State.cur_modMe (s : State) (f : Agent → Agent) : (s.modMe f).cur = s.cur := rfl
@[simp] theorem State.nextId_modMe (s : State) (f : Agent → Agent) : (s.modMe f).nextId = s.nextId := rfl
@[simp] theorem State.tick_modMe (s : State) (f : Agent → Agent) : (s.modMe f).tick = s.tick := rfl
@[simp] theorem State.now_modMe (s : State) (f : Agent → Agent) : (s.modMe f).now = s.now := rfl
@[simp] theorem State.cycle_modMe (s : State) (f : Agent → Agent) : (s.modMe f).cycle = s.cycle := rfl
@[simp] theorem State.clusters_modMe (s : State) (f : Agent → Agent) : (s.modMe f).clusters = s.clusters := rfl
@[simp] theorem State.dies_modMe (s : State) (f : Agent → Agent) : (s.modMe f).dies = s.dies := rfl
@[simp] theorem State.ctxs_modMe (s : State) (f : Agent → Agent) : (s.modMe f).ctxs = s.ctxs := rfl
@[simp] theorem State.mem_modMe (s : State) (f : Agent → Agent) : (s.modMe f).mem = s.mem := rfl
@[simp] theorem State.dram_modMe (s : State) (f : Agent → Agent) : (s.modMe f).dram = s.dram := rfl
@[simp] theorem State.repMem_modMe (s : State) (f : Agent → Agent) : (s.modMe f).repMem = s.repMem := rfl
@[simp] theorem State.bad_modMe (s : State) (f : Agent → Agent) : (s.modMe f).bad = s.bad := rfl
@[simp] theorem State.dramBad_modMe (s : State) (f : Agent → Agent) : (s.modMe f).dramBad = s.dramBad := rfl
@[simp] theorem State.heldWb_modMe (s : State) (f : Agent → Agent) : (s.modMe f).heldWb = s.heldWb := rfl
@[simp] theorem State.heldSys_modMe (s : State) (f : Agent → Agent) : (s.modMe f).heldSys = s.heldSys := rfl
@[simp] theorem State.pages_modMe (s : State) (f : Agent → Agent) : (s.modMe f).pages = s.pages := rfl
@[simp] theorem State.nextFrame_modMe (s : State) (f : Agent → Agent) : (s.modMe f).nextFrame = s.nextFrame := rfl
@[simp] theorem State.freed_modMe (s : State) (f : Agent → Agent) : (s.modMe f).freed = s.freed := rfl
@[simp] theorem State.collapse_modMe (s : State) (f : Agent → Agent) : (s.modMe f).collapse = s.collapse := rfl
@[simp] theorem State.replicas_modMe (s : State) (f : Agent → Agent) : (s.modMe f).replicas = s.replicas := rfl
@[simp] theorem State.migrating_modMe (s : State) (f : Agent → Agent) : (s.modMe f).migrating = s.migrating := rfl
@[simp] theorem State.plans_modMe (s : State) (f : Agent → Agent) : (s.modMe f).plans = s.plans := rfl
@[simp] theorem State.planNo_modMe (s : State) (f : Agent → Agent) : (s.modMe f).planNo = s.planNo := rfl
@[simp] theorem State.sweeps_modMe (s : State) (f : Agent → Agent) : (s.modMe f).sweeps = s.sweeps := rfl
@[simp] theorem State.hrt_modMe (s : State) (f : Agent → Agent) : (s.modMe f).hrt = s.hrt := rfl
@[simp] theorem State.msgs_modMe (s : State) (f : Agent → Agent) : (s.modMe f).msgs = s.msgs := rfl
@[simp] theorem State.hoopWait_modMe (s : State) (f : Agent → Agent) : (s.modMe f).hoopWait = s.hoopWait := rfl
@[simp] theorem State.lostDevs_modMe (s : State) (f : Agent → Agent) : (s.modMe f).lostDevs = s.lostDevs := rfl
@[simp] theorem State.podCtx_modMe (s : State) (f : Agent → Agent) : (s.modMe f).podCtx = s.podCtx := rfl
@[simp] theorem State.podQ_modMe (s : State) (f : Agent → Agent) : (s.modMe f).podQ = s.podQ := rfl
@[simp] theorem State.forwards_modMe (s : State) (f : Agent → Agent) : (s.modMe f).forwards = s.forwards := rfl
@[simp] theorem State.devNum_modMe (s : State) (f : Agent → Agent) : (s.modMe f).devNum = s.devNum := rfl
@[simp] theorem State.numSet_modMe (s : State) (f : Agent → Agent) : (s.modMe f).numSet = s.numSet := rfl
@[simp] theorem State.powerLimit_modMe (s : State) (f : Agent → Agent) : (s.modMe f).powerLimit = s.powerLimit := rfl
@[simp] theorem State.mwErr_modMe (s : State) (f : Agent → Agent) : (s.modMe f).mwErr = s.mwErr := rfl
@[simp] theorem State.regs_modMe (s : State) (f : Agent → Agent) : (s.modMe f).regs = s.regs := rfl
@[simp] theorem State.mgmt_modMe (s : State) (f : Agent → Agent) : (s.modMe f).mgmt = s.mgmt := rfl
@[simp] theorem State.swaps_modMe (s : State) (f : Agent → Agent) : (s.modMe f).swaps = s.swaps := rfl
@[simp] theorem State.swapDone_modMe (s : State) (f : Agent → Agent) : (s.modMe f).swapDone = s.swapDone := rfl
@[simp] theorem State.routes_modMe (s : State) (f : Agent → Agent) : (s.modMe f).routes = s.routes := rfl
@[simp] theorem State.shadowRoutes_modMe (s : State) (f : Agent → Agent) : (s.modMe f).shadowRoutes = s.shadowRoutes := rfl
@[simp] theorem State.fw_modMe (s : State) (f : Agent → Agent) : (s.modMe f).fw = s.fw := rfl
@[simp] theorem State.report_modMe (s : State) (f : Agent → Agent) : (s.modMe f).report = s.report := rfl
@[simp] theorem State.link_modMe (s : State) (f : Agent → Agent) : (s.modMe f).link = s.link := rfl
@[simp] theorem State.msix_modMe (s : State) (f : Agent → Agent) : (s.modMe f).msix = s.msix := rfl
@[simp] theorem State.stretch_modMe (s : State) (f : Agent → Agent) : (s.modMe f).stretch = s.stretch := rfl
@[simp] theorem State.ptp_modMe (s : State) (f : Agent → Agent) : (s.modMe f).ptp = s.ptp := rfl
@[simp] theorem State.devEnergy_modMe (s : State) (f : Agent → Agent) : (s.modMe f).devEnergy = s.devEnergy := rfl
@[simp] theorem State.winEnergy_modMe (s : State) (f : Agent → Agent) : (s.modMe f).winEnergy = s.winEnergy := rfl
@[simp] theorem State.nextEvent_modMe (s : State) (f : Agent → Agent) : (s.modMe f).nextEvent = s.nextEvent := rfl
@[simp] theorem State.found_modMe (s : State) (f : Agent → Agent) : (s.modMe f).found = s.found := rfl
@[simp] theorem State.snap_modMe (s : State) (f : Agent → Agent) : (s.modMe f).snap = s.snap := rfl

-- setPart
@[simp] theorem State.agenda_setPart (s : State) (p : Part) : (s.setPart p).agenda = s.agenda := rfl
@[simp] theorem State.pending_setPart (s : State) (p : Part) : (s.setPart p).pending = s.pending := rfl
@[simp] theorem State.turnEv_setPart (s : State) (p : Part) : (s.setPart p).turnEv = s.turnEv := rfl
@[simp] theorem State.cur_setPart (s : State) (p : Part) : (s.setPart p).cur = s.cur := rfl
@[simp] theorem State.nextId_setPart (s : State) (p : Part) : (s.setPart p).nextId = s.nextId := rfl
@[simp] theorem State.tick_setPart (s : State) (p : Part) : (s.setPart p).tick = s.tick := rfl
@[simp] theorem State.now_setPart (s : State) (p : Part) : (s.setPart p).now = s.now := rfl
@[simp] theorem State.cycle_setPart (s : State) (p : Part) : (s.setPart p).cycle = s.cycle := rfl
@[simp] theorem State.clusters_setPart (s : State) (p : Part) : (s.setPart p).clusters = s.clusters := rfl
@[simp] theorem State.dies_setPart (s : State) (p : Part) : (s.setPart p).dies = s.dies := rfl
@[simp] theorem State.ctxs_setPart (s : State) (p : Part) : (s.setPart p).ctxs = s.ctxs := rfl
@[simp] theorem State.mem_setPart (s : State) (p : Part) : (s.setPart p).mem = s.mem := rfl
@[simp] theorem State.dram_setPart (s : State) (p : Part) : (s.setPart p).dram = s.dram := rfl
@[simp] theorem State.repMem_setPart (s : State) (p : Part) : (s.setPart p).repMem = s.repMem := rfl
@[simp] theorem State.bad_setPart (s : State) (p : Part) : (s.setPart p).bad = s.bad := rfl
@[simp] theorem State.dramBad_setPart (s : State) (p : Part) : (s.setPart p).dramBad = s.dramBad := rfl
@[simp] theorem State.heldWb_setPart (s : State) (p : Part) : (s.setPart p).heldWb = s.heldWb := rfl
@[simp] theorem State.heldSys_setPart (s : State) (p : Part) : (s.setPart p).heldSys = s.heldSys := rfl
@[simp] theorem State.pages_setPart (s : State) (p : Part) : (s.setPart p).pages = s.pages := rfl
@[simp] theorem State.nextFrame_setPart (s : State) (p : Part) : (s.setPart p).nextFrame = s.nextFrame := rfl
@[simp] theorem State.freed_setPart (s : State) (p : Part) : (s.setPart p).freed = s.freed := rfl
@[simp] theorem State.collapse_setPart (s : State) (p : Part) : (s.setPart p).collapse = s.collapse := rfl
@[simp] theorem State.replicas_setPart (s : State) (p : Part) : (s.setPart p).replicas = s.replicas := rfl
@[simp] theorem State.migrating_setPart (s : State) (p : Part) : (s.setPart p).migrating = s.migrating := rfl
@[simp] theorem State.plans_setPart (s : State) (p : Part) : (s.setPart p).plans = s.plans := rfl
@[simp] theorem State.planNo_setPart (s : State) (p : Part) : (s.setPart p).planNo = s.planNo := rfl
@[simp] theorem State.sweeps_setPart (s : State) (p : Part) : (s.setPart p).sweeps = s.sweeps := rfl
@[simp] theorem State.hrt_setPart (s : State) (p : Part) : (s.setPart p).hrt = s.hrt := rfl
@[simp] theorem State.msgs_setPart (s : State) (p : Part) : (s.setPart p).msgs = s.msgs := rfl
@[simp] theorem State.hoopWait_setPart (s : State) (p : Part) : (s.setPart p).hoopWait = s.hoopWait := rfl
@[simp] theorem State.lostDevs_setPart (s : State) (p : Part) : (s.setPart p).lostDevs = s.lostDevs := rfl
@[simp] theorem State.podCtx_setPart (s : State) (p : Part) : (s.setPart p).podCtx = s.podCtx := rfl
@[simp] theorem State.podQ_setPart (s : State) (p : Part) : (s.setPart p).podQ = s.podQ := rfl
@[simp] theorem State.forwards_setPart (s : State) (p : Part) : (s.setPart p).forwards = s.forwards := rfl
@[simp] theorem State.devNum_setPart (s : State) (p : Part) : (s.setPart p).devNum = s.devNum := rfl
@[simp] theorem State.numSet_setPart (s : State) (p : Part) : (s.setPart p).numSet = s.numSet := rfl
@[simp] theorem State.powerLimit_setPart (s : State) (p : Part) : (s.setPart p).powerLimit = s.powerLimit := rfl
@[simp] theorem State.mwErr_setPart (s : State) (p : Part) : (s.setPart p).mwErr = s.mwErr := rfl
@[simp] theorem State.regs_setPart (s : State) (p : Part) : (s.setPart p).regs = s.regs := rfl
@[simp] theorem State.mgmt_setPart (s : State) (p : Part) : (s.setPart p).mgmt = s.mgmt := rfl
@[simp] theorem State.swaps_setPart (s : State) (p : Part) : (s.setPart p).swaps = s.swaps := rfl
@[simp] theorem State.swapDone_setPart (s : State) (p : Part) : (s.setPart p).swapDone = s.swapDone := rfl
@[simp] theorem State.routes_setPart (s : State) (p : Part) : (s.setPart p).routes = s.routes := rfl
@[simp] theorem State.shadowRoutes_setPart (s : State) (p : Part) : (s.setPart p).shadowRoutes = s.shadowRoutes := rfl
@[simp] theorem State.fw_setPart (s : State) (p : Part) : (s.setPart p).fw = s.fw := rfl
@[simp] theorem State.report_setPart (s : State) (p : Part) : (s.setPart p).report = s.report := rfl
@[simp] theorem State.link_setPart (s : State) (p : Part) : (s.setPart p).link = s.link := rfl
@[simp] theorem State.msix_setPart (s : State) (p : Part) : (s.setPart p).msix = s.msix := rfl
@[simp] theorem State.stretch_setPart (s : State) (p : Part) : (s.setPart p).stretch = s.stretch := rfl
@[simp] theorem State.ptp_setPart (s : State) (p : Part) : (s.setPart p).ptp = s.ptp := rfl
@[simp] theorem State.devEnergy_setPart (s : State) (p : Part) : (s.setPart p).devEnergy = s.devEnergy := rfl
@[simp] theorem State.winEnergy_setPart (s : State) (p : Part) : (s.setPart p).winEnergy = s.winEnergy := rfl
@[simp] theorem State.nextEvent_setPart (s : State) (p : Part) : (s.setPart p).nextEvent = s.nextEvent := rfl
@[simp] theorem State.found_setPart (s : State) (p : Part) : (s.setPart p).found = s.found := rfl
@[simp] theorem State.snap_setPart (s : State) (p : Part) : (s.setPart p).snap = s.snap := rfl

-- modPart
@[simp] theorem State.agenda_modPart (s : State) (f : Part → Part) : (s.modPart f).agenda = s.agenda := rfl
@[simp] theorem State.pending_modPart (s : State) (f : Part → Part) : (s.modPart f).pending = s.pending := rfl
@[simp] theorem State.turnEv_modPart (s : State) (f : Part → Part) : (s.modPart f).turnEv = s.turnEv := rfl
@[simp] theorem State.cur_modPart (s : State) (f : Part → Part) : (s.modPart f).cur = s.cur := rfl
@[simp] theorem State.nextId_modPart (s : State) (f : Part → Part) : (s.modPart f).nextId = s.nextId := rfl
@[simp] theorem State.tick_modPart (s : State) (f : Part → Part) : (s.modPart f).tick = s.tick := rfl
@[simp] theorem State.now_modPart (s : State) (f : Part → Part) : (s.modPart f).now = s.now := rfl
@[simp] theorem State.cycle_modPart (s : State) (f : Part → Part) : (s.modPart f).cycle = s.cycle := rfl
@[simp] theorem State.clusters_modPart (s : State) (f : Part → Part) : (s.modPart f).clusters = s.clusters := rfl
@[simp] theorem State.dies_modPart (s : State) (f : Part → Part) : (s.modPart f).dies = s.dies := rfl
@[simp] theorem State.ctxs_modPart (s : State) (f : Part → Part) : (s.modPart f).ctxs = s.ctxs := rfl
@[simp] theorem State.mem_modPart (s : State) (f : Part → Part) : (s.modPart f).mem = s.mem := rfl
@[simp] theorem State.dram_modPart (s : State) (f : Part → Part) : (s.modPart f).dram = s.dram := rfl
@[simp] theorem State.repMem_modPart (s : State) (f : Part → Part) : (s.modPart f).repMem = s.repMem := rfl
@[simp] theorem State.bad_modPart (s : State) (f : Part → Part) : (s.modPart f).bad = s.bad := rfl
@[simp] theorem State.dramBad_modPart (s : State) (f : Part → Part) : (s.modPart f).dramBad = s.dramBad := rfl
@[simp] theorem State.heldWb_modPart (s : State) (f : Part → Part) : (s.modPart f).heldWb = s.heldWb := rfl
@[simp] theorem State.heldSys_modPart (s : State) (f : Part → Part) : (s.modPart f).heldSys = s.heldSys := rfl
@[simp] theorem State.pages_modPart (s : State) (f : Part → Part) : (s.modPart f).pages = s.pages := rfl
@[simp] theorem State.nextFrame_modPart (s : State) (f : Part → Part) : (s.modPart f).nextFrame = s.nextFrame := rfl
@[simp] theorem State.freed_modPart (s : State) (f : Part → Part) : (s.modPart f).freed = s.freed := rfl
@[simp] theorem State.collapse_modPart (s : State) (f : Part → Part) : (s.modPart f).collapse = s.collapse := rfl
@[simp] theorem State.replicas_modPart (s : State) (f : Part → Part) : (s.modPart f).replicas = s.replicas := rfl
@[simp] theorem State.migrating_modPart (s : State) (f : Part → Part) : (s.modPart f).migrating = s.migrating := rfl
@[simp] theorem State.plans_modPart (s : State) (f : Part → Part) : (s.modPart f).plans = s.plans := rfl
@[simp] theorem State.planNo_modPart (s : State) (f : Part → Part) : (s.modPart f).planNo = s.planNo := rfl
@[simp] theorem State.sweeps_modPart (s : State) (f : Part → Part) : (s.modPart f).sweeps = s.sweeps := rfl
@[simp] theorem State.hrt_modPart (s : State) (f : Part → Part) : (s.modPart f).hrt = s.hrt := rfl
@[simp] theorem State.msgs_modPart (s : State) (f : Part → Part) : (s.modPart f).msgs = s.msgs := rfl
@[simp] theorem State.hoopWait_modPart (s : State) (f : Part → Part) : (s.modPart f).hoopWait = s.hoopWait := rfl
@[simp] theorem State.lostDevs_modPart (s : State) (f : Part → Part) : (s.modPart f).lostDevs = s.lostDevs := rfl
@[simp] theorem State.podCtx_modPart (s : State) (f : Part → Part) : (s.modPart f).podCtx = s.podCtx := rfl
@[simp] theorem State.podQ_modPart (s : State) (f : Part → Part) : (s.modPart f).podQ = s.podQ := rfl
@[simp] theorem State.forwards_modPart (s : State) (f : Part → Part) : (s.modPart f).forwards = s.forwards := rfl
@[simp] theorem State.devNum_modPart (s : State) (f : Part → Part) : (s.modPart f).devNum = s.devNum := rfl
@[simp] theorem State.numSet_modPart (s : State) (f : Part → Part) : (s.modPart f).numSet = s.numSet := rfl
@[simp] theorem State.powerLimit_modPart (s : State) (f : Part → Part) : (s.modPart f).powerLimit = s.powerLimit := rfl
@[simp] theorem State.mwErr_modPart (s : State) (f : Part → Part) : (s.modPart f).mwErr = s.mwErr := rfl
@[simp] theorem State.regs_modPart (s : State) (f : Part → Part) : (s.modPart f).regs = s.regs := rfl
@[simp] theorem State.mgmt_modPart (s : State) (f : Part → Part) : (s.modPart f).mgmt = s.mgmt := rfl
@[simp] theorem State.swaps_modPart (s : State) (f : Part → Part) : (s.modPart f).swaps = s.swaps := rfl
@[simp] theorem State.swapDone_modPart (s : State) (f : Part → Part) : (s.modPart f).swapDone = s.swapDone := rfl
@[simp] theorem State.routes_modPart (s : State) (f : Part → Part) : (s.modPart f).routes = s.routes := rfl
@[simp] theorem State.shadowRoutes_modPart (s : State) (f : Part → Part) : (s.modPart f).shadowRoutes = s.shadowRoutes := rfl
@[simp] theorem State.fw_modPart (s : State) (f : Part → Part) : (s.modPart f).fw = s.fw := rfl
@[simp] theorem State.report_modPart (s : State) (f : Part → Part) : (s.modPart f).report = s.report := rfl
@[simp] theorem State.link_modPart (s : State) (f : Part → Part) : (s.modPart f).link = s.link := rfl
@[simp] theorem State.msix_modPart (s : State) (f : Part → Part) : (s.modPart f).msix = s.msix := rfl
@[simp] theorem State.stretch_modPart (s : State) (f : Part → Part) : (s.modPart f).stretch = s.stretch := rfl
@[simp] theorem State.ptp_modPart (s : State) (f : Part → Part) : (s.modPart f).ptp = s.ptp := rfl
@[simp] theorem State.devEnergy_modPart (s : State) (f : Part → Part) : (s.modPart f).devEnergy = s.devEnergy := rfl
@[simp] theorem State.winEnergy_modPart (s : State) (f : Part → Part) : (s.modPart f).winEnergy = s.winEnergy := rfl
@[simp] theorem State.nextEvent_modPart (s : State) (f : Part → Part) : (s.modPart f).nextEvent = s.nextEvent := rfl
@[simp] theorem State.found_modPart (s : State) (f : Part → Part) : (s.modPart f).found = s.found := rfl
@[simp] theorem State.snap_modPart (s : State) (f : Part → Part) : (s.modPart f).snap = s.snap := rfl

-- advance
@[simp] theorem State.agenda_advance (s : State) : (s.advance).agenda = s.agenda := rfl
@[simp] theorem State.pending_advance (s : State) : (s.advance).pending = s.pending := rfl
@[simp] theorem State.turnEv_advance (s : State) : (s.advance).turnEv = s.turnEv := rfl
@[simp] theorem State.cur_advance (s : State) : (s.advance).cur = s.cur := rfl
@[simp] theorem State.nextId_advance (s : State) : (s.advance).nextId = s.nextId := rfl
@[simp] theorem State.tick_advance (s : State) : (s.advance).tick = s.tick := rfl
@[simp] theorem State.now_advance (s : State) : (s.advance).now = s.now := rfl
@[simp] theorem State.cycle_advance (s : State) : (s.advance).cycle = s.cycle := rfl
@[simp] theorem State.clusters_advance (s : State) : (s.advance).clusters = s.clusters := rfl
@[simp] theorem State.dies_advance (s : State) : (s.advance).dies = s.dies := rfl
@[simp] theorem State.ctxs_advance (s : State) : (s.advance).ctxs = s.ctxs := rfl
@[simp] theorem State.mem_advance (s : State) : (s.advance).mem = s.mem := rfl
@[simp] theorem State.dram_advance (s : State) : (s.advance).dram = s.dram := rfl
@[simp] theorem State.repMem_advance (s : State) : (s.advance).repMem = s.repMem := rfl
@[simp] theorem State.bad_advance (s : State) : (s.advance).bad = s.bad := rfl
@[simp] theorem State.dramBad_advance (s : State) : (s.advance).dramBad = s.dramBad := rfl
@[simp] theorem State.heldWb_advance (s : State) : (s.advance).heldWb = s.heldWb := rfl
@[simp] theorem State.heldSys_advance (s : State) : (s.advance).heldSys = s.heldSys := rfl
@[simp] theorem State.pages_advance (s : State) : (s.advance).pages = s.pages := rfl
@[simp] theorem State.nextFrame_advance (s : State) : (s.advance).nextFrame = s.nextFrame := rfl
@[simp] theorem State.freed_advance (s : State) : (s.advance).freed = s.freed := rfl
@[simp] theorem State.collapse_advance (s : State) : (s.advance).collapse = s.collapse := rfl
@[simp] theorem State.replicas_advance (s : State) : (s.advance).replicas = s.replicas := rfl
@[simp] theorem State.migrating_advance (s : State) : (s.advance).migrating = s.migrating := rfl
@[simp] theorem State.plans_advance (s : State) : (s.advance).plans = s.plans := rfl
@[simp] theorem State.planNo_advance (s : State) : (s.advance).planNo = s.planNo := rfl
@[simp] theorem State.sweeps_advance (s : State) : (s.advance).sweeps = s.sweeps := rfl
@[simp] theorem State.hrt_advance (s : State) : (s.advance).hrt = s.hrt := rfl
@[simp] theorem State.msgs_advance (s : State) : (s.advance).msgs = s.msgs := rfl
@[simp] theorem State.hoopWait_advance (s : State) : (s.advance).hoopWait = s.hoopWait := rfl
@[simp] theorem State.lostDevs_advance (s : State) : (s.advance).lostDevs = s.lostDevs := rfl
@[simp] theorem State.podCtx_advance (s : State) : (s.advance).podCtx = s.podCtx := rfl
@[simp] theorem State.podQ_advance (s : State) : (s.advance).podQ = s.podQ := rfl
@[simp] theorem State.forwards_advance (s : State) : (s.advance).forwards = s.forwards := rfl
@[simp] theorem State.devNum_advance (s : State) : (s.advance).devNum = s.devNum := rfl
@[simp] theorem State.numSet_advance (s : State) : (s.advance).numSet = s.numSet := rfl
@[simp] theorem State.powerLimit_advance (s : State) : (s.advance).powerLimit = s.powerLimit := rfl
@[simp] theorem State.mwErr_advance (s : State) : (s.advance).mwErr = s.mwErr := rfl
@[simp] theorem State.regs_advance (s : State) : (s.advance).regs = s.regs := rfl
@[simp] theorem State.mgmt_advance (s : State) : (s.advance).mgmt = s.mgmt := rfl
@[simp] theorem State.swaps_advance (s : State) : (s.advance).swaps = s.swaps := rfl
@[simp] theorem State.swapDone_advance (s : State) : (s.advance).swapDone = s.swapDone := rfl
@[simp] theorem State.routes_advance (s : State) : (s.advance).routes = s.routes := rfl
@[simp] theorem State.shadowRoutes_advance (s : State) : (s.advance).shadowRoutes = s.shadowRoutes := rfl
@[simp] theorem State.fw_advance (s : State) : (s.advance).fw = s.fw := rfl
@[simp] theorem State.report_advance (s : State) : (s.advance).report = s.report := rfl
@[simp] theorem State.link_advance (s : State) : (s.advance).link = s.link := rfl
@[simp] theorem State.msix_advance (s : State) : (s.advance).msix = s.msix := rfl
@[simp] theorem State.stretch_advance (s : State) : (s.advance).stretch = s.stretch := rfl
@[simp] theorem State.ptp_advance (s : State) : (s.advance).ptp = s.ptp := rfl
@[simp] theorem State.devEnergy_advance (s : State) : (s.advance).devEnergy = s.devEnergy := rfl
@[simp] theorem State.winEnergy_advance (s : State) : (s.advance).winEnergy = s.winEnergy := rfl
@[simp] theorem State.nextEvent_advance (s : State) : (s.advance).nextEvent = s.nextEvent := rfl
@[simp] theorem State.found_advance (s : State) : (s.advance).found = s.found := rfl
@[simp] theorem State.snap_advance (s : State) : (s.advance).snap = s.snap := rfl

-- jump
@[simp] theorem State.agenda_jump (s : State) (t : W64) : (s.jump t).agenda = s.agenda := rfl
@[simp] theorem State.pending_jump (s : State) (t : W64) : (s.jump t).pending = s.pending := rfl
@[simp] theorem State.turnEv_jump (s : State) (t : W64) : (s.jump t).turnEv = s.turnEv := rfl
@[simp] theorem State.cur_jump (s : State) (t : W64) : (s.jump t).cur = s.cur := rfl
@[simp] theorem State.nextId_jump (s : State) (t : W64) : (s.jump t).nextId = s.nextId := rfl
@[simp] theorem State.tick_jump (s : State) (t : W64) : (s.jump t).tick = s.tick := rfl
@[simp] theorem State.now_jump (s : State) (t : W64) : (s.jump t).now = s.now := rfl
@[simp] theorem State.cycle_jump (s : State) (t : W64) : (s.jump t).cycle = s.cycle := rfl
@[simp] theorem State.clusters_jump (s : State) (t : W64) : (s.jump t).clusters = s.clusters := rfl
@[simp] theorem State.dies_jump (s : State) (t : W64) : (s.jump t).dies = s.dies := rfl
@[simp] theorem State.ctxs_jump (s : State) (t : W64) : (s.jump t).ctxs = s.ctxs := rfl
@[simp] theorem State.mem_jump (s : State) (t : W64) : (s.jump t).mem = s.mem := rfl
@[simp] theorem State.dram_jump (s : State) (t : W64) : (s.jump t).dram = s.dram := rfl
@[simp] theorem State.repMem_jump (s : State) (t : W64) : (s.jump t).repMem = s.repMem := rfl
@[simp] theorem State.bad_jump (s : State) (t : W64) : (s.jump t).bad = s.bad := rfl
@[simp] theorem State.dramBad_jump (s : State) (t : W64) : (s.jump t).dramBad = s.dramBad := rfl
@[simp] theorem State.heldWb_jump (s : State) (t : W64) : (s.jump t).heldWb = s.heldWb := rfl
@[simp] theorem State.heldSys_jump (s : State) (t : W64) : (s.jump t).heldSys = s.heldSys := rfl
@[simp] theorem State.pages_jump (s : State) (t : W64) : (s.jump t).pages = s.pages := rfl
@[simp] theorem State.nextFrame_jump (s : State) (t : W64) : (s.jump t).nextFrame = s.nextFrame := rfl
@[simp] theorem State.freed_jump (s : State) (t : W64) : (s.jump t).freed = s.freed := rfl
@[simp] theorem State.collapse_jump (s : State) (t : W64) : (s.jump t).collapse = s.collapse := rfl
@[simp] theorem State.replicas_jump (s : State) (t : W64) : (s.jump t).replicas = s.replicas := rfl
@[simp] theorem State.migrating_jump (s : State) (t : W64) : (s.jump t).migrating = s.migrating := rfl
@[simp] theorem State.plans_jump (s : State) (t : W64) : (s.jump t).plans = s.plans := rfl
@[simp] theorem State.planNo_jump (s : State) (t : W64) : (s.jump t).planNo = s.planNo := rfl
@[simp] theorem State.sweeps_jump (s : State) (t : W64) : (s.jump t).sweeps = s.sweeps := rfl
@[simp] theorem State.hrt_jump (s : State) (t : W64) : (s.jump t).hrt = s.hrt := rfl
@[simp] theorem State.msgs_jump (s : State) (t : W64) : (s.jump t).msgs = s.msgs := rfl
@[simp] theorem State.hoopWait_jump (s : State) (t : W64) : (s.jump t).hoopWait = s.hoopWait := rfl
@[simp] theorem State.lostDevs_jump (s : State) (t : W64) : (s.jump t).lostDevs = s.lostDevs := rfl
@[simp] theorem State.podCtx_jump (s : State) (t : W64) : (s.jump t).podCtx = s.podCtx := rfl
@[simp] theorem State.podQ_jump (s : State) (t : W64) : (s.jump t).podQ = s.podQ := rfl
@[simp] theorem State.forwards_jump (s : State) (t : W64) : (s.jump t).forwards = s.forwards := rfl
@[simp] theorem State.devNum_jump (s : State) (t : W64) : (s.jump t).devNum = s.devNum := rfl
@[simp] theorem State.numSet_jump (s : State) (t : W64) : (s.jump t).numSet = s.numSet := rfl
@[simp] theorem State.powerLimit_jump (s : State) (t : W64) : (s.jump t).powerLimit = s.powerLimit := rfl
@[simp] theorem State.mwErr_jump (s : State) (t : W64) : (s.jump t).mwErr = s.mwErr := rfl
@[simp] theorem State.regs_jump (s : State) (t : W64) : (s.jump t).regs = s.regs := rfl
@[simp] theorem State.mgmt_jump (s : State) (t : W64) : (s.jump t).mgmt = s.mgmt := rfl
@[simp] theorem State.swaps_jump (s : State) (t : W64) : (s.jump t).swaps = s.swaps := rfl
@[simp] theorem State.swapDone_jump (s : State) (t : W64) : (s.jump t).swapDone = s.swapDone := rfl
@[simp] theorem State.routes_jump (s : State) (t : W64) : (s.jump t).routes = s.routes := rfl
@[simp] theorem State.shadowRoutes_jump (s : State) (t : W64) : (s.jump t).shadowRoutes = s.shadowRoutes := rfl
@[simp] theorem State.fw_jump (s : State) (t : W64) : (s.jump t).fw = s.fw := rfl
@[simp] theorem State.report_jump (s : State) (t : W64) : (s.jump t).report = s.report := rfl
@[simp] theorem State.link_jump (s : State) (t : W64) : (s.jump t).link = s.link := rfl
@[simp] theorem State.msix_jump (s : State) (t : W64) : (s.jump t).msix = s.msix := rfl
@[simp] theorem State.stretch_jump (s : State) (t : W64) : (s.jump t).stretch = s.stretch := rfl
@[simp] theorem State.ptp_jump (s : State) (t : W64) : (s.jump t).ptp = s.ptp := rfl
@[simp] theorem State.devEnergy_jump (s : State) (t : W64) : (s.jump t).devEnergy = s.devEnergy := rfl
@[simp] theorem State.winEnergy_jump (s : State) (t : W64) : (s.jump t).winEnergy = s.winEnergy := rfl
@[simp] theorem State.nextEvent_jump (s : State) (t : W64) : (s.jump t).nextEvent = s.nextEvent := rfl
@[simp] theorem State.found_jump (s : State) (t : W64) : (s.jump t).found = s.found := rfl
@[simp] theorem State.snap_jump (s : State) (t : W64) : (s.jump t).snap = s.snap := rfl

-- park
@[simp] theorem State.agenda_park (s : State) (w : Wait) : (s.park w).agenda = s.agenda := rfl
@[simp] theorem State.pending_park (s : State) (w : Wait) : (s.park w).pending = s.pending := rfl
@[simp] theorem State.turnEv_park (s : State) (w : Wait) : (s.park w).turnEv = s.turnEv := rfl
@[simp] theorem State.cur_park (s : State) (w : Wait) : (s.park w).cur = s.cur := rfl
@[simp] theorem State.nextId_park (s : State) (w : Wait) : (s.park w).nextId = s.nextId := rfl
@[simp] theorem State.tick_park (s : State) (w : Wait) : (s.park w).tick = s.tick := rfl
@[simp] theorem State.now_park (s : State) (w : Wait) : (s.park w).now = s.now := rfl
@[simp] theorem State.cycle_park (s : State) (w : Wait) : (s.park w).cycle = s.cycle := rfl
@[simp] theorem State.clusters_park (s : State) (w : Wait) : (s.park w).clusters = s.clusters := rfl
@[simp] theorem State.dies_park (s : State) (w : Wait) : (s.park w).dies = s.dies := rfl
@[simp] theorem State.ctxs_park (s : State) (w : Wait) : (s.park w).ctxs = s.ctxs := rfl
@[simp] theorem State.mem_park (s : State) (w : Wait) : (s.park w).mem = s.mem := rfl
@[simp] theorem State.dram_park (s : State) (w : Wait) : (s.park w).dram = s.dram := rfl
@[simp] theorem State.repMem_park (s : State) (w : Wait) : (s.park w).repMem = s.repMem := rfl
@[simp] theorem State.bad_park (s : State) (w : Wait) : (s.park w).bad = s.bad := rfl
@[simp] theorem State.dramBad_park (s : State) (w : Wait) : (s.park w).dramBad = s.dramBad := rfl
@[simp] theorem State.heldWb_park (s : State) (w : Wait) : (s.park w).heldWb = s.heldWb := rfl
@[simp] theorem State.heldSys_park (s : State) (w : Wait) : (s.park w).heldSys = s.heldSys := rfl
@[simp] theorem State.pages_park (s : State) (w : Wait) : (s.park w).pages = s.pages := rfl
@[simp] theorem State.nextFrame_park (s : State) (w : Wait) : (s.park w).nextFrame = s.nextFrame := rfl
@[simp] theorem State.freed_park (s : State) (w : Wait) : (s.park w).freed = s.freed := rfl
@[simp] theorem State.collapse_park (s : State) (w : Wait) : (s.park w).collapse = s.collapse := rfl
@[simp] theorem State.replicas_park (s : State) (w : Wait) : (s.park w).replicas = s.replicas := rfl
@[simp] theorem State.migrating_park (s : State) (w : Wait) : (s.park w).migrating = s.migrating := rfl
@[simp] theorem State.plans_park (s : State) (w : Wait) : (s.park w).plans = s.plans := rfl
@[simp] theorem State.planNo_park (s : State) (w : Wait) : (s.park w).planNo = s.planNo := rfl
@[simp] theorem State.sweeps_park (s : State) (w : Wait) : (s.park w).sweeps = s.sweeps := rfl
@[simp] theorem State.hrt_park (s : State) (w : Wait) : (s.park w).hrt = s.hrt := rfl
@[simp] theorem State.msgs_park (s : State) (w : Wait) : (s.park w).msgs = s.msgs := rfl
@[simp] theorem State.hoopWait_park (s : State) (w : Wait) : (s.park w).hoopWait = s.hoopWait := rfl
@[simp] theorem State.lostDevs_park (s : State) (w : Wait) : (s.park w).lostDevs = s.lostDevs := rfl
@[simp] theorem State.podCtx_park (s : State) (w : Wait) : (s.park w).podCtx = s.podCtx := rfl
@[simp] theorem State.podQ_park (s : State) (w : Wait) : (s.park w).podQ = s.podQ := rfl
@[simp] theorem State.forwards_park (s : State) (w : Wait) : (s.park w).forwards = s.forwards := rfl
@[simp] theorem State.devNum_park (s : State) (w : Wait) : (s.park w).devNum = s.devNum := rfl
@[simp] theorem State.numSet_park (s : State) (w : Wait) : (s.park w).numSet = s.numSet := rfl
@[simp] theorem State.powerLimit_park (s : State) (w : Wait) : (s.park w).powerLimit = s.powerLimit := rfl
@[simp] theorem State.mwErr_park (s : State) (w : Wait) : (s.park w).mwErr = s.mwErr := rfl
@[simp] theorem State.regs_park (s : State) (w : Wait) : (s.park w).regs = s.regs := rfl
@[simp] theorem State.mgmt_park (s : State) (w : Wait) : (s.park w).mgmt = s.mgmt := rfl
@[simp] theorem State.swaps_park (s : State) (w : Wait) : (s.park w).swaps = s.swaps := rfl
@[simp] theorem State.swapDone_park (s : State) (w : Wait) : (s.park w).swapDone = s.swapDone := rfl
@[simp] theorem State.routes_park (s : State) (w : Wait) : (s.park w).routes = s.routes := rfl
@[simp] theorem State.shadowRoutes_park (s : State) (w : Wait) : (s.park w).shadowRoutes = s.shadowRoutes := rfl
@[simp] theorem State.fw_park (s : State) (w : Wait) : (s.park w).fw = s.fw := rfl
@[simp] theorem State.report_park (s : State) (w : Wait) : (s.park w).report = s.report := rfl
@[simp] theorem State.link_park (s : State) (w : Wait) : (s.park w).link = s.link := rfl
@[simp] theorem State.msix_park (s : State) (w : Wait) : (s.park w).msix = s.msix := rfl
@[simp] theorem State.stretch_park (s : State) (w : Wait) : (s.park w).stretch = s.stretch := rfl
@[simp] theorem State.ptp_park (s : State) (w : Wait) : (s.park w).ptp = s.ptp := rfl
@[simp] theorem State.devEnergy_park (s : State) (w : Wait) : (s.park w).devEnergy = s.devEnergy := rfl
@[simp] theorem State.winEnergy_park (s : State) (w : Wait) : (s.park w).winEnergy = s.winEnergy := rfl
@[simp] theorem State.nextEvent_park (s : State) (w : Wait) : (s.park w).nextEvent = s.nextEvent := rfl
@[simp] theorem State.found_park (s : State) (w : Wait) : (s.park w).found = s.found := rfl
@[simp] theorem State.snap_park (s : State) (w : Wait) : (s.park w).snap = s.snap := rfl

end Sys2Proof.Machine
end

