-- ==== Sys2Proof/Laws/Agents.lean ====
section
/-! SUPPORT. What the updates of cores, agents, parts and registers do to what is read back: one lemma for each reader
and update. -/

namespace Sys2Proof.Machine

-- Tables of the state ----------------------------------------------------------------------------------------------

@[simp] theorem State.core_setCore (s : State) (c d : Nat) (x : Core) : (s.setCore c x).core d = if d = c then x else s.core d := by
  simp [State.core, State.setCore]
@[simp] theorem State.core_modCore (s : State) (c d : Nat) (f : Core → Core) :
    (s.modCore c f).core d = if d = c then f (s.core c) else s.core d := by simp [State.modCore]
@[simp] theorem State.cluster_setCluster (s : State) (c d : Nat) (x : Cluster) :
    (s.setCluster c x).cluster d = if d = c then x else s.cluster d := by simp [State.cluster, State.setCluster]
@[simp] theorem State.die_setDie (s : State) (c d : Nat) (x : Die) : (s.setDie c x).die d = if d = c then x else s.die d := by
  simp [State.die, State.setDie]
@[simp] theorem State.ctx_setCtx (s : State) (c d : Nat) (x : Ctx) : (s.setCtx c x).ctx d = if d = c then x else s.ctx d := by
  simp [State.ctx, State.setCtx]

/-- The readers look at one table only. -/
theorem State.core_congr {s t : State} (h : s.cores = t.cores) (c : Nat) : s.core c = t.core c := by simp [State.core, h]
theorem State.cluster_congr {s t : State} (h : s.clusters = t.clusters) (c : Nat) : s.cluster c = t.cluster c := by
  simp [State.cluster, h]
theorem State.die_congr {s t : State} (h : s.dies = t.dies) (c : Nat) : s.die c = t.die c := by simp [State.die, h]
theorem State.ctx_congr {s t : State} (h : s.ctxs = t.ctxs) (c : Nat) : s.ctx c = t.ctx c := by simp [State.ctx, h]

@[simp] theorem State.core_setCluster (s : State) (u c : Nat) (x : Cluster) : (s.setCluster u x).core c = s.core c := rfl
@[simp] theorem State.core_setDie (s : State) (d c : Nat) (x : Die) : (s.setDie d x).core c = s.core c := rfl
@[simp] theorem State.core_setCtx (s : State) (d c : Nat) (x : Ctx) : (s.setCtx d x).core c = s.core c := rfl
@[simp] theorem State.core_due (s : State) (e : Instr) (c : Nat) : (s.due e).core c = s.core c := rfl
@[simp] theorem State.cluster_setCore (s : State) (d c : Nat) (x : Core) : (s.setCore d x).cluster c = s.cluster c := rfl
@[simp] theorem State.cluster_modCore (s : State) (d c : Nat) (f : Core → Core) : (s.modCore d f).cluster c = s.cluster c := rfl
@[simp] theorem State.die_setCore (s : State) (d c : Nat) (x : Core) : (s.setCore d x).die c = s.die c := rfl
@[simp] theorem State.die_modCore (s : State) (d c : Nat) (f : Core → Core) : (s.modCore d f).die c = s.die c := rfl
@[simp] theorem State.die_due (s : State) (e : Instr) (c : Nat) : (s.due e).die c = s.die c := rfl
@[simp] theorem State.ctx_setCore (s : State) (d c : Nat) (x : Core) : (s.setCore d x).ctx c = s.ctx c := rfl
@[simp] theorem State.ctx_modCore (s : State) (d c : Nat) (f : Core → Core) : (s.modCore d f).ctx c = s.ctx c := rfl
@[simp] theorem State.ctx_due (s : State) (e : Instr) (c : Nat) : (s.due e).ctx c = s.ctx c := rfl

-- Agents -----------------------------------------------------------------------------------------------------------

@[simp] theorem State.agent?_setAgent (s : State) (c k d j : Nat) (a : Agent) :
    (s.setAgent c k a).agent? d j = if d = c ∧ j = k then some a else s.agent? d j := by
  unfold State.agent? State.setAgent
  rw [State.core_modCore]
  by_cases h : d = c
  · subst h; simp
  · simp [h]

@[simp] theorem State.agentD_setAgent (s : State) (c k d j : Nat) (a : Agent) :
    (s.setAgent c k a).agentD d j = if d = c ∧ j = k then a else s.agentD d j := by
  unfold State.agentD; rw [State.agent?_setAgent]; split <;> rfl

@[simp] theorem State.agent?_due (s : State) (e : Instr) (c k : Nat) : (s.due e).agent? c k = s.agent? c k := rfl
@[simp] theorem State.agentD_due (s : State) (e : Instr) (c k : Nat) : (s.due e).agentD c k = s.agentD c k := rfl

theorem State.modAgent_some {s : State} {c k : Nat} {a : Agent} (h : s.agent? c k = some a) (f : Agent → Agent) :
    s.modAgent c k f = s.setAgent c k (f a) := by simp [State.modAgent, h]
theorem State.modAgent_none {s : State} {c k : Nat} (h : s.agent? c k = none) (f : Agent → Agent) :
    s.modAgent c k f = s := by simp [State.modAgent, h]

@[simp] theorem State.me_setMe (s : State) (a : Agent) : (s.setMe a).me = a := by
  unfold State.me State.setMe; simp
@[simp] theorem State.me_modMe (s : State) (f : Agent → Agent) : (s.modMe f).me = f s.me := by simp [State.modMe]
@[simp] theorem State.me_due (s : State) (e : Instr) : (s.due e).me = s.me := rfl

@[simp] theorem State.me_setPart (s : State) (p : Part) :
    (s.setPart p).me = { s.me with parts := s.me.parts.put s.cur.part p } := by simp [State.setPart]
@[simp] theorem State.myPart_setPart (s : State) (p : Part) : (s.setPart p).myPart = p := by
  unfold State.myPart; rw [State.me_setPart]; simp
@[simp] theorem State.myPart_modPart (s : State) (f : Part → Part) : (s.modPart f).myPart = f s.myPart := by simp [State.modPart]

/-- Every other agent is as it was. -/
theorem State.agent?_setMe_ne (s : State) (a : Agent) (c k : Nat) (h : ¬(c = s.cur.core ∧ k = s.cur.agent)) :
    (s.setMe a).agent? c k = s.agent? c k := by
  unfold State.setMe; rw [State.agent?_setAgent, if_neg h]

-- Program counter -----------------------------------------------------------------------------------------------------

@[simp] theorem State.pc_advance (s : State) : s.advance.pc = s.pc + BitVec.ofNat 64 s.cur.len := by
  simp [State.pc, State.advance]
@[simp] theorem State.pc_jump (s : State) (t : W64) : (s.jump t).pc = t := by simp [State.pc, State.jump]
@[simp] theorem State.pc_park (s : State) (w : Wait) : (s.park w).pc = s.pc := by simp [State.pc, State.park]
@[simp] theorem State.em_advance (s : State) : s.advance.em = s.em := by simp [State.em, State.advance]
@[simp] theorem State.em_jump (s : State) (t : W64) : (s.jump t).em = s.em := by simp [State.em, State.jump]

/-- What an update of the issuing agent leaves of its parts is what the part reads. -/
theorem State.myPart_modMe (s : State) (f : Agent → Agent) (h : (f s.me).parts = s.me.parts) : (s.modMe f).myPart = s.myPart := by
  unfold State.myPart; rw [State.me_modMe, h]; rfl

/-- `advance` and `jump` leave every register of the agent. -/
theorem State.me_advance (s : State) : s.advance.me = { s.me with parts := s.advance.me.parts } := by
  simp [State.advance, State.modPart]
theorem State.me_jump (s : State) (t : W64) : (s.jump t).me = { s.me with parts := (s.jump t).me.parts } := by
  simp [State.jump, State.modPart]

-- Registers -------------------------------------------------------------------------------------------------------------

@[simp] theorem Agent.sget_sset (a : Agent) (n k : Nat) (x : W64) : (a.sset n x).sget k = if k = n then x else a.sget k := by
  simp [Agent.sset, Agent.sget]
@[simp] theorem Agent.mget_mset (a : Agent) (n k : Nat) (x : BitVec 64) : (a.mset n x).mget k = if k = n then x else a.mget k := by
  simp [Agent.mset, Agent.mget]
@[simp] theorem Agent.mget_sset (a : Agent) (n k : Nat) (x : W64) : (a.sset n x).mget k = a.mget k := rfl
@[simp] theorem Agent.sget_mset (a : Agent) (n k : Nat) (x : W64) : (a.mset n x).sget k = a.sget k := rfl
@[simp] theorem Agent.vget_sset (a : Agent) (n r l : Nat) (x : W64) : (a.sset n x).vget r l = a.vget r l := rfl
@[simp] theorem Agent.vget_mset (a : Agent) (n r l : Nat) (x : W64) : (a.mset n x).vget r l = a.vget r l := rfl
@[simp] theorem Agent.sget_vset (a : Agent) (n l k : Nat) (x : W32) : (a.vset n l x).sget k = a.sget k := rfl
@[simp] theorem Agent.mget_vset (a : Agent) (n l k : Nat) (x : W32) : (a.vset n l x).mget k = a.mget k := rfl

/-- Lanes are numbered below 64, so that a register's lanes do not meet another's. -/
theorem Agent.vget_vset (a : Agent) (n l r j : Nat) (x : W32) (hl : l < 64) (hj : j < 64) :
    (a.vset n l x).vget r j = if r = n ∧ j = l then x else a.vget r j := by
  unfold Agent.vset Agent.vget
  simp only [SMap.get_set]
  by_cases h : r = n ∧ j = l
  · obtain ⟨rfl, rfl⟩ := h; simp
  · rw [if_neg (by omega), if_neg h]

-- Outcomes ----------------------------------------------------------------------------------------------------------------

@[simp] theorem finish_ok (s : State) : finish (.ok s) = .next s := rfl
@[simp] theorem finish_error (s : State) : finish (.error s) = .next s := rfl

/-- A meaning that is cut short or not, it ends in a next state. -/
theorem finish_next (r : Except State State) : ∃ t, finish r = .next t := by
  cases r with
  | ok s => exact ⟨s, rfl⟩
  | error s => exact ⟨s, rfl⟩

@[simp] theorem need_true (s : State) : need true s = .ok () := rfl
@[simp] theorem need_false (s : State) : need false s = .error s := rfl
theorem need_pos {b : Bool} (h : b = true) (s : State) : need b s = .ok () := by simp [h]

end Sys2Proof.Machine
end

