-- ==== Sys2Proof/Laws/Inv.lean ====
section
/-! SUPPORT. The invariant of the machine: the updates that leave it alone because they touch neither memory nor a limit,
folds of steps that keep it, and the few operations that do write memory, which keep its canonical form. -/

namespace Sys2Proof.Machine

-- What does not touch it ------------------------------------------------------------------------------------------------

/-- The invariant looks at five fields only. -/
theorem State.inv_congr {s t : State} (hm : t.mem = s.mem) (hd : t.dram = s.dram) (hr : t.repMem = s.repMem)
    (hp : t.powerLimit = s.powerLimit) (hn : t.devNum = s.devNum) : t.Inv ↔ s.Inv := by simp only [State.Inv, hm, hd, hr, hp, hn]

@[simp] theorem State.inv_setCore (s : State) (c : Nat) (x : Core) : (s.setCore c x).Inv ↔ s.Inv := Iff.rfl
@[simp] theorem State.inv_modCore (s : State) (c : Nat) (f : Core → Core) : (s.modCore c f).Inv ↔ s.Inv := Iff.rfl
@[simp] theorem State.inv_setCluster (s : State) (c : Nat) (x : Cluster) : (s.setCluster c x).Inv ↔ s.Inv := Iff.rfl
@[simp] theorem State.inv_setDie (s : State) (c : Nat) (x : Die) : (s.setDie c x).Inv ↔ s.Inv := Iff.rfl
@[simp] theorem State.inv_setCtx (s : State) (c : Nat) (x : Ctx) : (s.setCtx c x).Inv ↔ s.Inv := Iff.rfl
@[simp] theorem State.inv_setAgent (s : State) (c k : Nat) (a : Agent) : (s.setAgent c k a).Inv ↔ s.Inv := Iff.rfl
@[simp] theorem State.inv_setMe (s : State) (a : Agent) : (s.setMe a).Inv ↔ s.Inv := Iff.rfl
@[simp] theorem State.inv_modMe (s : State) (f : Agent → Agent) : (s.modMe f).Inv ↔ s.Inv := Iff.rfl
@[simp] theorem State.inv_due (s : State) (e : Instr) : (s.due e).Inv ↔ s.Inv := Iff.rfl
@[simp] theorem State.inv_advance (s : State) : s.advance.Inv ↔ s.Inv := Iff.rfl
@[simp] theorem State.inv_jump (s : State) (t : W64) : (s.jump t).Inv ↔ s.Inv := Iff.rfl
@[simp] theorem State.inv_park (s : State) (w : Wait) : (s.park w).Inv ↔ s.Inv := Iff.rfl
@[simp] theorem State.inv_raise (s : State) (f : BitVec 5) : (s.raise f).Inv ↔ s.Inv := Iff.rfl

@[simp] theorem State.inv_modAgent (s : State) (c k : Nat) (f : Agent → Agent) : (s.modAgent c k f).Inv ↔ s.Inv := by
  unfold State.modAgent; split <;> exact Iff.rfl
@[simp] theorem State.inv_setS (s : State) (d : Reg) (x : W64) : (s.setS d x).Inv ↔ s.Inv := by
  unfold State.setS; split <;> exact Iff.rfl

/-- A fold of steps that keep the invariant keeps it. -/
theorem State.inv_foldl {α : Type} (f : State → α → State) (hf : ∀ s x, State.Inv s → State.Inv (f s x)) (l : List α) :
    ∀ s : State, s.Inv → (l.foldl f s).Inv := by
  induction l with
  | nil => exact fun s h => h
  | cons x l ih => exact fun s h => ih _ (hf s x h)

/-- An instruction whose gates and effect keep the invariant keeps it. -/
theorem inv_finish {r : Except State State} (h : ∀ t, r = .ok t ∨ r = .error t → t.Inv) {t : State} (ht : finish r = .next t) : t.Inv := by
  cases r with
  | ok u => cases ht; exact h _ (.inl rfl)
  | error u => cases ht; exact h _ (.inr rfl)

-- What writes memory ------------------------------------------------------------------------------------------------------

theorem State.inv_bumpSeq (s : State) (ia : Nat) : (s.bumpSeq ia).Inv ↔ s.Inv := by
  unfold State.bumpSeq; split <;> exact Iff.rfl

/-- Writing bytes one by one keeps the canonical form. -/
theorem SMap.wf_sets {α : Type} (a : α → Nat) (v : α → Byte) (l : List α) {m : SMap 8} (h : m.wf = true) :
    (l.foldl (fun (m : SMap 8) x => m.set (a x) (v x)) m).wf = true :=
  SMap.wf_foldl _ (fun _ _ hm => SMap.wf_set _ _ hm) l h

theorem State.inv_copyBytes {s : State} (h : s.Inv) {α : Type} (a : α → Nat) (v : α → Byte) (l : List α) :
    State.Inv { s with mem := l.foldl (fun (m : SMap 8) x => m.set (a x) (v x)) s.mem } :=
  ⟨SMap.wf_sets a v l h.1, h.2⟩

theorem State.inv_applyDram {s : State} (h : s.Inv) {α : Type} (a : α → Nat) (v : α → Byte) (l : List α) :
    State.Inv { s with dram := l.foldl (fun (m : SMap 8) x => m.set (a x) (v x)) s.dram } :=
  ⟨h.1, SMap.wf_sets a v l h.2.1, h.2.2⟩

/-- A range set to zero in both memories. -/
theorem State.inv_blank {s : State} (h : s.Inv) (lo n : Nat) : (s.blank lo n).Inv :=
  ⟨SMap.wf_clear lo n h.1, SMap.wf_clear lo n h.2.1, h.2.2⟩

/-- Meeting uncorrectable words only sets out events. -/
theorem State.inv_metBad (s : State) (ctx ia : Nat) : (s.metBad ctx ia).Inv ↔ s.Inv := by
  unfold State.metBad; split
  · exact Iff.rfl
  · split
    · exact Iff.rfl
    · split <;> exact Iff.rfl

theorem State.inv_metAll (s : State) (ctx : Nat) (ws : List Nat) : (s.metAll ctx ws).Inv ↔ s.Inv := by
  induction ws with
  | nil => exact Iff.rfl
  | cons w ws ih => exact (State.inv_metBad _ _ _).trans ih

/-- The packets to the base dies are no write of memory. -/
theorem State.inv_toBase (s : State) (ia : Nat) (rs : List Req) : (s.toBase ia rs).Inv ↔ s.Inv := by
  unfold State.toBase; split <;> exact Iff.rfl
theorem State.inv_homeOut (s : State) (ctx line : Nat) (bs : Bytes) (marks : List Nat) : (s.homeOut ctx line bs marks).Inv ↔ s.Inv := by
  unfold State.homeOut
  dsimp only
  split
  · exact Iff.rfl
  · split
    · split <;> exact Iff.rfl
    · exact State.inv_toBase _ _ _
theorem State.inv_dropWay (s : State) (line : Nat) : (s.dropWay line).Inv ↔ s.Inv := by
  unfold State.dropWay
  split
  · exact State.inv_homeOut _ _ _ _ _
  · exact Iff.rfl

/-- A write at the home. -/
theorem State.inv_homePut {s : State} (h : s.Inv) (bs : Bytes) (marks : List Nat) : (s.homePut bs marks).Inv :=
  ⟨SMap.wf_sets _ _ _ h.1, h.2⟩
theorem State.inv_homeWrite {s : State} (h : s.Inv) (ctx line : Nat) (bs : Bytes) (marks : List Nat) :
    (s.homeWrite ctx line bs marks).Inv := by
  unfold State.homeWrite
  split
  · exact h
  · have : ((((s.homePut bs marks).bumpSeq (line * 128)).homeOut ctx line bs marks)).Inv :=
      (State.inv_homeOut _ _ _ _ _).2 ((State.inv_bumpSeq _ _).2 (State.inv_homePut h bs marks))
    dsimp only
    split
    · exact (State.inv_metBad _ _ _).2 this
    · exact this

/-- A masked write of the base die. -/
theorem State.inv_metRow (s : State) (ctx w : Nat) : (s.metRow ctx w).Inv ↔ s.Inv := by
  unfold State.metRow; dsimp only; split <;> exact Iff.rfl
theorem State.inv_metRows (s : State) (ctx : Nat) (ws : List Nat) :
    (ws.foldr (fun w (s : State) => s.metRow ctx w) s).Inv ↔ s.Inv := by
  induction ws with
  | nil => exact Iff.rfl
  | cons w ws ih => exact (State.inv_metRow _ _ _).trans ih
theorem State.inv_applyWr {s : State} (h : s.Inv) (r : Req) : (s.applyWr r).Inv := by
  unfold State.applyWr
  dsimp only
  exact (State.inv_metRows _ _ _).2 (State.inv_applyDram h (fun i => r.ia + i) (fun i => r.data.getD i 0) _)

end Sys2Proof.Machine
end

