-- ==== Sys2Proof/Laws/PerInstr.lean ====
section
/-! SUPPORT. Lemmas for every instruction, one per constructor: an instruction's word fits in 32 bits (R46). -/

namespace Sys2Proof.Laws.Coding

/-- The number of an instruction's word is below 2^32. -/
def Statement (i : Instr) : Prop := ∀ n, encodeNat i = some n → n < 2 ^ 32

end Sys2Proof.Laws.Coding

open Sys2Proof.Laws.Coding (Statement)
open Sys2Proof

theorem Sys2Proof.Laws.Coding.emptyLineTimeout : ∀ x0 x1, Statement (.emptyLineTimeout x0 x1) := by intros; intro n h; cases h
theorem Sys2Proof.Laws.Coding.rendezvousTimeout : ∀ x0 x1, Statement (.rendezvousTimeout x0 x1) := by intros; intro n h; cases h
theorem Sys2Proof.Laws.Coding.wswapEffect : ∀ x0, Statement (.wswapEffect x0) := by intros; intro n h; cases h
theorem Sys2Proof.Laws.Coding.vatComplete : ∀ x0 x1, Statement (.vatComplete x0 x1) := by intros; intro n h; cases h
theorem Sys2Proof.Laws.Coding.vatFault : ∀ x0 x1, Statement (.vatFault x0 x1) := by intros; intro n h; cases h
theorem Sys2Proof.Laws.Coding.launchLoad : ∀ x0 x1 x2 x3, Statement (.launchLoad x0 x1 x2 x3) := by intros; intro n h; cases h
theorem Sys2Proof.Laws.Coding.wgAdmit : ∀ x0, Statement (.wgAdmit x0) := by intros; intro n h; cases h
theorem Sys2Proof.Laws.Coding.wavePromote : ∀ x0 x1, Statement (.wavePromote x0 x1) := by intros; intro n h; cases h
theorem Sys2Proof.Laws.Coding.partWake : ∀ x0 x1 x2, Statement (.partWake x0 x1 x2) := by intros; intro n h; cases h
theorem Sys2Proof.Laws.Coding.trywaitExpire : ∀ x0 x1 x2, Statement (.trywaitExpire x0 x1 x2) := by intros; intro n h; cases h
theorem Sys2Proof.Laws.Coding.preemptRequest : ∀ x0, Statement (.preemptRequest x0) := by intros; intro n h; cases h
theorem Sys2Proof.Laws.Coding.preemptSave : ∀ x0, Statement (.preemptSave x0) := by intros; intro n h; cases h
theorem Sys2Proof.Laws.Coding.preemptForce : ∀ x0, Statement (.preemptForce x0) := by intros; intro n h; cases h
theorem Sys2Proof.Laws.Coding.resume : ∀ x0, Statement (.resume x0) := by intros; intro n h; cases h
theorem Sys2Proof.Laws.Coding.accessComplete : ∀ x0 x1 x2 x3, Statement (.accessComplete x0 x1 x2 x3) := by intros; intro n h; cases h
theorem Sys2Proof.Laws.Coding.xstLand : ∀ x0 x1, Statement (.xstLand x0 x1) := by intros; intro n h; cases h
theorem Sys2Proof.Laws.Coding.copyLand : ∀ x0 x1, Statement (.copyLand x0 x1) := by intros; intro n h; cases h
theorem Sys2Proof.Laws.Coding.copyVisible : ∀ x0 x1, Statement (.copyVisible x0 x1) := by intros; intro n h; cases h
theorem Sys2Proof.Laws.Coding.copyAbort : ∀ x0 x1 x2 x3, Statement (.copyAbort x0 x1 x2 x3) := by intros; intro n h; cases h
theorem Sys2Proof.Laws.Coding.collStart : ∀ x0 x1, Statement (.collStart x0 x1) := by intros; intro n h; cases h
theorem Sys2Proof.Laws.Coding.collChunkArrive : ∀ x0 x1 x2, Statement (.collChunkArrive x0 x1 x2) := by intros; intro n h; cases h
theorem Sys2Proof.Laws.Coding.collEnd : ∀ x0 x1, Statement (.collEnd x0 x1) := by intros; intro n h; cases h
theorem Sys2Proof.Laws.Coding.peerUnreachable : ∀ x0, Statement (.peerUnreachable x0) := by intros; intro n h; cases h
theorem Sys2Proof.Laws.Coding.planStart : Statement .planStart := by intro n h; cases h
theorem Sys2Proof.Laws.Coding.planDrain : ∀ x0 x1 x2 x3 x4, Statement (.planDrain x0 x1 x2 x3 x4) := by intros; intro n h; cases h
theorem Sys2Proof.Laws.Coding.reserveServed : ∀ x0 x1, Statement (.reserveServed x0 x1) := by intros; intro n h; cases h
theorem Sys2Proof.Laws.Coding.commitArrive : ∀ x0 x1 x2, Statement (.commitArrive x0 x1 x2) := by intros; intro n h; cases h
theorem Sys2Proof.Laws.Coding.releaseArrive : ∀ x0 x1 x2, Statement (.releaseArrive x0 x1 x2) := by intros; intro n h; cases h
theorem Sys2Proof.Laws.Coding.sealArrive : ∀ x0 x1 x2, Statement (.sealArrive x0 x1 x2) := by intros; intro n h; cases h
theorem Sys2Proof.Laws.Coding.occupancySample : ∀ x0, Statement (.occupancySample x0) := by intros; intro n h; cases h
theorem Sys2Proof.Laws.Coding.balance : ∀ x0, Statement (.balance x0) := by intros; intro n h; cases h
theorem Sys2Proof.Laws.Coding.coreMoveLoad : ∀ x0, Statement (.coreMoveLoad x0) := by intros; intro n h; cases h
theorem Sys2Proof.Laws.Coding.deadlockSnapshot : ∀ x0 x1 x2 x3 x4, Statement (.deadlockSnapshot x0 x1 x2 x3 x4) := by intros; intro n h; cases h
theorem Sys2Proof.Laws.Coding.energyWindow : Statement (.energyWindow) := by intro n h; cases h
theorem Sys2Proof.Laws.Coding.energyUpdate : ∀ x0, Statement (.energyUpdate x0) := by intros; intro n h; cases h
theorem Sys2Proof.Laws.Coding.clockStretch : Statement (.clockStretch) := by intro n h; cases h
theorem Sys2Proof.Laws.Coding.passBegin : ∀ x0 x1 x2, Statement (.passBegin x0 x1 x2) := by intros; intro n h; cases h
theorem Sys2Proof.Laws.Coding.batchAssign : ∀ x0 x1 x2 x3, Statement (.batchAssign x0 x1 x2 x3) := by intros; intro n h; cases h
theorem Sys2Proof.Laws.Coding.partialArrive : ∀ x0, Statement (.partialArrive x0) := by intros; intro n h; cases h
theorem Sys2Proof.Laws.Coding.hoopWaitExpire : ∀ x0, Statement (.hoopWaitExpire x0) := by intros; intro n h; cases h
theorem Sys2Proof.Laws.Coding.taskEnqueue : ∀ x0, Statement (.taskEnqueue x0) := by intros; intro n h; cases h
theorem Sys2Proof.Laws.Coding.taskStart : ∀ x0, Statement (.taskStart x0) := by intros; intro n h; cases h
theorem Sys2Proof.Laws.Coding.invocationArrive : ∀ x0, Statement (.invocationArrive x0) := by intros; intro n h; cases h
theorem Sys2Proof.Laws.Coding.handleSettle : ∀ x0 x1, Statement (.handleSettle x0 x1) := by intros; intro n h; cases h
theorem Sys2Proof.Laws.Coding.queueReport : ∀ x0 x1 x2, Statement (.queueReport x0 x1 x2) := by intros; intro n h; cases h
theorem Sys2Proof.Laws.Coding.cancelArrive : ∀ x0 x1 x2 x3, Statement (.cancelArrive x0 x1 x2 x3) := by intros; intro n h; cases h
theorem Sys2Proof.Laws.Coding.jcanComplete : ∀ x0, Statement (.jcanComplete x0) := by intros; intro n h; cases h
theorem Sys2Proof.Laws.Coding.migrate : ∀ x0 x1, Statement (.migrate x0 x1) := by intros; intro n h; cases h
theorem Sys2Proof.Laws.Coding.nakReport : ∀ x0 x1 x2, Statement (.nakReport x0 x1 x2) := by intros; intro n h; cases h
theorem Sys2Proof.Laws.Coding.pagerAnswer : ∀ x0 x1, Statement (.pagerAnswer x0 x1) := by intros; intro n h; cases h
theorem Sys2Proof.Laws.Coding.memoryIssueResume : ∀ x0 x1, Statement (.memoryIssueResume x0 x1) := by intros; intro n h; cases h
theorem Sys2Proof.Laws.Coding.rd : ∀ x0 x1 x2 x3 x4, Statement (.rd x0 x1 x2 x3 x4) := by intros; intro n h; cases h
theorem Sys2Proof.Laws.Coding.wr : ∀ x0 x1 x2 x3 x4, Statement (.wr x0 x1 x2 x3 x4) := by intros; intro n h; cases h
theorem Sys2Proof.Laws.Coding.rdr : ∀ x0 x1 x2 x3 x4, Statement (.rdr x0 x1 x2 x3 x4) := by intros; intro n h; cases h
theorem Sys2Proof.Laws.Coding.wra : ∀ x0 x1 x2 x3 x4, Statement (.wra x0 x1 x2 x3 x4) := by intros; intro n h; cases h
theorem Sys2Proof.Laws.Coding.nak : ∀ x0 x1 x2 x3 x4 x5, Statement (.nak x0 x1 x2 x3 x4 x5) := by intros; intro n h; cases h
theorem Sys2Proof.Laws.Coding.portSend : ∀ x0 x1 x2 x3, Statement (.portSend x0 x1 x2 x3) := by intros; intro n h; cases h
theorem Sys2Proof.Laws.Coding.sliceWrite : ∀ x0 x1 x2 x3, Statement (.sliceWrite x0 x1 x2 x3) := by intros; intro n h; cases h
theorem Sys2Proof.Laws.Coding.lineFill : ∀ x0 x1, Statement (.lineFill x0 x1) := by intros; intro n h; cases h
theorem Sys2Proof.Laws.Coding.writeBack : ∀ x0 x1, Statement (.writeBack x0 x1) := by intros; intro n h; cases h
theorem Sys2Proof.Laws.Coding.podRequest : ∀ x0 x1 x2, Statement (.podRequest x0 x1 x2) := by intros; intro n h; cases h
theorem Sys2Proof.Laws.Coding.collapse : ∀ x0, Statement (.collapse x0) := by intros; intro n h; cases h
theorem Sys2Proof.Laws.Coding.replicaInvalidate : ∀ x0 x1, Statement (.replicaInvalidate x0 x1) := by intros; intro n h; cases h
theorem Sys2Proof.Laws.Coding.collapseDone : ∀ x0, Statement (.collapseDone x0) := by intros; intro n h; cases h
theorem Sys2Proof.Laws.Coding.replicaMake : ∀ x0 x1 x2, Statement (.replicaMake x0 x1 x2) := by intros; intro n h; cases h
theorem Sys2Proof.Laws.Coding.pageOwnerChange : ∀ x0 x1, Statement (.pageOwnerChange x0 x1) := by intros; intro n h; cases h
theorem Sys2Proof.Laws.Coding.errorEvent : ∀ x0 x1 x2 x3 x4 x5, Statement (.errorEvent x0 x1 x2 x3 x4 x5) := by intros; intro n h; cases h
theorem Sys2Proof.Laws.Coding.activationAlert : ∀ x0 x1 x2, Statement (.activationAlert x0 x1 x2) := by intros; intro n h; cases h
theorem Sys2Proof.Laws.Coding.ptpExchange : Statement (.ptpExchange) := by intro n h; cases h
theorem Sys2Proof.Laws.Coding.ptpReply : ∀ x0 x1, Statement (.ptpReply x0 x1) := by intros; intro n h; cases h
theorem Sys2Proof.Laws.Coding.ptpTimeout : Statement (.ptpTimeout) := by intro n h; cases h
theorem Sys2Proof.Laws.Coding.laneFail : ∀ x0 x1, Statement (.laneFail x0 x1) := by intros; intro n h; cases h
theorem Sys2Proof.Laws.Coding.flitReplay : ∀ x0, Statement (.flitReplay x0) := by intros; intro n h; cases h
theorem Sys2Proof.Laws.Coding.linkDown : Statement (.linkDown) := by intro n h; cases h
theorem Sys2Proof.Laws.Coding.deviceReset : ∀ x0, Statement (.deviceReset x0) := by intros; intro n h; cases h
theorem Sys2Proof.Laws.Coding.recoveryImage : ∀ x0, Statement (.recoveryImage x0) := by intros; intro n h; cases h
theorem Sys2Proof.Laws.Coding.svnRaise : ∀ x0, Statement (.svnRaise x0) := by intros; intro n h; cases h
theorem Sys2Proof.Laws.Coding.attestationRequest : ∀ x0 x1, Statement (.attestationRequest x0 x1) := by intros; intro n h; cases h
theorem Sys2Proof.Laws.Coding.launchRequest : ∀ x0 x1 x2 x3, Statement (.launchRequest x0 x1 x2 x3) := by intros; intro n h; cases h
theorem Sys2Proof.Laws.Coding.launchWaitSatisfied : ∀ x0 x1, Statement (.launchWaitSatisfied x0 x1) := by intros; intro n h; cases h
theorem Sys2Proof.Laws.Coding.watchArm : ∀ x0 x1 x2 x3 x4, Statement (.watchArm x0 x1 x2 x3 x4) := by intros; intro n h; cases h
theorem Sys2Proof.Laws.Coding.watchFire : ∀ x0 x1, Statement (.watchFire x0 x1) := by intros; intro n h; cases h
theorem Sys2Proof.Laws.Coding.ownershipClaim : ∀ x0 x1 x2, Statement (.ownershipClaim x0 x1 x2) := by intros; intro n h; cases h
theorem Sys2Proof.Laws.Coding.electionDecide : Statement (.electionDecide) := by intro n h; cases h
theorem Sys2Proof.Laws.Coding.heartbeat : ∀ x0, Statement (.heartbeat x0) := by intros; intro n h; cases h
theorem Sys2Proof.Laws.Coding.ownerLapse : Statement (.ownerLapse) := by intro n h; cases h
theorem Sys2Proof.Laws.Coding.handover : ∀ x0 x1 x2, Statement (.handover x0 x1 x2) := by intros; intro n h; cases h
theorem Sys2Proof.Laws.Coding.accept : ∀ x0 x1 x2, Statement (.accept x0 x1 x2) := by intros; intro n h; cases h
theorem Sys2Proof.Laws.Coding.handoverLapse : Statement (.handoverLapse) := by intro n h; cases h
theorem Sys2Proof.Laws.Coding.powerLimitWrite : ∀ x0 x1, Statement (.powerLimitWrite x0 x1) := by intros; intro n h; cases h
theorem Sys2Proof.Laws.Coding.carveWrite : ∀ x0 x1 x2, Statement (.carveWrite x0 x1 x2) := by intros; intro n h; cases h
theorem Sys2Proof.Laws.Coding.ctxActivate : ∀ x0 x1, Statement (.ctxActivate x0 x1) := by intros; intro n h; cases h
theorem Sys2Proof.Laws.Coding.ctxTeardown : ∀ x0 x1, Statement (.ctxTeardown x0 x1) := by intros; intro n h; cases h
theorem Sys2Proof.Laws.Coding.teardownFree : ∀ x0, Statement (.teardownFree x0) := by intros; intro n h; cases h
theorem Sys2Proof.Laws.Coding.mapWindowWrite : ∀ x0 x1 x2 x3 x4 x5, Statement (.mapWindowWrite x0 x1 x2 x3 x4 x5) := by intros; intro n h; cases h
theorem Sys2Proof.Laws.Coding.cbCoresWrite : ∀ x0 x1 x2, Statement (.cbCoresWrite x0 x1 x2) := by intros; intro n h; cases h
theorem Sys2Proof.Laws.Coding.swapReq : ∀ x0 x1, Statement (.swapReq x0 x1) := by intros; intro n h; cases h
theorem Sys2Proof.Laws.Coding.swapDone : Statement (.swapDone) := by intro n h; cases h
theorem Sys2Proof.Laws.Coding.snapReq : ∀ x0, Statement (.snapReq x0) := by intros; intro n h; cases h
theorem Sys2Proof.Laws.Coding.trBaseWrite : ∀ x0 x1 x2, Statement (.trBaseWrite x0 x1 x2) := by intros; intro n h; cases h
theorem Sys2Proof.Laws.Coding.trCtlWrite : ∀ x0 x1 x2, Statement (.trCtlWrite x0 x1 x2) := by intros; intro n h; cases h
theorem Sys2Proof.Laws.Coding.trRdWrite : ∀ x0 x1, Statement (.trRdWrite x0 x1) := by intros; intro n h; cases h
theorem Sys2Proof.Laws.Coding.trDroppedWrite : ∀ x0 x1, Statement (.trDroppedWrite x0 x1) := by intros; intro n h; cases h
theorem Sys2Proof.Laws.Coding.deviceNumberWrite : ∀ x0 x1, Statement (.deviceNumberWrite x0 x1) := by intros; intro n h; cases h
theorem Sys2Proof.Laws.Coding.registerWrite : ∀ x0 x1 x2, Statement (.registerWrite x0 x1 x2) := by intros; intro n h; cases h
theorem Sys2Proof.Laws.Coding.drainLineLand : ∀ x0 x1, Statement (.drainLineLand x0 x1) := by intros; intro n h; cases h
theorem Sys2Proof.Laws.Coding.yieldExpire : ∀ x0 x1, Statement (.yieldExpire x0 x1) := by intros; intro n h; cases h
theorem Sys2Proof.Laws.Coding.linkRetrain : Statement (.linkRetrain) := by intro n h; cases h
theorem Sys2Proof.Laws.Coding.stretchEnd : Statement (.stretchEnd) := by intro n h; cases h
theorem Sys2Proof.Laws.Coding.refresh : ∀ x0 x1 x2 x3, Statement (.refresh x0 x1 x2 x3) := by intros; intro n h; cases h
theorem Sys2Proof.Laws.Coding.ztrap : ∀ x0, Statement (.ztrap x0) := by intros; intro n h; cases h; omega
theorem Sys2Proof.Laws.Coding.nop : Statement (.nop) := by intro n h; cases h; omega
theorem Sys2Proof.Laws.Coding.exit : Statement (.exit) := by intro n h; cases h; omega
theorem Sys2Proof.Laws.Coding.wsync : Statement (.wsync) := by intro n h; cases h; omega
theorem Sys2Proof.Laws.Coding.srd : ∀ x0 x1, Statement (.srd x0 x1) := by intros; intro n h; cases h; omega
theorem Sys2Proof.Laws.Coding.swr : ∀ x0 x1, Statement (.swr x0 x1) := by intros; intro n h; cases h; omega
theorem Sys2Proof.Laws.Coding.rft : Statement (.rft) := by intro n h; cases h; omega
theorem Sys2Proof.Laws.Coding.clkrd : ∀ x0, Statement (.clkrd x0) := by intros; intro n h; cases h; omega
theorem Sys2Proof.Laws.Coding.tmark : ∀ x0, Statement (.tmark x0) := by intros; intro n h; cases h; omega
theorem Sys2Proof.Laws.Coding.erd : ∀ x0 x1, Statement (.erd x0 x1) := by intros; intro n h; cases h; omega
theorem Sys2Proof.Laws.Coding.winb : ∀ x0, Statement (.winb x0) := by intros; intro n h; cases h; omega
theorem Sys2Proof.Laws.Coding.yield : Statement (.yield) := by intro n h; cases h; omega
theorem Sys2Proof.Laws.Coding.bkpt : Statement (.bkpt) := by intro n h; cases h; omega
theorem Sys2Proof.Laws.Coding.trap : ∀ x0, Statement (.trap x0) := by intros; intro n h; cases h; omega
theorem Sys2Proof.Laws.Coding.safept : ∀ x0, Statement (.safept x0) := by intros; intro n h; cases h; omega
theorem Sys2Proof.Laws.Coding.limm : ∀ x0, Statement (.limm x0) := by intros; intro n h; cases h; omega
theorem Sys2Proof.Laws.Coding.iadd : ∀ x0 x1 x2 x3, Statement (.iadd x0 x1 x2 x3) := by intros; intro n h; cases h; omega
theorem Sys2Proof.Laws.Coding.isub : ∀ x0 x1 x2 x3, Statement (.isub x0 x1 x2 x3) := by intros; intro n h; cases h; omega
theorem Sys2Proof.Laws.Coding.imul : ∀ x0 x1 x2 x3, Statement (.imul x0 x1 x2 x3) := by intros; intro n h; cases h; omega
theorem Sys2Proof.Laws.Coding.imulhs : ∀ x0 x1 x2 x3, Statement (.imulhs x0 x1 x2 x3) := by intros; intro n h; cases h; omega
theorem Sys2Proof.Laws.Coding.imulhn : ∀ x0 x1 x2 x3, Statement (.imulhn x0 x1 x2 x3) := by intros; intro n h; cases h; omega
theorem Sys2Proof.Laws.Coding.imad : ∀ x0 x1 x2 x3, Statement (.imad x0 x1 x2 x3) := by intros; intro n h; cases h; omega
theorem Sys2Proof.Laws.Coding.imins : ∀ x0 x1 x2 x3, Statement (.imins x0 x1 x2 x3) := by intros; intro n h; cases h; omega
theorem Sys2Proof.Laws.Coding.iminn : ∀ x0 x1 x2 x3, Statement (.iminn x0 x1 x2 x3) := by intros; intro n h; cases h; omega
theorem Sys2Proof.Laws.Coding.imaxs : ∀ x0 x1 x2 x3, Statement (.imaxs x0 x1 x2 x3) := by intros; intro n h; cases h; omega
theorem Sys2Proof.Laws.Coding.imaxn : ∀ x0 x1 x2 x3, Statement (.imaxn x0 x1 x2 x3) := by intros; intro n h; cases h; omega
theorem Sys2Proof.Laws.Coding.iabs : ∀ x0 x1 x2, Statement (.iabs x0 x1 x2) := by intros; intro n h; cases h; omega
theorem Sys2Proof.Laws.Coding.ineg : ∀ x0 x1 x2, Statement (.ineg x0 x1 x2) := by intros; intro n h; cases h; omega
theorem Sys2Proof.Laws.Coding.and : ∀ x0 x1 x2 x3, Statement (.and x0 x1 x2 x3) := by intros; intro n h; cases h; omega
theorem Sys2Proof.Laws.Coding.or : ∀ x0 x1 x2 x3, Statement (.or x0 x1 x2 x3) := by intros; intro n h; cases h; omega
theorem Sys2Proof.Laws.Coding.xor : ∀ x0 x1 x2 x3, Statement (.xor x0 x1 x2 x3) := by intros; intro n h; cases h; omega
theorem Sys2Proof.Laws.Coding.andn : ∀ x0 x1 x2 x3, Statement (.andn x0 x1 x2 x3) := by intros; intro n h; cases h; omega
theorem Sys2Proof.Laws.Coding.shl : ∀ x0 x1 x2 x3, Statement (.shl x0 x1 x2 x3) := by intros; intro n h; cases h; omega
theorem Sys2Proof.Laws.Coding.shr : ∀ x0 x1 x2 x3, Statement (.shr x0 x1 x2 x3) := by intros; intro n h; cases h; omega
theorem Sys2Proof.Laws.Coding.sra : ∀ x0 x1 x2 x3, Statement (.sra x0 x1 x2 x3) := by intros; intro n h; cases h; omega
theorem Sys2Proof.Laws.Coding.rotl : ∀ x0 x1 x2 x3, Statement (.rotl x0 x1 x2 x3) := by intros; intro n h; cases h; omega
theorem Sys2Proof.Laws.Coding.popc : ∀ x0 x1 x2, Statement (.popc x0 x1 x2) := by intros; intro n h; cases h; omega
theorem Sys2Proof.Laws.Coding.clz : ∀ x0 x1 x2, Statement (.clz x0 x1 x2) := by intros; intro n h; cases h; omega
theorem Sys2Proof.Laws.Coding.brev : ∀ x0 x1 x2, Statement (.brev x0 x1 x2) := by intros; intro n h; cases h; omega
theorem Sys2Proof.Laws.Coding.iaddss : ∀ x0 x1 x2 x3, Statement (.iaddss x0 x1 x2 x3) := by intros; intro n h; cases h; omega
theorem Sys2Proof.Laws.Coding.iaddsn : ∀ x0 x1 x2 x3, Statement (.iaddsn x0 x1 x2 x3) := by intros; intro n h; cases h; omega
theorem Sys2Proof.Laws.Coding.isubss : ∀ x0 x1 x2 x3, Statement (.isubss x0 x1 x2 x3) := by intros; intro n h; cases h; omega
theorem Sys2Proof.Laws.Coding.isubsn : ∀ x0 x1 x2 x3, Statement (.isubsn x0 x1 x2 x3) := by intros; intro n h; cases h; omega
theorem Sys2Proof.Laws.Coding.mov : ∀ x0 x1 x2, Statement (.mov x0 x1 x2) := by intros; intro n h; cases h; omega
theorem Sys2Proof.Laws.Coding.sel : ∀ x0 x1 x2 x3 x4, Statement (.sel x0 x1 x2 x3 x4) := by intros; intro n h; cases h; omega
theorem Sys2Proof.Laws.Coding.icmpEq : ∀ x0 x1 x2 x3 x4, Statement (.icmpEq x0 x1 x2 x3 x4) := by intros; intro n h; cases h; omega
theorem Sys2Proof.Laws.Coding.icmpNe : ∀ x0 x1 x2 x3 x4, Statement (.icmpNe x0 x1 x2 x3 x4) := by intros; intro n h; cases h; omega
theorem Sys2Proof.Laws.Coding.icmpLtS : ∀ x0 x1 x2 x3 x4, Statement (.icmpLtS x0 x1 x2 x3 x4) := by intros; intro n h; cases h; omega
theorem Sys2Proof.Laws.Coding.icmpLeS : ∀ x0 x1 x2 x3 x4, Statement (.icmpLeS x0 x1 x2 x3 x4) := by intros; intro n h; cases h; omega
theorem Sys2Proof.Laws.Coding.icmpLtN : ∀ x0 x1 x2 x3 x4, Statement (.icmpLtN x0 x1 x2 x3 x4) := by intros; intro n h; cases h; omega
theorem Sys2Proof.Laws.Coding.icmpLeN : ∀ x0 x1 x2 x3 x4, Statement (.icmpLeN x0 x1 x2 x3 x4) := by intros; intro n h; cases h; omega
theorem Sys2Proof.Laws.Coding.icmpTst : ∀ x0 x1 x2 x3 x4, Statement (.icmpTst x0 x1 x2 x3 x4) := by intros; intro n h; cases h; omega
theorem Sys2Proof.Laws.Coding.bfxi : ∀ x0 x1 x2 x3, Statement (.bfxi x0 x1 x2 x3) := by intros; intro n h; cases h; omega
theorem Sys2Proof.Laws.Coding.bfii : ∀ x0 x1 x2 x3, Statement (.bfii x0 x1 x2 x3) := by intros; intro n h; cases h; omega
theorem Sys2Proof.Laws.Coding.iaddi : ∀ x0 x1 x2, Statement (.iaddi x0 x1 x2) := by intros; intro n h; cases h; omega
theorem Sys2Proof.Laws.Coding.andi : ∀ x0 x1 x2, Statement (.andi x0 x1 x2) := by intros; intro n h; cases h; omega
theorem Sys2Proof.Laws.Coding.ori : ∀ x0 x1 x2, Statement (.ori x0 x1 x2) := by intros; intro n h; cases h; omega
theorem Sys2Proof.Laws.Coding.xori : ∀ x0 x1 x2, Statement (.xori x0 x1 x2) := by intros; intro n h; cases h; omega
theorem Sys2Proof.Laws.Coding.shfiShl : ∀ x0 x1 x2 x3, Statement (.shfiShl x0 x1 x2 x3) := by intros; intro n h; cases h; omega
theorem Sys2Proof.Laws.Coding.shfiShr : ∀ x0 x1 x2 x3, Statement (.shfiShr x0 x1 x2 x3) := by intros; intro n h; cases h; omega
theorem Sys2Proof.Laws.Coding.shfiSra : ∀ x0 x1 x2 x3, Statement (.shfiSra x0 x1 x2 x3) := by intros; intro n h; cases h; omega
theorem Sys2Proof.Laws.Coding.shfiRotl : ∀ x0 x1 x2 x3, Statement (.shfiRotl x0 x1 x2 x3) := by intros; intro n h; cases h; omega
theorem Sys2Proof.Laws.Coding.movi : ∀ x0 x1 x2, Statement (.movi x0 x1 x2) := by intros; intro n h; cases h; omega
theorem Sys2Proof.Laws.Coding.icmpi : ∀ x0 x1 x2 x3, Statement (.icmpi x0 x1 x2 x3) := by intros; intro n h; cases h; omega
theorem Sys2Proof.Laws.Coding.fadd : ∀ x0 x1 x2, Statement (.fadd x0 x1 x2) := by intros; intro n h; cases h; omega
theorem Sys2Proof.Laws.Coding.fsub : ∀ x0 x1 x2, Statement (.fsub x0 x1 x2) := by intros; intro n h; cases h; omega
theorem Sys2Proof.Laws.Coding.fmul : ∀ x0 x1 x2, Statement (.fmul x0 x1 x2) := by intros; intro n h; cases h; omega
theorem Sys2Proof.Laws.Coding.fmin : ∀ x0 x1 x2, Statement (.fmin x0 x1 x2) := by intros; intro n h; cases h; omega
theorem Sys2Proof.Laws.Coding.fmax : ∀ x0 x1 x2, Statement (.fmax x0 x1 x2) := by intros; intro n h; cases h; omega
theorem Sys2Proof.Laws.Coding.fabs : ∀ x0 x1, Statement (.fabs x0 x1) := by intros; intro n h; cases h; omega
theorem Sys2Proof.Laws.Coding.fneg : ∀ x0 x1, Statement (.fneg x0 x1) := by intros; intro n h; cases h; omega
theorem Sys2Proof.Laws.Coding.fcpys : ∀ x0 x1 x2, Statement (.fcpys x0 x1 x2) := by intros; intro n h; cases h; omega
theorem Sys2Proof.Laws.Coding.fminm : ∀ x0 x1 x2, Statement (.fminm x0 x1 x2) := by intros; intro n h; cases h; omega
theorem Sys2Proof.Laws.Coding.fmaxm : ∀ x0 x1 x2, Statement (.fmaxm x0 x1 x2) := by intros; intro n h; cases h; omega
theorem Sys2Proof.Laws.Coding.ffloor : ∀ x0 x1, Statement (.ffloor x0 x1) := by intros; intro n h; cases h; omega
theorem Sys2Proof.Laws.Coding.fceil : ∀ x0 x1, Statement (.fceil x0 x1) := by intros; intro n h; cases h; omega
theorem Sys2Proof.Laws.Coding.ftrunc : ∀ x0 x1, Statement (.ftrunc x0 x1) := by intros; intro n h; cases h; omega
theorem Sys2Proof.Laws.Coding.frint : ∀ x0 x1, Statement (.frint x0 x1) := by intros; intro n h; cases h; omega
theorem Sys2Proof.Laws.Coding.fclass : ∀ x0 x1, Statement (.fclass x0 x1) := by intros; intro n h; cases h; omega
theorem Sys2Proof.Laws.Coding.fma : ∀ x0 x1 x2 x3, Statement (.fma x0 x1 x2 x3) := by intros; intro n h; cases h; omega
theorem Sys2Proof.Laws.Coding.fms : ∀ x0 x1 x2 x3, Statement (.fms x0 x1 x2 x3) := by intros; intro n h; cases h; omega
theorem Sys2Proof.Laws.Coding.nfma : ∀ x0 x1 x2 x3, Statement (.nfma x0 x1 x2 x3) := by intros; intro n h; cases h; omega
theorem Sys2Proof.Laws.Coding.nfms : ∀ x0 x1 x2 x3, Statement (.nfms x0 x1 x2 x3) := by intros; intro n h; cases h; omega
theorem Sys2Proof.Laws.Coding.fcmpEq : ∀ x0 x1 x2 x3 x4, Statement (.fcmpEq x0 x1 x2 x3 x4) := by intros; intro n h; cases h; omega
theorem Sys2Proof.Laws.Coding.fcmpNe : ∀ x0 x1 x2 x3 x4, Statement (.fcmpNe x0 x1 x2 x3 x4) := by intros; intro n h; cases h; omega
theorem Sys2Proof.Laws.Coding.fcmpLt : ∀ x0 x1 x2 x3 x4, Statement (.fcmpLt x0 x1 x2 x3 x4) := by intros; intro n h; cases h; omega
theorem Sys2Proof.Laws.Coding.fcmpLe : ∀ x0 x1 x2 x3 x4, Statement (.fcmpLe x0 x1 x2 x3 x4) := by intros; intro n h; cases h; omega
theorem Sys2Proof.Laws.Coding.fcmpUnord : ∀ x0 x1 x2 x3 x4, Statement (.fcmpUnord x0 x1 x2 x3 x4) := by intros; intro n h; cases h; omega
theorem Sys2Proof.Laws.Coding.fcmpOrd : ∀ x0 x1 x2 x3 x4, Statement (.fcmpOrd x0 x1 x2 x3 x4) := by intros; intro n h; cases h; omega
theorem Sys2Proof.Laws.Coding.frcp : ∀ x0 x1, Statement (.frcp x0 x1) := by intros; intro n h; cases h; omega
theorem Sys2Proof.Laws.Coding.frsq : ∀ x0 x1, Statement (.frsq x0 x1) := by intros; intro n h; cases h; omega
theorem Sys2Proof.Laws.Coding.fsqrt : ∀ x0 x1, Statement (.fsqrt x0 x1) := by intros; intro n h; cases h; omega
theorem Sys2Proof.Laws.Coding.fex2 : ∀ x0 x1, Statement (.fex2 x0 x1) := by intros; intro n h; cases h; omega
theorem Sys2Proof.Laws.Coding.flg2 : ∀ x0 x1, Statement (.flg2 x0 x1) := by intros; intro n h; cases h; omega
theorem Sys2Proof.Laws.Coding.fsinp : ∀ x0 x1, Statement (.fsinp x0 x1) := by intros; intro n h; cases h; omega
theorem Sys2Proof.Laws.Coding.fcosp : ∀ x0 x1, Statement (.fcosp x0 x1) := by intros; intro n h; cases h; omega
theorem Sys2Proof.Laws.Coding.ftanh : ∀ x0 x1, Statement (.ftanh x0 x1) := by intros; intro n h; cases h; omega
theorem Sys2Proof.Laws.Coding.fdiv : ∀ x0 x1 x2, Statement (.fdiv x0 x1 x2) := by intros; intro n h; cases h; omega
theorem Sys2Proof.Laws.Coding.cvtF32S32 : ∀ x0 x1 x2, Statement (.cvtF32S32 x0 x1 x2) := by intros; intro n h; cases h; omega
theorem Sys2Proof.Laws.Coding.cvtF32N32 : ∀ x0 x1 x2, Statement (.cvtF32N32 x0 x1 x2) := by intros; intro n h; cases h; omega
theorem Sys2Proof.Laws.Coding.cvtS32F32 : ∀ x0 x1 x2, Statement (.cvtS32F32 x0 x1 x2) := by intros; intro n h; cases h; omega
theorem Sys2Proof.Laws.Coding.cvtN32F32 : ∀ x0 x1 x2, Statement (.cvtN32F32 x0 x1 x2) := by intros; intro n h; cases h; omega
theorem Sys2Proof.Laws.Coding.cvtF32F16 : ∀ x0 x1 x2 x3 x4, Statement (.cvtF32F16 x0 x1 x2 x3 x4) := by intros; intro n h; cases h; omega
theorem Sys2Proof.Laws.Coding.cvtF16F32 : ∀ x0 x1, Statement (.cvtF16F32 x0 x1) := by intros; intro n h; cases h; omega
theorem Sys2Proof.Laws.Coding.cvtF32Bf16 : ∀ x0 x1 x2 x3 x4, Statement (.cvtF32Bf16 x0 x1 x2 x3 x4) := by intros; intro n h; cases h; omega
theorem Sys2Proof.Laws.Coding.cvtBf16F32 : ∀ x0 x1, Statement (.cvtBf16F32 x0 x1) := by intros; intro n h; cases h; omega
theorem Sys2Proof.Laws.Coding.cvtF32E4m3 : ∀ x0 x1 x2 x3 x4, Statement (.cvtF32E4m3 x0 x1 x2 x3 x4) := by intros; intro n h; cases h; omega
theorem Sys2Proof.Laws.Coding.cvtF32E5m2 : ∀ x0 x1 x2 x3 x4, Statement (.cvtF32E5m2 x0 x1 x2 x3 x4) := by intros; intro n h; cases h; omega
theorem Sys2Proof.Laws.Coding.cvtE4m3F32 : ∀ x0 x1, Statement (.cvtE4m3F32 x0 x1) := by intros; intro n h; cases h; omega
theorem Sys2Proof.Laws.Coding.cvtE5m2F32 : ∀ x0 x1, Statement (.cvtE5m2F32 x0 x1) := by intros; intro n h; cases h; omega
theorem Sys2Proof.Laws.Coding.cvtF32E2m3 : ∀ x0 x1 x2 x3 x4, Statement (.cvtF32E2m3 x0 x1 x2 x3 x4) := by intros; intro n h; cases h; omega
theorem Sys2Proof.Laws.Coding.cvtF32E3m2 : ∀ x0 x1 x2 x3 x4, Statement (.cvtF32E3m2 x0 x1 x2 x3 x4) := by intros; intro n h; cases h; omega
theorem Sys2Proof.Laws.Coding.cvtE2m3F32 : ∀ x0 x1, Statement (.cvtE2m3F32 x0 x1) := by intros; intro n h; cases h; omega
theorem Sys2Proof.Laws.Coding.cvtE3m2F32 : ∀ x0 x1, Statement (.cvtE3m2F32 x0 x1) := by intros; intro n h; cases h; omega
theorem Sys2Proof.Laws.Coding.cvtF32E2m1 : ∀ x0 x1 x2 x3 x4, Statement (.cvtF32E2m1 x0 x1 x2 x3 x4) := by intros; intro n h; cases h; omega
theorem Sys2Proof.Laws.Coding.cvtE2m1F32 : ∀ x0 x1, Statement (.cvtE2m1F32 x0 x1) := by intros; intro n h; cases h; omega
theorem Sys2Proof.Laws.Coding.cvtF32F64 : ∀ x0 x1, Statement (.cvtF32F64 x0 x1) := by intros; intro n h; cases h; omega
theorem Sys2Proof.Laws.Coding.cvtF64F32 : ∀ x0 x1 x2 x3, Statement (.cvtF64F32 x0 x1 x2 x3) := by intros; intro n h; cases h; omega
theorem Sys2Proof.Laws.Coding.cvtF64S64 : ∀ x0 x1 x2, Statement (.cvtF64S64 x0 x1 x2) := by intros; intro n h; cases h; omega
theorem Sys2Proof.Laws.Coding.cvtS64F64 : ∀ x0 x1 x2, Statement (.cvtS64F64 x0 x1 x2) := by intros; intro n h; cases h; omega
theorem Sys2Proof.Laws.Coding.cvtF32S64 : ∀ x0 x1 x2, Statement (.cvtF32S64 x0 x1 x2) := by intros; intro n h; cases h; omega
theorem Sys2Proof.Laws.Coding.cvtE8m0F32 : ∀ x0 x1, Statement (.cvtE8m0F32 x0 x1) := by intros; intro n h; cases h; omega
theorem Sys2Proof.Laws.Coding.cvtF32E8m0 : ∀ x0 x1 x2 x3 x4, Statement (.cvtF32E8m0 x0 x1 x2 x3 x4) := by intros; intro n h; cases h; omega
theorem Sys2Proof.Laws.Coding.cvtS32S8 : ∀ x0 x1, Statement (.cvtS32S8 x0 x1) := by intros; intro n h; cases h; omega
theorem Sys2Proof.Laws.Coding.hadd2 : ∀ x0 x1 x2 x3, Statement (.hadd2 x0 x1 x2 x3) := by intros; intro n h; cases h; omega
theorem Sys2Proof.Laws.Coding.hsub2 : ∀ x0 x1 x2 x3, Statement (.hsub2 x0 x1 x2 x3) := by intros; intro n h; cases h; omega
theorem Sys2Proof.Laws.Coding.hmul2 : ∀ x0 x1 x2 x3, Statement (.hmul2 x0 x1 x2 x3) := by intros; intro n h; cases h; omega
theorem Sys2Proof.Laws.Coding.hmin2 : ∀ x0 x1 x2 x3, Statement (.hmin2 x0 x1 x2 x3) := by intros; intro n h; cases h; omega
theorem Sys2Proof.Laws.Coding.hmax2 : ∀ x0 x1 x2 x3, Statement (.hmax2 x0 x1 x2 x3) := by intros; intro n h; cases h; omega
theorem Sys2Proof.Laws.Coding.dadd : ∀ x0 x1 x2, Statement (.dadd x0 x1 x2) := by intros; intro n h; cases h; omega
theorem Sys2Proof.Laws.Coding.dsub : ∀ x0 x1 x2, Statement (.dsub x0 x1 x2) := by intros; intro n h; cases h; omega
theorem Sys2Proof.Laws.Coding.dmul : ∀ x0 x1 x2, Statement (.dmul x0 x1 x2) := by intros; intro n h; cases h; omega
theorem Sys2Proof.Laws.Coding.dmin : ∀ x0 x1 x2, Statement (.dmin x0 x1 x2) := by intros; intro n h; cases h; omega
theorem Sys2Proof.Laws.Coding.dmax : ∀ x0 x1 x2, Statement (.dmax x0 x1 x2) := by intros; intro n h; cases h; omega
theorem Sys2Proof.Laws.Coding.ddiv : ∀ x0 x1 x2, Statement (.ddiv x0 x1 x2) := by intros; intro n h; cases h; omega
theorem Sys2Proof.Laws.Coding.wredAddF32 : ∀ x0 x1, Statement (.wredAddF32 x0 x1) := by intros; intro n h; cases h; omega
theorem Sys2Proof.Laws.Coding.wredAddS32 : ∀ x0 x1, Statement (.wredAddS32 x0 x1) := by intros; intro n h; cases h; omega
theorem Sys2Proof.Laws.Coding.wredMinF32 : ∀ x0 x1, Statement (.wredMinF32 x0 x1) := by intros; intro n h; cases h; omega
theorem Sys2Proof.Laws.Coding.wredMaxF32 : ∀ x0 x1, Statement (.wredMaxF32 x0 x1) := by intros; intro n h; cases h; omega
theorem Sys2Proof.Laws.Coding.wredMinS32 : ∀ x0 x1, Statement (.wredMinS32 x0 x1) := by intros; intro n h; cases h; omega
theorem Sys2Proof.Laws.Coding.wredMaxS32 : ∀ x0 x1, Statement (.wredMaxS32 x0 x1) := by intros; intro n h; cases h; omega
theorem Sys2Proof.Laws.Coding.wredAnd : ∀ x0 x1, Statement (.wredAnd x0 x1) := by intros; intro n h; cases h; omega
theorem Sys2Proof.Laws.Coding.wredOr : ∀ x0 x1, Statement (.wredOr x0 x1) := by intros; intro n h; cases h; omega
theorem Sys2Proof.Laws.Coding.wscanAddF32 : ∀ x0 x1, Statement (.wscanAddF32 x0 x1) := by intros; intro n h; cases h; omega
theorem Sys2Proof.Laws.Coding.wscanAddS32 : ∀ x0 x1, Statement (.wscanAddS32 x0 x1) := by intros; intro n h; cases h; omega
theorem Sys2Proof.Laws.Coding.shflIdx : ∀ x0 x1 x2, Statement (.shflIdx x0 x1 x2) := by intros; intro n h; cases h; omega
theorem Sys2Proof.Laws.Coding.shflUp : ∀ x0 x1 x2, Statement (.shflUp x0 x1 x2) := by intros; intro n h; cases h; omega
theorem Sys2Proof.Laws.Coding.shflDown : ∀ x0 x1 x2, Statement (.shflDown x0 x1 x2) := by intros; intro n h; cases h; omega
theorem Sys2Proof.Laws.Coding.shflXor : ∀ x0 x1 x2, Statement (.shflXor x0 x1 x2) := by intros; intro n h; cases h; omega
theorem Sys2Proof.Laws.Coding.wvoteAny : ∀ x0 x1, Statement (.wvoteAny x0 x1) := by intros; intro n h; cases h; omega
theorem Sys2Proof.Laws.Coding.wvoteAll : ∀ x0 x1, Statement (.wvoteAll x0 x1) := by intros; intro n h; cases h; omega
theorem Sys2Proof.Laws.Coding.wballot : ∀ x0 x1, Statement (.wballot x0 x1) := by intros; intro n h; cases h; omega
theorem Sys2Proof.Laws.Coding.wbcast : ∀ x0 x1 x2, Statement (.wbcast x0 x1 x2) := by intros; intro n h; cases h; omega
theorem Sys2Proof.Laws.Coding.wgetl : ∀ x0 x1 x2, Statement (.wgetl x0 x1 x2) := by intros; intro n h; cases h; omega
theorem Sys2Proof.Laws.Coding.wsetl : ∀ x0 x1 x2, Statement (.wsetl x0 x1 x2) := by intros; intro n h; cases h; omega
theorem Sys2Proof.Laws.Coding.mand : ∀ x0 x1 x2, Statement (.mand x0 x1 x2) := by intros; intro n h; cases h; omega
theorem Sys2Proof.Laws.Coding.mor : ∀ x0 x1 x2, Statement (.mor x0 x1 x2) := by intros; intro n h; cases h; omega
theorem Sys2Proof.Laws.Coding.mxor : ∀ x0 x1 x2, Statement (.mxor x0 x1 x2) := by intros; intro n h; cases h; omega
theorem Sys2Proof.Laws.Coding.mandn : ∀ x0 x1 x2, Statement (.mandn x0 x1 x2) := by intros; intro n h; cases h; omega
theorem Sys2Proof.Laws.Coding.mnot : ∀ x0 x1, Statement (.mnot x0 x1) := by intros; intro n h; cases h; omega
theorem Sys2Proof.Laws.Coding.mmov : ∀ x0 x1, Statement (.mmov x0 x1) := by intros; intro n h; cases h; omega
theorem Sys2Proof.Laws.Coding.mpopc : ∀ x0 x1, Statement (.mpopc x0 x1) := by intros; intro n h; cases h; omega
theorem Sys2Proof.Laws.Coding.mffs : ∀ x0 x1, Statement (.mffs x0 x1) := by intros; intro n h; cases h; omega
theorem Sys2Proof.Laws.Coding.msave : ∀ x0, Statement (.msave x0) := by intros; intro n h; cases h; omega
theorem Sys2Proof.Laws.Coding.mrest : ∀ x0, Statement (.mrest x0) := by intros; intro n h; cases h; omega
theorem Sys2Proof.Laws.Coding.mset : ∀ x0, Statement (.mset x0) := by intros; intro n h; cases h; omega
theorem Sys2Proof.Laws.Coding.mclr : ∀ x0, Statement (.mclr x0) := by intros; intro n h; cases h; omega
theorem Sys2Proof.Laws.Coding.mtos : ∀ x0 x1, Statement (.mtos x0 x1) := by intros; intro n h; cases h; omega
theorem Sys2Proof.Laws.Coding.mfrs : ∀ x0 x1, Statement (.mfrs x0 x1) := by intros; intro n h; cases h; omega
theorem Sys2Proof.Laws.Coding.sbind : ∀ x0 x1, Statement (.sbind x0 x1) := by intros; intro n h; cases h; omega
theorem Sys2Proof.Laws.Coding.sskip : ∀ x0 x1, Statement (.sskip x0 x1) := by intros; intro n h; cases h; omega
theorem Sys2Proof.Laws.Coding.sflag : ∀ x0 x1, Statement (.sflag x0 x1) := by intros; intro n h; cases h; omega
theorem Sys2Proof.Laws.Coding.sunb : ∀ x0, Statement (.sunb x0) := by intros; intro n h; cases h; omega
theorem Sys2Proof.Laws.Coding.spos : ∀ x0 x1, Statement (.spos x0 x1) := by intros; intro n h; cases h; omega
theorem Sys2Proof.Laws.Coding.waitc : ∀ x0 x1 x2 x3, Statement (.waitc x0 x1 x2 x3) := by intros; intro n h; cases h; omega
theorem Sys2Proof.Laws.Coding.bra : ∀ x0, Statement (.bra x0) := by intros; intro n h; cases h; omega
theorem Sys2Proof.Laws.Coding.call : ∀ x0, Statement (.call x0) := by intros; intro n h; cases h; omega
theorem Sys2Proof.Laws.Coding.brc : ∀ x0 x1 x2, Statement (.brc x0 x1 x2) := by intros; intro n h; cases h; omega
theorem Sys2Proof.Laws.Coding.brdT : ∀ x0 x1, Statement (.brdT x0 x1) := by intros; intro n h; cases h; omega
theorem Sys2Proof.Laws.Coding.brdF : ∀ x0 x1, Statement (.brdF x0 x1) := by intros; intro n h; cases h; omega
theorem Sys2Proof.Laws.Coding.bany : ∀ x0 x1, Statement (.bany x0 x1) := by intros; intro n h; cases h; omega
theorem Sys2Proof.Laws.Coding.ball : ∀ x0 x1, Statement (.ball x0 x1) := by intros; intro n h; cases h; omega
theorem Sys2Proof.Laws.Coding.bnone : ∀ x0 x1, Statement (.bnone x0 x1) := by intros; intro n h; cases h; omega
theorem Sys2Proof.Laws.Coding.beodSet : ∀ x0 x1 x2, Statement (.beodSet x0 x1 x2) := by intros; intro n h; cases h; omega
theorem Sys2Proof.Laws.Coding.beodClr : ∀ x0 x1 x2, Statement (.beodClr x0 x1 x2) := by intros; intro n h; cases h; omega
theorem Sys2Proof.Laws.Coding.jmp : ∀ x0, Statement (.jmp x0) := by intros; intro n h; cases h; omega
theorem Sys2Proof.Laws.Coding.callr : ∀ x0, Statement (.callr x0) := by intros; intro n h; cases h; omega
theorem Sys2Proof.Laws.Coding.ret : Statement (.ret) := by intro n h; cases h; omega
theorem Sys2Proof.Laws.Coding.ldb : ∀ x0 x1 x2, Statement (.ldb x0 x1 x2) := by intros; intro n h; cases h; omega
theorem Sys2Proof.Laws.Coding.ldbs : ∀ x0 x1 x2, Statement (.ldbs x0 x1 x2) := by intros; intro n h; cases h; omega
theorem Sys2Proof.Laws.Coding.ldh : ∀ x0 x1 x2, Statement (.ldh x0 x1 x2) := by intros; intro n h; cases h; omega
theorem Sys2Proof.Laws.Coding.ldhs : ∀ x0 x1 x2, Statement (.ldhs x0 x1 x2) := by intros; intro n h; cases h; omega
theorem Sys2Proof.Laws.Coding.ldw : ∀ x0 x1 x2, Statement (.ldw x0 x1 x2) := by intros; intro n h; cases h; omega
theorem Sys2Proof.Laws.Coding.ldd : ∀ x0 x1 x2, Statement (.ldd x0 x1 x2) := by intros; intro n h; cases h; omega
theorem Sys2Proof.Laws.Coding.ldq : ∀ x0 x1 x2, Statement (.ldq x0 x1 x2) := by intros; intro n h; cases h; omega
theorem Sys2Proof.Laws.Coding.stb : ∀ x0 x1 x2, Statement (.stb x0 x1 x2) := by intros; intro n h; cases h; omega
theorem Sys2Proof.Laws.Coding.sth : ∀ x0 x1 x2, Statement (.sth x0 x1 x2) := by intros; intro n h; cases h; omega
theorem Sys2Proof.Laws.Coding.stw : ∀ x0 x1 x2, Statement (.stw x0 x1 x2) := by intros; intro n h; cases h; omega
theorem Sys2Proof.Laws.Coding.std : ∀ x0 x1 x2, Statement (.std x0 x1 x2) := by intros; intro n h; cases h; omega
theorem Sys2Proof.Laws.Coding.stq : ∀ x0 x1 x2, Statement (.stq x0 x1 x2) := by intros; intro n h; cases h; omega
theorem Sys2Proof.Laws.Coding.ldo : ∀ x0 x1 x2 x3 x4, Statement (.ldo x0 x1 x2 x3 x4) := by intros; intro n h; cases h; omega
theorem Sys2Proof.Laws.Coding.sto : ∀ x0 x1 x2 x3 x4, Statement (.sto x0 x1 x2 x3 x4) := by intros; intro n h; cases h; omega
theorem Sys2Proof.Laws.Coding.atomAdd : ∀ x0 x1 x2 x3 x4, Statement (.atomAdd x0 x1 x2 x3 x4) := by intros; intro n h; cases h; omega
theorem Sys2Proof.Laws.Coding.atomMins : ∀ x0 x1 x2 x3 x4, Statement (.atomMins x0 x1 x2 x3 x4) := by intros; intro n h; cases h; omega
theorem Sys2Proof.Laws.Coding.atomMinn : ∀ x0 x1 x2 x3 x4, Statement (.atomMinn x0 x1 x2 x3 x4) := by intros; intro n h; cases h; omega
theorem Sys2Proof.Laws.Coding.atomMaxs : ∀ x0 x1 x2 x3 x4, Statement (.atomMaxs x0 x1 x2 x3 x4) := by intros; intro n h; cases h; omega
theorem Sys2Proof.Laws.Coding.atomMaxn : ∀ x0 x1 x2 x3 x4, Statement (.atomMaxn x0 x1 x2 x3 x4) := by intros; intro n h; cases h; omega
theorem Sys2Proof.Laws.Coding.atomAnd : ∀ x0 x1 x2 x3 x4, Statement (.atomAnd x0 x1 x2 x3 x4) := by intros; intro n h; cases h; omega
theorem Sys2Proof.Laws.Coding.atomOr : ∀ x0 x1 x2 x3 x4, Statement (.atomOr x0 x1 x2 x3 x4) := by intros; intro n h; cases h; omega
theorem Sys2Proof.Laws.Coding.atomXor : ∀ x0 x1 x2 x3 x4, Statement (.atomXor x0 x1 x2 x3 x4) := by intros; intro n h; cases h; omega
theorem Sys2Proof.Laws.Coding.atomExch : ∀ x0 x1 x2 x3 x4, Statement (.atomExch x0 x1 x2 x3 x4) := by intros; intro n h; cases h; omega
theorem Sys2Proof.Laws.Coding.atomCas : ∀ x0 x1 x2 x3 x4, Statement (.atomCas x0 x1 x2 x3 x4) := by intros; intro n h; cases h; omega
theorem Sys2Proof.Laws.Coding.atomFadd : ∀ x0 x1 x2 x3 x4, Statement (.atomFadd x0 x1 x2 x3 x4) := by intros; intro n h; cases h; omega
theorem Sys2Proof.Laws.Coding.atomFmin : ∀ x0 x1 x2 x3 x4, Statement (.atomFmin x0 x1 x2 x3 x4) := by intros; intro n h; cases h; omega
theorem Sys2Proof.Laws.Coding.atomFmax : ∀ x0 x1 x2 x3 x4, Statement (.atomFmax x0 x1 x2 x3 x4) := by intros; intro n h; cases h; omega
theorem Sys2Proof.Laws.Coding.redAdd : ∀ x0 x1 x2 x3 x4, Statement (.redAdd x0 x1 x2 x3 x4) := by intros; intro n h; cases h; omega
theorem Sys2Proof.Laws.Coding.redMins : ∀ x0 x1 x2 x3 x4, Statement (.redMins x0 x1 x2 x3 x4) := by intros; intro n h; cases h; omega
theorem Sys2Proof.Laws.Coding.redMinn : ∀ x0 x1 x2 x3 x4, Statement (.redMinn x0 x1 x2 x3 x4) := by intros; intro n h; cases h; omega
theorem Sys2Proof.Laws.Coding.redMaxs : ∀ x0 x1 x2 x3 x4, Statement (.redMaxs x0 x1 x2 x3 x4) := by intros; intro n h; cases h; omega
theorem Sys2Proof.Laws.Coding.redMaxn : ∀ x0 x1 x2 x3 x4, Statement (.redMaxn x0 x1 x2 x3 x4) := by intros; intro n h; cases h; omega
theorem Sys2Proof.Laws.Coding.redAnd : ∀ x0 x1 x2 x3 x4, Statement (.redAnd x0 x1 x2 x3 x4) := by intros; intro n h; cases h; omega
theorem Sys2Proof.Laws.Coding.redOr : ∀ x0 x1 x2 x3 x4, Statement (.redOr x0 x1 x2 x3 x4) := by intros; intro n h; cases h; omega
theorem Sys2Proof.Laws.Coding.redXor : ∀ x0 x1 x2 x3 x4, Statement (.redXor x0 x1 x2 x3 x4) := by intros; intro n h; cases h; omega
theorem Sys2Proof.Laws.Coding.redFadd : ∀ x0 x1 x2 x3 x4, Statement (.redFadd x0 x1 x2 x3 x4) := by intros; intro n h; cases h; omega
theorem Sys2Proof.Laws.Coding.redFmin : ∀ x0 x1 x2 x3 x4, Statement (.redFmin x0 x1 x2 x3 x4) := by intros; intro n h; cases h; omega
theorem Sys2Proof.Laws.Coding.redFmax : ∀ x0 x1 x2 x3 x4, Statement (.redFmax x0 x1 x2 x3 x4) := by intros; intro n h; cases h; omega
theorem Sys2Proof.Laws.Coding.fence : ∀ x0 x1, Statement (.fence x0 x1) := by intros; intro n h; cases h; omega
theorem Sys2Proof.Laws.Coding.pref : ∀ x0, Statement (.pref x0) := by intros; intro n h; cases h; omega
theorem Sys2Proof.Laws.Coding.wbk : ∀ x0, Statement (.wbk x0) := by intros; intro n h; cases h; omega
theorem Sys2Proof.Laws.Coding.invl : ∀ x0, Statement (.invl x0) := by intros; intro n h; cases h; omega
theorem Sys2Proof.Laws.Coding.spempty : ∀ x0 x1, Statement (.spempty x0 x1) := by intros; intro n h; cases h; omega
theorem Sys2Proof.Laws.Coding.spfull : ∀ x0 x1, Statement (.spfull x0 x1) := by intros; intro n h; cases h; omega
theorem Sys2Proof.Laws.Coding.spqry : ∀ x0 x1, Statement (.spqry x0 x1) := by intros; intro n h; cases h; omega
theorem Sys2Proof.Laws.Coding.binit : ∀ x0 x1, Statement (.binit x0 x1) := by intros; intro n h; cases h; omega
theorem Sys2Proof.Laws.Coding.barv : ∀ x0 x1, Statement (.barv x0 x1) := by intros; intro n h; cases h; omega
theorem Sys2Proof.Laws.Coding.bexp : ∀ x0 x1, Statement (.bexp x0 x1) := by intros; intro n h; cases h; omega
theorem Sys2Proof.Laws.Coding.bwait : ∀ x0 x1 x2, Statement (.bwait x0 x1 x2) := by intros; intro n h; cases h; omega
theorem Sys2Proof.Laws.Coding.btry : ∀ x0 x1 x2, Statement (.btry x0 x1 x2) := by intros; intro n h; cases h; omega
theorem Sys2Proof.Laws.Coding.bqry : ∀ x0 x1, Statement (.bqry x0 x1) := by intros; intro n h; cases h; omega
theorem Sys2Proof.Laws.Coding.barx : ∀ x0 x1, Statement (.barx x0 x1) := by intros; intro n h; cases h; omega
theorem Sys2Proof.Laws.Coding.bclr : ∀ x0, Statement (.bclr x0) := by intros; intro n h; cases h; omega
theorem Sys2Proof.Laws.Coding.xstW : ∀ x0 x1, Statement (.xstW x0 x1) := by intros; intro n h; cases h; omega
theorem Sys2Proof.Laws.Coding.xstD : ∀ x0 x1, Statement (.xstD x0 x1) := by intros; intro n h; cases h; omega
theorem Sys2Proof.Laws.Coding.cpyin : ∀ x0 x1 x2, Statement (.cpyin x0 x1 x2) := by intros; intro n h; cases h; omega
theorem Sys2Proof.Laws.Coding.cpyout : ∀ x0 x1 x2, Statement (.cpyout x0 x1 x2) := by intros; intro n h; cases h; omega
theorem Sys2Proof.Laws.Coding.cpyss : ∀ x0 x1 x2, Statement (.cpyss x0 x1 x2) := by intros; intro n h; cases h; omega
theorem Sys2Proof.Laws.Coding.ppush : ∀ x0 x1 x2, Statement (.ppush x0 x1 x2) := by intros; intro n h; cases h; omega
theorem Sys2Proof.Laws.Coding.ppull : ∀ x0 x1 x2, Statement (.ppull x0 x1 x2) := by intros; intro n h; cases h; omega
theorem Sys2Proof.Laws.Coding.coll : ∀ x0 x1 x2, Statement (.coll x0 x1 x2) := by intros; intro n h; cases h; omega
theorem Sys2Proof.Laws.Coding.cpyg : ∀ x0 x1 x2, Statement (.cpyg x0 x1 x2) := by intros; intro n h; cases h; omega
theorem Sys2Proof.Laws.Coding.cpqry : ∀ x0 x1, Statement (.cpqry x0 x1) := by intros; intro n h; cases h; omega
theorem Sys2Proof.Laws.Coding.gang : ∀ x0, Statement (.gang x0) := by intros; intro n h; cases h; omega
theorem Sys2Proof.Laws.Coding.vacq : Statement (.vacq) := by intro n h; cases h; omega
theorem Sys2Proof.Laws.Coding.vrel : Statement (.vrel) := by intro n h; cases h; omega
theorem Sys2Proof.Laws.Coding.wload : ∀ x0, Statement (.wload x0) := by intros; intro n h; cases h; omega
theorem Sys2Proof.Laws.Coding.wswap : Statement (.wswap) := by intro n h; cases h; omega
theorem Sys2Proof.Laws.Coding.mma : ∀ x0 x1 x2, Statement (.mma x0 x1 x2) := by intros; intro n h; cases h; omega
theorem Sys2Proof.Laws.Coding.mmac : ∀ x0 x1 x2, Statement (.mmac x0 x1 x2) := by intros; intro n h; cases h; omega
theorem Sys2Proof.Laws.Coding.mzero : ∀ x0, Statement (.mzero x0) := by intros; intro n h; cases h; omega
theorem Sys2Proof.Laws.Coding.mdrain : ∀ x0 x1, Statement (.mdrain x0 x1) := by intros; intro n h; cases h; omega
theorem Sys2Proof.Laws.Coding.mqry : ∀ x0 x1, Statement (.mqry x0 x1) := by intros; intro n h; cases h; omega
theorem Sys2Proof.Laws.Coding.prsv : ∀ x0 x1, Statement (.prsv x0 x1) := by intros; intro n h; cases h; omega
theorem Sys2Proof.Laws.Coding.pcmt : ∀ x0 x1, Statement (.pcmt x0 x1) := by intros; intro n h; cases h; omega
theorem Sys2Proof.Laws.Coding.crsv : ∀ x0 x1, Statement (.crsv x0 x1) := by intros; intro n h; cases h; omega
theorem Sys2Proof.Laws.Coding.crel : ∀ x0 x1, Statement (.crel x0 x1) := by intros; intro n h; cases h; omega
theorem Sys2Proof.Laws.Coding.pseal : ∀ x0, Statement (.pseal x0) := by intros; intro n h; cases h; omega
theorem Sys2Proof.Laws.Coding.pqry : ∀ x0 x1 x2, Statement (.pqry x0 x1 x2) := by intros; intro n h; cases h; omega
theorem Sys2Proof.Laws.Coding.lsub : ∀ x0 x1 x2, Statement (.lsub x0 x1 x2) := by intros; intro n h; cases h; omega
theorem Sys2Proof.Laws.Coding.lseal : ∀ x0 x1 x2, Statement (.lseal x0 x1 x2) := by intros; intro n h; cases h; omega
theorem Sys2Proof.Laws.Coding.lpass : ∀ x0 x1 x2, Statement (.lpass x0 x1 x2) := by intros; intro n h; cases h; omega
theorem Sys2Proof.Laws.Coding.hmrg : ∀ x0 x1, Statement (.hmrg x0 x1) := by intros; intro n h; cases h; omega
theorem Sys2Proof.Laws.Coding.hget : ∀ x0 x1 x2, Statement (.hget x0 x1 x2) := by intros; intro n h; cases h; omega
theorem Sys2Proof.Laws.Coding.hrel : ∀ x0 x1, Statement (.hrel x0 x1) := by intros; intro n h; cases h; omega
theorem Sys2Proof.Laws.Coding.lqry : ∀ x0 x1 x2, Statement (.lqry x0 x1 x2) := by intros; intro n h; cases h; omega
theorem Sys2Proof.Laws.Coding.rinv : ∀ x0 x1 x2, Statement (.rinv x0 x1 x2) := by intros; intro n h; cases h; omega
theorem Sys2Proof.Laws.Coding.rinvh : ∀ x0 x1 x2, Statement (.rinvh x0 x1 x2) := by intros; intro n h; cases h; omega
theorem Sys2Proof.Laws.Coding.hres : ∀ x0 x1, Statement (.hres x0 x1) := by intros; intro n h; cases h; omega
theorem Sys2Proof.Laws.Coding.hdrop : ∀ x0, Statement (.hdrop x0) := by intros; intro n h; cases h; omega
theorem Sys2Proof.Laws.Coding.rret : ∀ x0 x1, Statement (.rret x0 x1) := by intros; intro n h; cases h; omega
theorem Sys2Proof.Laws.Coding.tspawn : ∀ x0 x1, Statement (.tspawn x0 x1) := by intros; intro n h; cases h; omega
theorem Sys2Proof.Laws.Coding.jcan : ∀ x0 x1 x2, Statement (.jcan x0 x1 x2) := by intros; intro n h; cases h; omega
theorem Sys2Proof.Laws.Coding.sigdec : ∀ x0 x1, Statement (.sigdec x0 x1) := by intros; intro n h; cases h; omega
theorem Sys2Proof.Laws.Coding.sigwait : ∀ x0 x1 x2, Statement (.sigwait x0 x1 x2) := by intros; intro n h; cases h; omega
theorem Sys2Proof.Laws.Coding.sigadd : ∀ x0 x1, Statement (.sigadd x0 x1) := by intros; intro n h; cases h; omega
theorem Sys2Proof.Laws.Coding.plnch : ∀ x0 x1 x2, Statement (.plnch x0 x1 x2) := by intros; intro n h; cases h; omega
end

