-- ==== Sys2Proof/Laws/Runners.lean ====
section
/-! SUPPORT. What the shared runners of the instructions do, each said once: gates of a settled agent, register
instructions, compares, mask and wave instructions. -/

namespace Sys2Proof.Machine

-- Gates of a settled agent ------------------------------------------------------------------------------------------------

theorem State.ready_traps {s : State} (h : s.ready = true) : s.me.traps = [] := by
  simp [State.ready, Agent.settled] at h; exact h.1.1.1.1.1
theorem State.ready_regWait {s : State} (h : s.ready = true) : s.me.regWait = [] := by
  simp [State.ready, Agent.settled] at h; exact h.1.1.1.1.2
theorem State.ready_faults {s : State} (h : s.ready = true) : s.me.faults = [] := by
  simp [State.ready, Agent.settled] at h; exact h.1.1.1.2
theorem State.ready_memParked {s : State} (h : s.ready = true) : s.me.memParked = false := by
  simp [State.ready, Agent.settled] at h; exact h.1.1.2
theorem State.ready_vbad {s : State} (h : s.ready = true) : s.me.vbad = [] := by
  simp [State.ready, Agent.settled] at h; exact h.1.2
theorem State.ready_latch {s : State} (h : s.ready = true) : s.myPart.latch = none := by
  simp [State.ready, Agent.settled] at h; exact h.2

/-- A part that has not issued reads the agent's scalars. -/
theorem State.sreg_ready {s : State} (h : s.ready = true) (n : Nat) : s.sreg n = s.me.sget n := by
  simp [State.sreg, State.ready_latch h]

/-- Without a deferred trap there is none to take. -/
theorem State.takeDeferred_none {s : State} (h : s.me.traps = []) (f : Deferred → Bool) : s.takeDeferred f = none := by
  simp [State.takeDeferred, h]

/-- A settled agent stands at no trap, and reads no uncorrectable register. -/
theorem State.trapGate_ok {s : State} (h : s.ready = true) (here : Deferred → Bool) (reads : List Opnd) :
    s.trapGate here reads = .ok () := by
  simp [State.trapGate, State.takeDeferred_none (State.ready_traps h)]
theorem State.regGate_ok {s : State} (h : s.ready = true) (reads : List Opnd) : s.regGate reads = .ok () := by
  simp [State.regGate, State.ready_vbad h]

/-- A settled agent passes the interlock, the park of memory issue, and the wait for replays. -/
theorem State.interlock_ok {s : State} (h : s.ready = true) (reads writes : List Opnd) : s.interlock reads writes = .ok () := by
  have hr := State.ready_regWait h
  have hf := State.ready_faults h
  have hk : ∀ ks : List Nat, (ks.any fun k => s.me.pendingKeys.contains k) = false := fun ks =>
    List.any_eq_false.mpr fun k _ => by simp [Agent.pendingKeys, hr, hf]
  simp only [State.interlock, State.trapGate_ok h, State.regGate_ok h, hk]
  rfl
theorem State.memGate_ok {s : State} (h : s.ready = true) : s.memGate = .ok () := by
  simp [State.memGate, Agent.memHeld, State.ready_memParked h, State.ready_faults h]
theorem State.faultGate_ok {s : State} (h : s.ready = true) : s.faultGate = .ok () := by
  simp [State.faultGate, State.ready_faults h]

theorem State.legal_ok {s : State} {ok : Bool} {rs : List Reg} (h : ok = true) (hc : s.me.role = .copy → namesLanes rs = false) :
    s.legal ok rs = .ok () := by
  unfold State.legal
  by_cases hr : s.me.role = .copy
  · simp [h, hr, hc hr]
  · simp [h, hr]
theorem State.notCopy_ok {s : State} (h : s.me.role ≠ .copy) : s.notCopy = .ok () := need_pos (by simp [h]) _
theorem State.onlyCopy_ok {s : State} (h : s.me.role = .copy) : s.onlyCopy = .ok () := need_pos (by simp [h]) _
theorem State.onlyMatrix_ok {s : State} (h : s.me.role = .matrix) : s.onlyMatrix = .ok () := need_pos (by simp [h]) _

/-- Operands without a q register read no stream. -/
theorem State.pullAll_plain (s : State) (vector : Bool) (srcs : List Opnd) (h : ∀ p ∈ srcs, isStream p.1 = false) :
    s.pullAll vector srcs = .ok (s, []) := by
  have : srcs.filter (fun p => isStream p.1) = [] := List.filter_eq_nil_iff.mpr fun p hp => by simp [h p hp]
  simp only [State.pullAll, State.checkStreams, State.streamsOf, this]
  rfl

-- Writes ------------------------------------------------------------------------------------------------------------------

@[simp] theorem Agent.wb_vput (a : Agent) (n w l v : Nat) : (a.vput n w l v).wb = a.wb := by
  unfold Agent.vput
  generalize List.range (max 1 (w / 32)) = xs
  induction xs generalizing a with
  | nil => rfl
  | cons x xs ih => simp only [List.foldl_cons]; rw [ih]; rfl

/-- What is left of an agent when only vector registers are written. -/
theorem Agent.vput_rest (a : Agent) (n w l v : Nat) : a.vput n w l v = { a with v := (a.vput n w l v).v } := by
  unfold Agent.vput
  generalize List.range (max 1 (w / 32)) = xs
  induction xs generalizing a with
  | nil => rfl
  | cons x xs ih => simp only [List.foldl_cons]; rw [ih]; rfl

theorem Agent.vget_vsets (a : Agent) (n lane v : Nat) (k : Nat) (m l : Nat) (hl : l < 64) (hlane : lane < 64) :
    ((List.range k).foldl (fun (b : Agent) i => b.vset (n + i) lane (BitVec.ofNat 32 (v / 2 ^ (32 * i)))) a).vget m l =
      if l = lane ∧ n ≤ m ∧ m < n + k then BitVec.ofNat 32 (v / 2 ^ (32 * (m - n))) else a.vget m l := by
  induction k with
  | zero => rw [if_neg (by omega)]; rfl
  | succ k ih =>
    rw [List.range_succ, List.foldl_append]
    simp only [List.foldl_cons, List.foldl_nil]
    rw [Agent.vget_vset _ _ _ _ _ _ hlane hl, ih]
    by_cases h1 : m = n + k ∧ l = lane
    · rw [if_pos h1, if_pos (by omega)]; congr; omega
    · rw [if_neg h1]
      by_cases h2 : l = lane ∧ n ≤ m ∧ m < n + k
      · rw [if_pos h2, if_pos (by omega)]
      · rw [if_neg h2, if_neg (by omega)]

/-- A result in one lane: the registers of the destination in that lane, and no other. -/
theorem Agent.vget_vput (a : Agent) (n w lane v m l : Nat) (hl : l < 64) (hlane : lane < 64) :
    (a.vput n w lane v).vget m l =
      if l = lane ∧ n ≤ m ∧ m < n + max 1 (w / 32) then BitVec.ofNat 32 (v / 2 ^ (32 * (m - n))) else a.vget m l :=
  Agent.vget_vsets a n lane v _ m l hl hlane

theorem mem_lanesOf {em : BitVec 64} {l : Nat} : l ∈ lanesOf em ↔ l < 64 ∧ em.getLsbD l = true := by
  simp [lanesOf]

theorem lanesOf_nodup (em : BitVec 64) : (lanesOf em).Nodup := List.Nodup.filter _ List.nodup_range

/-- Results in the lanes of a list. -/
theorem Agent.vget_vputs (n w : Nat) (r : Nat → Nat) (ls : List Nat) (hls : ∀ l ∈ ls, l < 64) (a : Agent) (m l : Nat) (hl : l < 64) :
    (ls.foldl (fun (b : Agent) j => b.vput n w j (r j)) a).vget m l =
      if l ∈ ls ∧ n ≤ m ∧ m < n + max 1 (w / 32) then BitVec.ofNat 32 (r l / 2 ^ (32 * (m - n))) else a.vget m l := by
  induction ls generalizing a with
  | nil => simp
  | cons j js ih =>
    simp only [List.foldl_cons]
    rw [ih (fun x hx => hls x (List.mem_cons_of_mem _ hx)), Agent.vget_vput _ _ _ _ _ _ _ hl (hls j (List.mem_cons_self ..))]
    by_cases h1 : l ∈ js ∧ n ≤ m ∧ m < n + max 1 (w / 32)
    · rw [if_pos h1, if_pos ⟨List.mem_cons_of_mem _ h1.1, h1.2⟩]
    · rw [if_neg h1]
      by_cases h2 : l = j ∧ n ≤ m ∧ m < n + max 1 (w / 32)
      · rw [if_pos h2, if_pos ⟨by simp [h2.1], h2.2⟩, h2.1]
      · rw [if_neg h2, if_neg]
        rintro ⟨h3, h4⟩
        rcases List.mem_cons.mp h3 with h5 | h5
        · exact h2 ⟨h5, h4⟩
        · exact h1 ⟨h5, h4⟩

theorem Agent.vputs_rest (n w : Nat) (r : Nat → Nat) (ls : List Nat) (a : Agent) :
    ls.foldl (fun (b : Agent) j => b.vput n w j (r j)) a =
      { a with v := (ls.foldl (fun (b : Agent) j => b.vput n w j (r j)) a).v } := by
  induction ls generalizing a with
  | nil => rfl
  | cons j js ih => simp only [List.foldl_cons]; rw [ih, Agent.vput_rest a]

-- One agent ------------------------------------------------------------------------------------------------------------------

theorem AList.put_put {α : Type} (t : AList α) (k : Nat) (u v : α) : (t.put k u).put k v = t.put k v := by
  induction t with
  | nil => simp [AList.put]
  | cons p rest ih =>
    obtain ⟨c, w⟩ := p
    by_cases h : k < c
    · simp [AList.put, h]
    · by_cases h2 : k = c
      · subst h2; simp [AList.put]
      · simp [AList.put, h, h2, ih]

@[simp] theorem State.setCore_setCore (s : State) (c : Nat) (x y : Core) : (s.setCore c x).setCore c y = s.setCore c y := by
  simp [State.setCore, AList.put_put]
@[simp] theorem State.setAgent_setAgent (s : State) (c k : Nat) (a b : Agent) : (s.setAgent c k a).setAgent c k b = s.setAgent c k b := by
  simp [State.setAgent, State.modCore, AList.put_put]
@[simp] theorem State.setMe_setMe (s : State) (a b : Agent) : (s.setMe a).setMe b = s.setMe b := by
  simp [State.setMe]
@[simp] theorem State.modMe_eq (s : State) (f : Agent → Agent) : s.setMe (f s.me) = s.modMe f := rfl

/-- At most the issuing agent was written. -/
def AtMostMe (s t : State) : Prop := t = s ∨ ∃ a, t = s.setMe a

theorem AtMostMe.refl (s : State) : AtMostMe s s := .inl rfl
theorem AtMostMe.setMe {s t : State} (h : AtMostMe s t) (a : Agent) : AtMostMe s (t.setMe a) := by
  rcases h with rfl | ⟨b, rfl⟩
  · exact .inr ⟨a, rfl⟩
  · exact .inr ⟨a, State.setMe_setMe _ _ _⟩
theorem AtMostMe.modMe {s t : State} (h : AtMostMe s t) (f : Agent → Agent) : AtMostMe s (t.modMe f) := h.setMe _
theorem AtMostMe.cur {s t : State} (h : AtMostMe s t) : t.cur = s.cur := by
  rcases h with rfl | ⟨a, rfl⟩ <;> rfl
theorem AtMostMe.setS {s t : State} (h : AtMostMe s t) (d : Reg) (x : W64) : AtMostMe s (t.setS d x) := by
  unfold State.setS; split
  · exact h.modMe _
  · exact h
theorem AtMostMe.setPair {s t : State} (h : AtMostMe s t) (d : Reg) (x y : W64) : AtMostMe s (t.setPair d x y) := by
  unfold State.setPair; split
  · exact h.modMe _
  · exact h
theorem AtMostMe.raise {s t : State} (h : AtMostMe s t) (f : BitVec 5) : AtMostMe s (t.raise f) := h.modMe _

/-- A write of the issuing agent changes nothing else. -/
theorem AtMostMe.onlyMe_setMe {s t : State} (h : AtMostMe s t) (a : Agent) : OnlyMe s (t.setMe a) := by
  unfold OnlyMe
  rcases h with rfl | ⟨b, rfl⟩ <;> simp
theorem AtMostMe.onlyMe_advance {s t : State} (h : AtMostMe s t) : OnlyMe s t.advance := h.onlyMe_setMe _
theorem AtMostMe.onlyMe_jump {s t : State} (h : AtMostMe s t) (x : W64) : OnlyMe s (t.jump x) := h.onlyMe_setMe _
theorem OnlyMe.atMost {s t : State} (h : OnlyMe s t) : AtMostMe s t := .inr ⟨_, h⟩

theorem AList.find?_put_ne {α : Type} (t : AList α) {k j : Nat} (v : α) (h : j ≠ k) : (t.put k v).find? j = t.find? j := by simp [h]

/-- What `jump` and `advance` do to the parts. -/
theorem WentTo_jump {s t : State} (x : W64) (hc : t.cur = s.cur) (hp : t.me.parts = s.me.parts) : WentTo s (t.jump x) x := by
  have hmy : t.myPart = s.myPart := by unfold State.myPart; rw [hp, hc]
  constructor
  · simp [State.jump, hmy, Part.goOn]
  · intro k hk; simp [State.jump, State.modPart, hc, hp, hk]
theorem Passed_advance {s t : State} (hc : t.cur = s.cur) (hp : t.me.parts = s.me.parts) : Passed s t.advance := by
  have hmy : t.myPart = s.myPart := by unfold State.myPart; rw [hp, hc]
  constructor
  · simp [State.advance, State.pc, hmy, hc, Part.goOn]
  · intro k hk; simp [State.advance, State.modPart, hc, hp, hk]

-- Register instructions ------------------------------------------------------------------------------------------------------

theorem State.me_setS (s : State) (d : Reg) (x : W64) :
    (s.setS d x).me = if isScalar d then s.me.sset (d.toNat - 96) x else s.me := by
  unfold State.setS; split <;> simp
theorem State.setS_eq (s : State) (d : Reg) (x : W64) :
    (s.setS d x) = s ∨ (s.setS d x) = s.modMe fun a => a.sset (d.toNat - 96) x := by
  unfold State.setS; split <;> simp

theorem isScalar_not_isVec {d : Reg} (h : isScalar d = true) : isVec d = false := by
  simp [isScalar, isVec] at *; omega

theorem isScalar_of_isVec {d : Reg} (h : isVec d = true) : isScalar d = false := by
  cases hs : isScalar d with
  | false => rfl
  | true => rw [isScalar_not_isVec hs] at h; cases h

/-- What a write of vector registers leaves uncorrectable (R442): of the agent, its parity words alone may change. -/
theorem State.covered_does (s : State) (d : Reg) (w : Nat) :
    AtMostMe s (s.covered d w) ∧ ∃ vb, (s.covered d w).me = { s.me with vbad := vb } ∧
      ∀ k, k ∈ vb ↔ k ∈ s.me.vbad ∧ ¬(k / 8 ∈ s.me.keysOf (d, w) ∧ s.em.extractLsb' (8 * (k % 8)) 8 = 0xFF#8) := by
  unfold State.covered
  by_cases h : s.me.vbad.isEmpty = true
  · rw [if_pos h]
    refine ⟨.refl s, [], ?_, fun k => ?_⟩
    · rw [← List.isEmpty_iff.mp h]
    · rw [List.isEmpty_iff.mp h]; simp
  · rw [if_neg h]
    refine ⟨(AtMostMe.refl s).modMe _, _, State.me_modMe _ _, fun k => ?_⟩
    simp only [List.mem_filter, Bool.not_eq_true', Bool.and_eq_false_imp, List.contains_iff_mem, beq_eq_false_iff_ne, ne_eq, not_and]

/-- Results in the active lanes of vector registers, with the flags that they raise. -/
theorem State.vputs_does (s : State) (d : Reg) (dw : Nat) (r : Nat → Nat) (fl : FFlags) (hd : isVec d = true) :
    let t := ((s.covered d dw).modMe fun a => (lanesOf s.em).foldl (fun b l => b.vput d.toNat dw l (r l)) a).raise fl
    AtMostMe s t ∧ t.me.parts = s.me.parts ∧ Wrote s t s.em d dw r fl := by
  obtain ⟨hat, vb, hme, hvb⟩ := State.covered_does s d dw
  have hrest := Agent.vputs_rest d.toNat dw r (lanesOf s.em) { s.me with vbad := vb }
  refine ⟨(hat.modMe _).raise _, ?_, ?_, ?_, ?_, ?_, ?_⟩
  · simp only [State.raise, State.me_modMe, hme]; rw [hrest]
  · intro n l hl
    simp only [State.raise, State.me_modMe, hme]
    have := Agent.vget_vputs d.toNat dw r (lanesOf s.em) (fun x hx => (mem_lanesOf.mp hx).1) { s.me with vbad := vb } n l hl
    simp only [mem_lanesOf, hl, true_and] at this
    rw [show ∀ (a : Agent) (x : BitVec 5), Agent.vget { a with fflags := x } n l = a.vget n l from fun _ _ => rfl, this]
    by_cases h : s.em.getLsbD l = true ∧ d.toNat ≤ n ∧ n < d.toNat + max 1 (dw / 32)
    · rw [if_pos h, if_pos ⟨hd, h.2.1, h.2.2, h.1⟩]
    · rw [if_neg h, if_neg (fun g => h ⟨g.2.2.2, g.2.1, g.2.2.1⟩)]; rfl
  · intro n
    simp only [State.raise, State.me_modMe, hme, isScalar_of_isVec hd]
    rw [hrest]; simp [Agent.sget]
  · simp only [State.raise, State.me_modMe, hme]; rw [hrest]
  · intro k
    simp only [State.raise, State.me_modMe, hme]; rw [hrest]
    simp only [hd, true_and]; exact hvb k
  · unfold KeepsSpecials
    simp only [State.raise, State.me_modMe, hme]; rw [hrest]

/-- The results of a register instruction, as the runner writes them. -/
theorem State.apply_does (s : State) (d : Reg) (dw : Nat) (hdw : dw ≠ 128) (srcs : List Opnd) (got : Pulled) (op : LaneOp) :
    AtMostMe s (s.apply d dw srcs got op) ∧ (s.apply d dw srcs got op).me.parts = s.me.parts ∧
      Wrote s (s.apply d dw srcs got op) s.em d dw (fun l => (op l (srcs.map (s.val got l))).1)
        (flagsOf s d fun l => op l (srcs.map (s.val got l))) := by
  unfold State.apply
  by_cases hv : isVec d = true
  · rw [if_pos hv]
    simp only [List.foldl_map, flagsOf, hv, if_true]
    exact State.vputs_does s d dw _ _ hv
  · rw [if_neg hv]
    generalize hr : op 0 (srcs.map (s.val got 0)) = r
    simp only []
    have hput : s.putScalar d dw r.1 = s.setS d (BitVec.ofNat 64 r.1) := by simp [State.putScalar, hdw]
    rw [hput]
    refine ⟨((AtMostMe.refl s).setS _ _).raise _, ?_, ?_, ?_, ?_, ?_, ?_⟩
    · simp only [State.raise, State.me_modMe, State.me_setS]; split <;> rfl
    · intro n l _
      rw [if_neg (fun g => hv g.1)]
      simp only [State.raise, State.me_modMe, State.me_setS]; split <;> rfl
    · intro n
      simp only [State.raise, State.me_modMe, State.me_setS, hr]
      by_cases h : isScalar d = true
      · simp only [h, if_true, true_and]
        rw [show ∀ (a : Agent) (x : BitVec 5), Agent.sget { a with fflags := x } n = a.sget n from fun _ _ => rfl]
        exact Agent.sget_sset _ _ _ _
      · simp [h, Agent.sget]
    · have hf : flagsOf s d (fun l => op l (srcs.map (s.val got l))) = r.2 := by simp [flagsOf, hv, hr]
      rw [hf]
      simp only [State.raise, State.me_modMe, State.me_setS]; split <;> rfl
    · intro k
      simp only [State.raise, State.me_modMe, State.me_setS, hv]; split <;> simp [Agent.sset]
    · unfold KeepsSpecials
      simp only [State.raise, State.me_modMe, State.me_setS]; split <;> rfl

/-- What is written of an agent stays when its part goes on. -/
theorem Wrote_advance {s t : State} {em : BitVec 64} {d : Reg} {dw : Nat} {r : Nat → Nat} {fl : FFlags}
    (h : Wrote s t em d dw r fl) : Wrote s t.advance em d dw r fl := by
  have hm := State.me_advance t
  obtain ⟨h1, h2, h3, h4, h5⟩ := h
  refine ⟨?_, ?_, ?_, ?_, ?_⟩
  · intro n l hl; rw [hm]; exact h1 n l hl
  · intro n; rw [hm]; exact h2 n
  · rw [hm]; exact h3
  · intro k; rw [hm]; exact h4 k
  · unfold KeepsSpecials at *; rw [hm]; rw [h5]

/-- The runner of register instructions. -/
theorem State.alu_does (i : Instr) (ok : State → Bool) {d : Reg} {dw : Nat} {srcs : List Opnd} {f : State → LaneOp}
    (hdw : dw ≠ 128) (h : ∀ s, exec i s = s.alu (ok s) d dw srcs (f s)) : AluDoes i d dw srcs ok f := by
  intro s hi
  rw [h]
  refine ⟨fun hm => ?_, fun hm => ⟨fun e he => ?_, fun u got hp => ?_⟩⟩
  · have hl : s.legal (aluOk d dw srcs && ok s && s.streamsOk srcs) (d :: srcs.map Prod.fst) = .error s.illegalOperand := by
      unfold State.legal; rw [hm]; rfl
    simp only [State.alu, hi, hl, bind, Except.bind, finish_error]
  all_goals
    have hl : s.legal (aluOk d dw srcs && ok s && s.streamsOk srcs) (d :: srcs.map Prod.fst) = .ok () := by
      unfold State.legal; rw [hm]; rfl
  · simp only [State.alu, hi, hl, he, bind, Except.bind, finish_error]
  · obtain ⟨h1, h2, h3⟩ := State.apply_does u d dw hdw srcs got (f s)
    refine ⟨(u.apply d dw srcs got (f s)).advance, ?_, h1.onlyMe_advance, Passed_advance h1.cur h2, Wrote_advance h3⟩
    simp only [State.alu, hi, hl, hp, bind, Except.bind, finish_ok]

-- Masks ------------------------------------------------------------------------------------------------------------------

theorem getLsbD_maskMerge (old new under : BitVec 64) (l : Nat) (hl : l < 64) :
    (maskMerge old new under).getLsbD l = if under.getLsbD l then new.getLsbD l else old.getLsbD l := by
  simp only [maskMerge, BitVec.getLsbD_or, BitVec.getLsbD_and, BitVec.getLsbD_not, hl, decide_true, Bool.true_and]
  cases under.getLsbD l <;> simp

theorem getLsbD_maskOf (ls : List Nat) (l : Nat) (hl : l < 64) : (maskOf ls).getLsbD l = decide (l ∈ ls) := by
  unfold maskOf
  suffices ∀ (m : BitVec 64), (ls.foldl (fun (m : BitVec 64) l => m ||| (1#64 <<< l)) m).getLsbD l = (m.getLsbD l || decide (l ∈ ls)) by
    simpa using this 0
  induction ls with
  | nil => intro m; simp
  | cons x xs ih =>
    intro m
    simp only [List.foldl_cons, ih, BitVec.getLsbD_or, BitVec.getLsbD_shiftLeft, BitVec.getLsbD_one, List.mem_cons, hl, decide_true, Bool.true_and]
    by_cases h1 : l = x
    · subst h1; simp
    · by_cases h2 : l < x
      · simp [h1, h2]
      · have h3 : l - x ≠ 0 := by omega
        simp [h1, h2, h3]

/-- The runner of compares. -/
theorem State.cmp_does (i : Instr) (m : Nat) (ok : Bool) {srcs : List Opnd} {f : State → List Nat → Bool}
    (h : ∀ s, exec i s = s.cmpMask ok m srcs (f s)) : CmpDoes i m srcs ok f := by
  intro s hi
  rw [h]
  refine ⟨fun hm => ?_, fun hm => ⟨fun e he => ?_, fun u got hp => ?_⟩⟩
  · rw [State.cmpMask]; simp only [hi, hm, need_false, bind, Except.bind, finish_error]
  · rw [State.cmpMask]; simp only [hi, hm, he, need_true, bind, Except.bind, finish_error]
  · refine ⟨(u.applyMask m srcs got (f s)).advance, ?_, ((AtMostMe.refl u).modMe _).onlyMe_advance,
      Passed_advance rfl (by simp only [State.applyMask, State.me_modMe]; rfl), ?_, ?_⟩
    · rw [State.cmpMask]; simp only [hi, hm, hp, need_true, bind, Except.bind, finish_ok]
    · intro n l hl
      rw [State.me_advance]
      simp only [State.applyMask, State.me_modMe]
      rw [show ∀ (a : Agent) (x : AList Part), Agent.mget { a with parts := x } n = a.mget n from fun _ _ => rfl, Agent.mget_mset]
      by_cases hn : n = m
      · subst hn
        rw [if_pos rfl, getLsbD_maskMerge _ _ _ _ hl]
        by_cases he : u.em.getLsbD l = true
        · rw [if_pos he, if_pos (show n = n ∧ u.em.getLsbD l = true from ⟨rfl, he⟩)]
          by_cases hv : namesLanes (srcs.map Prod.fst) = true
          · rw [if_pos hv, if_pos hv, getLsbD_maskOf _ _ hl]
            simp [lanesOf, hl, he]
          · rw [if_neg hv, if_neg hv]
            by_cases hb : f s (srcs.map (u.val got 0)) = true
            · rw [if_pos hb, he, hb]
            · rw [if_neg hb]; simp [hb]
        · rw [if_neg he, if_neg (fun g => he g.2)]
      · rw [if_neg hn, if_neg (fun g => hn g.1)]
    · rw [State.me_advance]; simp only [State.applyMask, State.me_modMe]; rfl

/-- The runner of mask instructions, which read no stream. -/
theorem State.mask_does {i : Instr} {reads writes : List Opnd} {legal : Bool} {eff : State → State} {P : State → Out → Prop}
    (h : ∀ s, exec i s = s.maskOp legal reads writes eff) (hs : legal = true → ∀ s, State.streamsOk s reads = true)
    (hp : ∀ s, P s (.next (eff s).advance)) :
    GroupDoes i reads writes legal P := by
  intro s hi
  rw [h, State.maskOp]
  refine ⟨fun hc => ?_, fun hc => ⟨fun hl => ?_, fun hl => ?_⟩⟩
  · have : s.notCopy = .error s.roleViolation := by simp [State.notCopy, hc, need]
    simp only [hi, this, bind, Except.bind, finish_error]
  · have hl : legal = false := by
      cases h : legal with
      | false => rfl
      | true => rw [h, hs h s] at hl; cases hl
    simp only [hi, State.notCopy_ok hc, hl, need_false, bind, Except.bind, finish_error]
  · have hl : legal = true := (Bool.and_eq_true_iff.mp hl).1
    simp only [hi, State.notCopy_ok hc, hl, need_true, bind, Except.bind, finish_ok]; exact hp s

theorem writesMask {s : State} {d : Reg} {acts : State → BitVec 64} {x : BitVec 64} {f : State → Nat → Bool}
    (hf : ∀ l, l < 64 → (acts s).getLsbD l = true → x.getLsbD l = f s l) :
    WritesMask d acts f s (.next (s.modMe fun a => a.mset d.toNat (maskMerge (a.mget d.toNat) x (acts s))).advance) := by
  refine ⟨_, rfl, ((AtMostMe.refl s).modMe _).onlyMe_advance, Passed_advance rfl (by simp only [State.me_modMe]; rfl), ?_, ?_⟩
  · intro n l hl
    rw [State.me_advance]
    simp only [State.me_modMe]
    rw [show ∀ (a : Agent) (x : AList Part), Agent.mget { a with parts := x } n = a.mget n from fun _ _ => rfl, Agent.mget_mset]
    by_cases hn : n = d.toNat
    · subst hn
      rw [if_pos rfl, getLsbD_maskMerge _ _ _ _ hl]
      by_cases he : (acts s).getLsbD l = true
      · rw [if_pos he, if_pos ⟨rfl, he⟩, hf l hl he]
      · rw [if_neg he, if_neg (fun g => he g.2)]
    · rw [if_neg hn, if_neg (fun g => hn g.1)]
  · rw [State.me_advance]; simp only [State.me_modMe]; rfl

theorem WroteS_setS (s : State) (d : Reg) (x : W64) : WroteS s (s.setS d x).advance d x := by
  intro n
  rw [State.me_advance, State.me_setS]
  rw [show ∀ (a : Agent) (x : AList Part), Agent.sget { a with parts := x } n = a.sget n from fun _ _ => rfl]
  by_cases h : isScalar d = true
  · simp only [h, if_true, true_and]; exact Agent.sget_sset _ _ _ _
  · simp [h]

theorem writesScalar {s : State} {d : Reg} {f : State → W64} : WritesScalar d f s (.next (s.setS d (f s)).advance) := by
  refine ⟨_, rfl, ((AtMostMe.refl s).setS _ _).onlyMe_advance, Passed_advance (AtMostMe.cur ((AtMostMe.refl s).setS _ _)) ?_,
    WroteS_setS s d _, ?_⟩
  · rw [State.me_setS]; split <;> rfl
  · rw [State.me_advance, State.me_setS]; split <;> rfl

-- Waves ------------------------------------------------------------------------------------------------------------------

/-- The runner of wave instructions. -/
theorem State.wave_does {i : Instr} {legal : Bool} {srcs writes : List Opnd} {eff : State → Pulled → State}
    {P : State → Out → Prop} (h : ∀ s, exec i s = s.wave legal srcs writes eff)
    (hp : ∀ (s : State) (o : Out), (∀ e, s.pullAll true srcs = .error e → o = .next e) →
      (∀ u got, s.pullAll true srcs = .ok (u, got) → o = .next (eff u got).advance) → P s o) :
    GroupDoes i srcs writes (legal && streamsOnce (srcs.map Prod.fst)) P := by
  intro s hi
  rw [h, State.wave]
  refine ⟨fun hc => ?_, fun hc => ⟨fun hl => ?_, fun hl => ?_⟩⟩
  · have : s.notCopy = .error s.roleViolation := by simp [State.notCopy, hc, need]
    simp only [hi, this, bind, Except.bind, finish_error]
  · simp only [hi, State.notCopy_ok hc, hl, need_false, bind, Except.bind, finish_error]
  · apply hp
    · intro e he
      simp only [hi, State.notCopy_ok hc, hl, he, need_true, bind, Except.bind, finish_error]
    · intro u got hg
      simp only [hi, State.notCopy_ok hc, hl, hg, need_true, bind, Except.bind, finish_ok]

/-- Results in the active lanes, as the wave instructions write them. -/
theorem wrote_toLanes (s : State) (d : Reg) (hd : isVec d = true) (r : Nat → Nat) (fl : FFlags) :
    Wrote s ((s.toLanes d r).raise fl).advance s.em d 32 r fl := by
  apply Wrote_advance
  unfold State.toLanes
  simp only [List.foldl_map]
  exact (State.vputs_does s d 32 r fl hd).2.2

/-- Results in some lanes of a vector register that cover no word of 8 lanes. -/
theorem wrote_lanes (s : State) (d : Reg) (ls : List Nat) (hls : ∀ l ∈ ls, l < 64) (hd : isVec d = true) (r : Nat → Nat) (fl : FFlags)
    (hw : ∀ k, (maskOf ls).extractLsb' (8 * (k % 8)) 8 ≠ 0xFF#8) :
    Wrote s (((s.modMe fun a => ls.foldl (fun b l => b.vput d.toNat 32 l (r l)) a).raise fl).advance) (maskOf ls) d 32 r fl := by
  apply Wrote_advance
  have hs := isScalar_of_isVec hd
  have hrest := Agent.vputs_rest d.toNat 32 r ls s.me
  refine ⟨?_, ?_, ?_, ?_, ?_⟩
  · intro n l hl
    simp only [State.raise, State.me_modMe]
    rw [show ∀ (a : Agent) (x : BitVec 5), Agent.vget { a with fflags := x } n l = a.vget n l from fun _ _ => rfl,
      Agent.vget_vputs d.toNat 32 r ls hls s.me n l hl]
    simp only [getLsbD_maskOf _ _ hl, decide_eq_true_eq, hd, true_and]
    by_cases h : l ∈ ls ∧ d.toNat ≤ n ∧ n < d.toNat + max 1 (32 / 32)
    · rw [if_pos h, if_pos ⟨h.2.1, h.2.2, h.1⟩]
    · rw [if_neg h, if_neg (fun g => h ⟨g.2.2, g.1, g.2.1⟩)]
  · intro n
    simp only [State.raise, State.me_modMe, hs]
    rw [hrest]; simp [Agent.sget]
  · simp only [State.raise, State.me_modMe]; rw [hrest]
  · intro k
    simp only [State.raise, State.me_modMe]; rw [hrest]; simp [hw k]
  · unfold KeepsSpecials
    simp only [State.raise, State.me_modMe]; rw [hrest]

-- Control ----------------------------------------------------------------------------------------------------------------

/-- `jump` and `advance` go somewhere and do nothing else. -/
theorem Goes_jump (s : State) (x : W64) : Goes s x (.next (s.jump x)) :=
  ⟨_, rfl, (AtMostMe.refl s).onlyMe_jump x, WentTo_jump x rfl rfl, State.me_jump s x⟩
theorem Goes_advance (s : State) : Goes s s.after_ (.next s.advance) :=
  ⟨_, rfl, (AtMostMe.refl s).onlyMe_advance, Passed_advance rfl rfl, State.me_advance s⟩

/-- An agent written with its parts as they were, and the part gone on. -/
theorem wroteMe (s : State) (b : Agent) (h : b.parts = s.me.parts) :
    ∃ t, (Host.Outcome.next (s.setMe b).advance : Out) = .next t ∧ OnlyMe s t ∧ Passed s t ∧
      t.me = { b with parts := t.me.parts } := by
  refine ⟨_, rfl, ((AtMostMe.refl s).setMe b).onlyMe_advance, Passed_advance rfl ?_, ?_⟩
  · rw [State.me_setMe]; exact h
  · have := State.me_advance (s.setMe b)
    rw [State.me_setMe] at this; exact this

-- Traps ------------------------------------------------------------------------------------------------------------------

/-- Taking a trap with a handler: the one agent changes. -/
theorem State.takeTrap_handled {s : State} {c k part : Nat} {a : Agent} {p : Part} (t : TrapInfo) (epc : W64)
    (h1 : s.agent? c k = some a) (h2 : (s.core c).lr.flags % 2 = 1) (h3 : a.handling = none) (h4 : a.parts.find? part = some p) :
    s.takeTrap c k part t epc = s.setAgent c k
      { a with
        tcode := t.code, epc := epc, einfo := t.einfo, eaddr := t.eaddr, fmask := t.fmask
        xc := match p.op with | some id => completeOp id a.xc | none => a.xc
        handling := some (part, t.code)
        parts := a.parts.put part { p with pc := (s.core c).lr.code + BitVec.ofNat 64 (s.core c).lr.handlerOff, wait := none,
                                           expired := false, op := none, nofetch := none, latch := none } } := by
  unfold State.takeTrap
  simp only [h1, h4, Option.bind_some]
  cases hp : p.op with
  | none => simp [h2, h3, h4]
  | some id => simp [h2, h3, h4]

end Sys2Proof.Machine
end

