-- ==== Sys2Proof/Tests/Slice0.lean ====
section
/-! SUPPORT. Tests: ill-formed terms that the check refuses, words written out from the spec's encoding, single steps
whose results the spec's worked examples give, and for every statement a state that meets its hypotheses. -/

set_option Elab.async false

namespace Sys2Proof.Tests

open Sys2Proof.Machine

-- States -----------------------------------------------------------------------------------------------------------------

/-- A vector wave, a copy context and a matrix wave about to issue: core 0 runs one task workgroup of context 0. -/
def wave : State := State.reset.placeWord 32 0x003F7EFD
def copyCtx : State := { State.reset.placeWord 32 0xE8000000 with cur := { core := 0, agent := 128, part := 0 } }
def matrix : State := State.reset.placeWord 32 0xEC000000

/-- Scalars and lanes of the issuing agent. -/
def withS (s : State) (l : List (Nat × W64)) : State := s.setMe (l.foldl (fun a p => a.sset p.1 p.2) s.me)
def withV (s : State) (l : List (Nat × Nat × W32)) : State := s.setMe (l.foldl (fun a p => a.vset p.1 p.2.1 p.2.2) s.me)

/-- The state an outcome leads to. -/
def after (o : Out) : State :=
  match o with
  | .next t => t
  | _ => State.reset

-- Ill-formed terms (R49, R53 to R59; R7, R10, R22 for the numbers of events) ---------------------------------------------------

theorem test_wf_srd_number : Instr.wf (.srd 32 96) = false := by decide +kernel
theorem test_wf_srd_vector : Instr.wf (.srd 0 1) = false := by decide +kernel
theorem test_wf_swr_readonly : Instr.wf (.swr 96 0) = false := by decide +kernel
theorem test_wf_swr_source : Instr.wf (.swr 3 18) = false := by decide +kernel
theorem test_wf_clkrd_odd : Instr.wf (.clkrd 97) = false := by decide +kernel
theorem test_wf_tmark_vector : Instr.wf (.tmark 3) = false := by decide +kernel
theorem test_wf_erd_source : Instr.wf (.erd 3 96) = false := by decide +kernel
theorem test_wf_trap_code : Instr.wf (.trap 0x40) = false := by decide +kernel
theorem test_wf_winb_vector : Instr.wf (.winb 2) = false := by decide +kernel
theorem test_wf_dest_stream : Instr.wf (.iadd 0 1 1 120) = false := by decide +kernel
theorem test_wf_dest_lid : Instr.wf (.iadd 0 1 1 124) = false := by decide +kernel
theorem test_wf_dest_126 : Instr.wf (.iadd 0 1 1 126) = false := by decide +kernel
theorem test_wf_scalar_dest_vector_source : Instr.wf (.iadd 0 97 1 96) = false := by decide +kernel
theorem test_wf_scalar_dest_lid : Instr.wf (.iadd 0 97 124 96) = false := by decide +kernel
theorem test_wf_pair_odd : Instr.wf (.iadd 1 6 4 3) = false := by decide +kernel
theorem test_wf_pair_source_odd : Instr.wf (.iadd 1 5 4 2) = false := by decide +kernel
theorem test_wf_imad_stream : Instr.wf (.imad 0 1 1 121) = false := by decide +kernel
theorem test_wf_sel_pair : Instr.wf (.sel 1 0 4 6 3) = false := by decide +kernel
theorem test_wf_stream_twice : Instr.wf (.iadd 0 120 120 1) = false := by decide +kernel
theorem test_wf_icmp_mask : Instr.wf (.icmpEq 0 0 1 2 8) = false := by decide +kernel
theorem test_wf_icmp_pair : Instr.wf (.icmpEq 0 1 3 2 0) = false := by decide +kernel
theorem test_wf_bfx_extent : Instr.wf (.bfxi 31 1 2 3) = false := by decide +kernel
theorem test_wf_bfi_extent : Instr.wf (.bfii 31 1 2 3) = false := by decide +kernel
theorem test_wf_shift_amount : Instr.wf (.shfiShl 0 32 2 3) = false := by decide +kernel
theorem test_wf_movi_dest : Instr.wf (.movi 0 0 123) = false := by decide +kernel
theorem test_wf_icmpi_condition : Instr.wf (.icmpi 0 96 11 0) = false := by decide +kernel
theorem test_wf_iaddi_source : Instr.wf (.iaddi 0 126 1) = false := by decide +kernel
theorem test_wf_fma_format : Instr.wf (.fma 4 2 4 6) = false := by decide +kernel
theorem test_wf_fabs_dest : Instr.wf (.fabs 1 127) = false := by decide +kernel
theorem test_wf_dadd_pair : Instr.wf (.dadd 4 2 1) = false := by decide +kernel
theorem test_wf_cvt_sr_rm : Instr.wf (.cvtF32E4m3 1 0 1 2 3) = false := by decide +kernel
theorem test_wf_cvt_pack_pair : Instr.wf (.cvtF32F16 0 0 0 3 4) = false := by decide +kernel
theorem test_wf_cvt_unpack_pair : Instr.wf (.cvtF16F32 4 3) = false := by decide +kernel
theorem test_wf_wred_source : Instr.wf (.wredAddF32 96 97) = false := by decide +kernel
theorem test_wf_wscan_dest : Instr.wf (.wscanAddF32 1 96) = false := by decide +kernel
theorem test_wf_shfl_index : Instr.wf (.shflIdx 126 1 2) = false := by decide +kernel
theorem test_wf_wvote_mask : Instr.wf (.wvoteAny 8 96) = false := by decide +kernel
theorem test_wf_wballot_dest : Instr.wf (.wballot 1 2) = false := by decide +kernel
theorem test_wf_wbcast_lane : Instr.wf (.wbcast 3 1 2) = false := by decide +kernel
theorem test_wf_wgetl_dest : Instr.wf (.wgetl 96 1 2) = false := by decide +kernel
theorem test_wf_wsetl_source : Instr.wf (.wsetl 96 1 2) = false := by decide +kernel
theorem test_wf_mand_mask : Instr.wf (.mand 0 1 8) = false := by decide +kernel
theorem test_wf_mnot_mask : Instr.wf (.mnot 8 0) = false := by decide +kernel
theorem test_wf_msave_mask : Instr.wf (.msave 8) = false := by decide +kernel
theorem test_wf_mrest_mask : Instr.wf (.mrest 9) = false := by decide +kernel
theorem test_wf_mfrs_source : Instr.wf (.mfrs 1 0) = false := by decide +kernel
theorem test_wf_mpopc_dest : Instr.wf (.mpopc 0 1) = false := by decide +kernel
theorem test_wf_sflag_dest : Instr.wf (.sflag 0 1) = false := by decide +kernel
theorem test_wf_sskip_source : Instr.wf (.sskip 1 0) = false := by decide +kernel
theorem test_wf_brc_vector : Instr.wf (.brc 0 1 0) = false := by decide +kernel
theorem test_wf_brd_mask : Instr.wf (.brdT 8 0) = false := by decide +kernel
theorem test_wf_jmp_zero : Instr.wf (.jmp 125) = false := by decide +kernel
theorem test_wf_ldb_scalar_vector : Instr.wf (.ldb 0 1 96) = false := by decide +kernel
theorem test_wf_ldw_pair : Instr.wf (.ldw 0 3 4) = false := by decide +kernel
theorem test_wf_ldd_pair : Instr.wf (.ldd 0 96 3) = false := by decide +kernel
theorem test_wf_ldq_pair : Instr.wf (.ldq 0 98 99) = false := by decide +kernel
theorem test_wf_stw_pair : Instr.wf (.stw 0 3 4) = false := by decide +kernel
theorem test_wf_stq_quad : Instr.wf (.stq 0 96 2) = false := by decide +kernel
theorem test_wf_ldo_release : Instr.wf (.ldo 0 2 2 96 97) = false := by decide +kernel
theorem test_wf_ldo_rcore_relaxed : Instr.wf (.ldo 5 0 2 96 97) = false := by decide +kernel
theorem test_wf_sto_acquire : Instr.wf (.sto 0 1 2 96 97) = false := by decide +kernel
theorem test_wf_atom_scope : Instr.wf (.atomAdd 0 6 0 96 97) = false := by decide +kernel
theorem test_wf_cas_lk : Instr.wf (.atomCas 0 0 0 98 119) = false := by decide +kernel
theorem test_wf_red_acquire : Instr.wf (.redAdd 0 0 1 96 97) = false := by decide +kernel
theorem test_wf_fence_rcore : Instr.wf (.fence 5 0) = false := by decide +kernel
theorem test_wf_spempty_vector : Instr.wf (.spempty 96 1) = false := by decide +kernel
theorem test_wf_spqry_dest : Instr.wf (.spqry 96 1) = false := by decide +kernel
theorem test_wf_pref_vector : Instr.wf (.pref 1) = false := by decide +kernel
theorem test_wf_bwait_vector : Instr.wf (.bwait 101 2 125) = false := by decide +kernel
theorem test_wf_bqry_odd : Instr.wf (.bqry 98 101) = false := by decide +kernel
theorem test_wf_xst_pair : Instr.wf (.xstD 2 3) = false := by decide +kernel
theorem test_wf_copy_vector : Instr.wf (.cpyin 97 1 98) = false := by decide +kernel
theorem test_wf_cpqry_selector : Instr.wf (.cpqry 4 96) = false := by decide +kernel
theorem test_wf_coll_odd : Instr.wf (.coll 97 96 99) = false := by decide +kernel
theorem test_wf_gang_vector : Instr.wf (.gang 1) = false := by decide +kernel
theorem test_wf_mma_slot : Instr.wf (.mma 97 96 16) = false := by decide +kernel
theorem test_wf_mzero_slot : Instr.wf (.mzero 16) = false := by decide +kernel
theorem test_wf_mqry_selector : Instr.wf (.mqry 4 96) = false := by decide +kernel
theorem test_wf_prsv_dest : Instr.wf (.prsv 96 1) = false := by decide +kernel
theorem test_wf_crsv_odd : Instr.wf (.crsv 96 99) = false := by decide +kernel
theorem test_wf_pqry_selector : Instr.wf (.pqry 8 96 97) = false := by decide +kernel
theorem test_wf_lseal_selector : Instr.wf (.lseal 2 96 97) = false := by decide +kernel
theorem test_wf_lpass_odd : Instr.wf (.lpass 97 96 99) = false := by decide +kernel
theorem test_wf_lqry_selector : Instr.wf (.lqry 4 96 97) = false := by decide +kernel
theorem test_wf_rinv_odd : Instr.wf (.rinv 97 96 99) = false := by decide +kernel
theorem test_wf_jcan_selector : Instr.wf (.jcan 2 96 97) = false := by decide +kernel

/-- Events whose numbers name no core, context, agent, device, die, slice, stack, channel, tag or master. -/
theorem test_wf_events : ([.wgAdmit 128, .launchLoad 0 64 0 .tasks, .wavePromote 0 136, .peerUnreachable 1024, .passBegin 64 0 0, .passBegin 0 0 4, .rd 4 0 0 0 0, .rd 0 64 0 0 0, .rd 0 0 3 0 0, .rd 0 0 0 64 0, .rd 0 0 0 0 8, .taskStart 64, .ownershipClaim 1024 0 0, .ownershipClaim 0 256 0, .carveWrite 0 4 0, .refresh 0 3 0 true] : List Instr).all (fun i => !i.wf) = true := by decide +kernel

-- Words written out from the tables of R60 to R68 -----------------------------------------------------------------------------

theorem test_word_misc : decode 0b000000_00111_1111101_1111101_1100010#32 = .ok (.clkrd 98) := by decide +kernel
theorem test_word_trap : decode 0b000001_000000100001_1111101_1111101#32 = .ok (.trap 0x21) := by decide +kernel
theorem test_word_safept : decode 0b000010_000000000101_1111101_1111101#32 = .ok (.safept 5) := by decide +kernel
theorem test_word_limm : decode 0b000011_10101010111100110111101111#32 = .ok (.limm 0x2ABCDEF) := by decide +kernel
theorem test_word_ialu32 : decode 0b000100_00101_0000011_0000010_0000001#32 = .ok (.imad 0 3 2 1) := by decide +kernel
theorem test_word_ialu64 : decode 0b000101_11110_0000100_0000010_0000110#32 = .ok (.sel 1 2 4 2 6) := by decide +kernel
theorem test_word_icmp : decode 0b000110_11010_1100001_1100000_1100010#32 = .ok (.icmpLtS 1 1 97 96 98) := by decide +kernel
theorem test_word_bfxi : decode 0b000111_000111010000_1100000_1100001#32 = .ok (.bfxi 7 16 96 97) := by decide +kernel
theorem test_word_bfii : decode 0b001000_011111000011_0000010_0000001#32 = .ok (.bfii 31 3 2 1) := by decide +kernel
theorem test_word_andi : decode 0b001010_000011111111_1100000_1100001#32 = .ok (.andi 0x0FF 96 97) := by decide +kernel
theorem test_word_ori : decode 0b001011_100000000000_1100000_1100001#32 = .ok (.ori 0x800 96 97) := by decide +kernel
theorem test_word_xori : decode 0b001100_000000000001_0000011_0000100#32 = .ok (.xori 1 3 4) := by decide +kernel
theorem test_word_shfi : decode 0b001101_101000101000_1100000_1100001#32 = .ok (.shfiSra 1 40 96 97) := by decide +kernel
theorem test_word_movi : decode 0b001110_011111111111_1010101_1100000#32 = .ok (.movi 0x7FF 0x55 96) := by decide +kernel
theorem test_word_icmpi : decode 0b001111_000000001001_1100000_0111010#32 = .ok (.icmpi 9 96 7 2) := by decide +kernel
theorem test_word_falu : decode 0b010000_00111_0000011_0000010_0000001#32 = .ok (.fcpys 3 2 1) := by decide +kernel
theorem test_word_ffma : decode 0b010001_00111_0000100_0000010_0000110#32 = .ok (.nfms 1 4 2 6) := by decide +kernel
theorem test_word_fcmp : decode 0b010010_00100_0000011_0000010_0000001#32 = .ok (.fcmpUnord 0 0 3 2 1) := by decide +kernel
theorem test_word_fsfu : decode 0b010011_00011_1111101_0000010_0000001#32 = .ok (.fex2 2 1) := by decide +kernel
theorem test_word_halu : decode 0b010101_01010_0000011_0000010_0000001#32 = .ok (.hmul2 1 3 2 1) := by decide +kernel
theorem test_word_dalu : decode 0b010110_00101_0000100_0000010_0000110#32 = .ok (.ddiv 4 2 6) := by decide +kernel
theorem test_word_wave : decode 0b011000_01010_1100001_0000010_0000001#32 = .ok (.shflIdx 97 2 1) := by decide +kernel
theorem test_word_mask : decode 0b011001_00011_0000010_0000001_0000000#32 = .ok (.mandn 2 1 0) := by decide +kernel
theorem test_word_stream : decode 0b011010_00001_1111101_1100000_1111010#32 = .ok (.sskip 96 2) := by decide +kernel
theorem test_word_waitc : decode 0b011011_001010011100_1111101_1111101#32 = .ok (.waitc 1 2 3 4) := by decide +kernel
theorem test_word_call : decode 0b011101_00000000000000000000001000#32 = .ok (.call 8) := by decide +kernel
theorem test_word_brc : decode 0b011110_100_1100001_1111111111111111#32 = .ok (.brc 4 97 0xFFFF) := by decide +kernel
theorem test_word_brd : decode 0b011111_011_0000010_0000000000000100#32 = .ok (.ball 2 4) := by decide +kernel
theorem test_word_beod : decode 0b100000_1_01_1111010_0000000000000101#32 = .ok (.beodClr 1 2 5) := by decide +kernel
theorem test_word_jmpr : decode 0b100001_00010_1111101_1111101_1111101#32 = .ok (.ret) := by decide +kernel
theorem test_word_loads : decode 0b100101_111111111100_1100000_0000001#32 = .ok (.ldbs 0xFFC 96 1) := by decide +kernel
theorem test_word_stores : decode 0b101111_000000010000_1100000_0000100#32 = .ok (.stq 16 96 4) := by decide +kernel
theorem test_word_ldo : decode 0b110000_00000_1000110_1100000_1100001#32 = .ok (.ldo 4 1 2 96 97) := by decide +kernel
theorem test_word_sto : decode 0b110001_00000_0111011_1100000_1100001#32 = .ok (.sto 3 2 3 96 97) := by decide +kernel
theorem test_word_atom : decode 0b110011_01001_0111100_1100000_1100010#32 = .ok (.atomCas 1 3 3 96 98) := by decide +kernel
theorem test_word_red : decode 0b110100_01000_0100000_0000001_0000010#32 = .ok (.redFadd 0 2 0 1 2) := by decide +kernel
theorem test_word_fence : decode 0b110110_00000_0110100_1111101_1111101#32 = .ok (.fence 3 1) := by decide +kernel
theorem test_word_cache : decode 0b110111_00011_1100001_1100000_1111101#32 = .ok (.spempty 97 96) := by decide +kernel
theorem test_word_bar : decode 0b111000_00001_1111101_1100000_1100001#32 = .ok (.barv 96 97) := by decide +kernel
theorem test_word_xfer : decode 0b111001_00001_1111101_0000010_0000100#32 = .ok (.xstD 2 4) := by decide +kernel
theorem test_word_copy : decode 0b111010_00100_1100001_1100000_1100010#32 = .ok (.ppull 97 96 98) := by decide +kernel
theorem test_word_mtx : decode 0b111011_00101_1100001_1100000_0000011#32 = .ok (.mma 97 96 3) := by decide +kernel
theorem test_word_pipe : decode 0b111100_00010_1111101_1100000_1100010#32 = .ok (.crsv 96 98) := by decide +kernel
theorem test_word_attn : decode 0b111101_00100_1100001_1100000_1100010#32 = .ok (.hget 97 96 98) := by decide +kernel
theorem test_word_invk : decode 0b111110_00110_0000001_1100000_1100001#32 = .ok (.jcan 1 96 97) := by decide +kernel
theorem test_word_cvt : decode 0b010100_10000_0000111_0000010_0000001#32 = .ok (.cvtF32E2m1 0 1 3 2 1) := by decide +kernel

/-- The worked encodings of the spec, and its fates of illegal words. -/
theorem test_worked_iadd : decode 0x10188185 = .ok (.iadd 0 98 3 5) := by decide +kernel
theorem test_worked_ldo : decode 0xC00DB104 = .ok (.ldo 3 1 2 98 4) := by decide +kernel
theorem test_worked_stw : decode 0xB7FE3087 = .ok (.stw 0xFF8 97 7) := by decide +kernel
theorem test_worked_brc : decode 0x78E5FFFD = .ok (.brc 1 101 0xFFFD) := by decide +kernel
theorem test_worked_iaddi : decode 0x0D234567 = .ok (.limm 0x1234567) ∧ decode 0x2626BEE4 = .ok (.iaddi 0x89A 125 100) := by decide +kernel
theorem test_worked_brd : decode 0x7C000004 = .ok (.brdT 0 4) ∧ decode 0x7C030001 = .ok (.brdT 3 1) ∧
    decode 0x3C007E30 = .ok (.icmpi 1 124 6 0) := by decide +kernel
theorem test_unnamed_major : decode 0x5C000000 = .error .illegalOpcode ∧ decode 0x88000000 = .error .illegalOpcode := by decide +kernel
theorem test_nop_field : decode 0x003F41FD = .error .illegalOperand := by decide +kernel

-- States that meet the hypotheses of the statements ----------------------------------------------------------------------------------

/-- A state whose issuing part is in a handler, one whose core has a handler, one with stream q0 bound over two elements. -/
def handled : State := wave.modMyCore fun x => { x with lr := { x.lr with flags := 1, handlerOff := 64 } }
def inHandler : State := handled.setMe { handled.me with handling := some (0, 0x20), epc := 0x1000008 }
def stream (s : State) : State :=
  s.setMe { s.me with q := [(0, { base := 0x1000000, c0 := 64, c1 := 1, c2 := 1, c3 := 1, s0 := 4, s1 := 0, s2 := 0, s3 := 0,
                                  esize := 4, pos := 0, eod := 0 })] }

def overrun (s : State) : State :=
  let t := stream s
  t.setMe { t.me with q := t.me.q.map fun p => (p.1, { p.2 with pos := 64 }) }

/-- A trap deferred to a point, and a wave with one. -/
def deferred (at_ : TrapPoint) : Deferred := { op := 0, at_, info := { code := 6, einfo := 0, eaddr := 0, fmask := 0 } }
def trapped (s : State) (at_ : TrapPoint) : State := s.setMe { s.me with traps := [deferred at_] }

/-- The own-pool address of an offset, and a state whose pool holds bytes. -/
def pool (off : Nat) : W64 := ownPool off
def withPool (s : State) (off : Nat) (bs : List Byte) : State := s.modMyCore fun x => x.poolPut off bs

/-- Whether a checked part of an instruction went on, whether an outcome is a next state. -/
def isOk {ε α : Type} (x : Except ε α) : Bool := match x with
  | .ok _ => true
  | .error _ => false
def isNext (o : Out) : Bool := match o with
  | .next _ => true
  | _ => false

/-- A plan with two stages on core 0 and a pipe between them, running; core 0 then runs its first stage. -/
def stage0 : StageSt :=
  { lrAddr := 0x1000100, kind := 0, dieMask := 1, device := 0, coreMin := 1, coreMax := 2, coreInit := 1, npersist := 0,
    rangeBegin := 0, rangeEnd := 4, chunk := 1, reserved := true, cores := [0], running := true, lr := wave.myCore.lr }
def pipe0 : PipeSt :=
  { producer := 0, consumer := 0, efmt := 0, flags := 0, rows := 1, cols := 1, slotSize := 4096, depth := 2, scope := 3,
    homeDie := 0, vaultOff := 0, spill := 2, wheyBase := 0x1002000, reserved := true, vfree := { limit := 2 },
    wfree := { limit := 2 } }
def plan0 : PlanSt :=
  { ctx := 0, addr := 0x1000040, prio := 0, order := 0, balUs := 100, hyst := 64, highWater := 192, noBal := false, dlUs := 100,
    statusAddr := 0, doneSig := 0, faultSig := 0, stages := [stage0, { stage0 with cores := [] }], pipes := [pipe0], digest := 0,
    running := true }
def staged (s : State) : State := { s.modMyCore (fun x => { x with run := .stage 0 0 }) with plans := [(0, plan0)] }

theorem witness_DecodeEncode :
    Instr.isEvent .linkRetrain = true ∧ Instr.isEvent (.iadd 1 94 94 94) = false ∧ Instr.wf (.iadd 1 94 94 94) = true := by
  decide +kernel

theorem witness_EncodeDecode : decode 0x003F7EFD = .ok .nop ∧ decode 0xFFFFFFFF = .error .illegalOpcode := by decide +kernel

theorem witness_StepRunsDecoded :
    let s := wave
    let s₀ : State := { s with agenda := [] }
    let a := s.me
    let p := s₀.prepare 0 ((s₀.core 0).unitAgents 0) 0 a 0
    let late := wave.setMe { wave.me with wdPending := true }
    let parked := wave.modPart fun p => { p with wait := some .exit }
    let word := fun (w : Nat) => State.reset.placeWord 32 w
    let l : Latch := { word := 0x003F7EFD, len := 4, pre := none, s := [] }
    let resumed := wave.modPart fun p => { p with latch := some l }
    let gone := p.modPart fun q => { q with pc := 0x3000000 }
    s.agenda = [.issue 0 0] ∧ s₀.wakeUnit 0 0 = none ∧ (s.core 0).pre = .none ∧
    (((s₀.core 0).unitAgents 0).flatMap fun q => q.2.candidates.map fun n => (q.1, q.2, n)) = [(0, a, 0)] ∧
    p.me.wdPending = false ∧ late.me.wdPending = true ∧
    p.wordOf = .ok { p with cur := { p.cur with word := 0x003F7EFD } } ∧ isNext (exec .nop p) = true ∧ (after (exec .nop p)) ≠ p ∧
    isOk gone.wordOf = false ∧ (after (exec (.bra 0) p)) = p ∧
    -- words that do not decode, with and without a deferred trap whose point they are
    (word 0xFFFFFFFF).wordOf = .ok { word 0xFFFFFFFF with cur := { (word 0xFFFFFFFF).cur with word := 0xFFFFFFFF } } ∧
    decode 0xFFFFFFFF = .error .illegalOpcode ∧ decode 0x003F7EFC = .error .illegalOperand ∧
    s.takeDeferred (s.me.wordTakes 0 0xFFFFFFFF) = none ∧ roleBars s.me.role 0xE8000000 = true ∧ roleBars s.me.role 0x003F7EFC = false ∧
    decode 0xEC000000 = .error .illegalOperand ∧
    ((trapped matrix .vat).takeDeferred ((trapped matrix .vat).me.wordTakes 0 0xEC000000)).isSome = true ∧
    -- wakes and what they resume
    (({ parked with agenda := [] } : State).wakeable 0 0 parked.me).head? = some 0 ∧ parked.me ∈ (parked.core 0).agents.map Prod.snd ∧
    (parked.core 0).agents.keys = [0] ∧ s.myPart.latch = none ∧ resumed.myPart.latch = some l ∧
    -- a fetch
    p.place 0 .x 0x1000000 4 = some (.mem 0) ∧ p.nak p.myCtx 0 false = none ∧ p.readBad 0 p.myCtx 1 0 4 true = false := by
  decide +kernel

theorem witness_StepRunsEvents :
    Instr.isEvent .linkRetrain = true ∧ Instr.wf .linkRetrain = true ∧ isNext (exec .linkRetrain State.reset) = true ∧
    Instr.isEvent .nop = false ∧ Instr.wf (.launchLoad 128 0 0 .tasks) = false ∧
    ({ State.reset with turnEv := true, pending := [.linkRetrain] } : State).agenda = [] ∧
    State.reset.agenda = [] ∧ State.reset.pending = [] ∧ State.reset.cores = [] := by decide +kernel

theorem reset_inv : State.reset.Inv := by unfold State.Inv; decide

theorem witness_StepKeepsInv : State.reset.Inv ∧ isNext (step (State.reset.withFetchWord 32 0x003F7EFD)) = true :=
  ⟨reset_inv, by decide +kernel⟩

/-- A register instruction (AluDoes): no operand of it is in flight; its fields are legal, or not; a stream of it is bound,
or not; a stream read goes on, or does not. -/
theorem witness_IntegerResults :
    wave.interlock [(94, 64), (94, 64)] [(94, 64)] = .ok () ∧ aluOk 94 64 [(94, 64), (94, 64)] = true ∧
    aluOk 95 64 [(94, 64), (94, 64)] = false ∧ aluOk 125 32 [(119, 32), (125, 32)] = true ∧
    wave.streamsOk [(120, 32)] = false ∧ (stream wave).streamsOk [(120, 32)] = true ∧ (stream wave).streamsOk [(120, 64)] = false ∧
    (stream wave).interlock [(120, 32), (94, 32)] [(95, 32)] = .ok () ∧ isOk ((stream wave).pullAll true [(120, 32)]) = true ∧
    (overrun wave).streamsOk [(120, 32)] = true ∧ isOk ((overrun wave).pullAll true [(120, 32)]) = false ∧
    copyCtx.me.role = .copy ∧ namesLanes [124] = true ∧ wave.me.role = .vector := by decide +kernel

theorem witness_IntegerArithmetic :
    2 ^ 32 - 1 < 2 ^ 32 ∧ 2 ^ 64 - 1 < 2 ^ 64 ∧ (Fmt.f32.decode 0x7FC00000).isNan = true := by decide +kernel

theorem witness_ImmediateResults :
    wave.interlock [(119, 64)] [(119, 64)] = .ok () ∧ aluOk 119 64 [(119, 64)] = true ∧ bitFieldOk 119 63 0 = true ∧
    bitFieldOk 0 31 0 = true ∧ bitFieldOk 0 31 1 = false ∧ shiftOk 0 31 = true ∧ shiftOk 0 32 = false ∧ shiftOk 1 63 = true := by
  decide +kernel

theorem witness_CompareResults :
    wave.interlock [(95, 32), (124, 32)] [] = .ok () ∧ maskDstOk 7 [(95, 32), (124, 32)] = true ∧ maskDstOk 8 [(95, 32)] = false ∧
    isOk (wave.pullAll true [(95, 32), (124, 32)]) = true ∧ wave.streamsOk [(95, 32), (124, 32)] = true ∧
    wave.streamsOk [(123, 32)] = false ∧ wave.me.role ≠ .copy ∧ copyCtx.me.role = .copy ∧
    (overrun wave).streamsOk [(120, 32)] = true ∧ isOk ((overrun wave).pullAll true [(120, 32)]) = false := by decide +kernel

theorem witness_FloatResults :
    (3 : BitVec 3).toNat < 4 ∧ wave.interlock [(0, 32), (95, 32)] [(95, 32)] = .ok () ∧ aluOk 95 32 [(0, 32), (95, 32)] = true := by
  decide +kernel

theorem witness_NanRules :
    (Fmt.f16.decode 0x7E00).isNan = true ∧ (Fmt.f64.decode 0x7FF0000000000001).isNan = true ∧ (Fmt.f32.decode 0).isNan = false ∧
    Fmt.f32.decode 0xFF800000 = .inf true ∧ (Fmt.f32.decode 0).isNan = false ∧
    Fmt.f32.decode 0 = .fin false 0 (-149) ∧ 0xFF < 2 ^ Fmt.e8m0.width := by decide +kernel

theorem witness_ConversionResults :
    wave.interlock [(0, 64)] [(1, 32)] = .ok () ∧ aluOk 1 32 [(0, 64)] = true ∧ cvtOk 1 0 = true ∧ cvtOk 0 3 = true ∧
    cvtOk 1 1 = false := by decide +kernel

theorem witness_MaskResults :
    wave.interlock [] [] = .ok () ∧ wave.me.role ≠ .copy ∧ copyCtx.me.role = .copy ∧ maskOk 7 = true ∧ maskOk 8 = false ∧
    isSz 119 = true ∧ isSz 125 = true ∧ isSz 95 = false ∧ wave.interlock [(119, 64)] [] = .ok () ∧
    wave.streamsOk [(119, 64)] = true := by decide +kernel

theorem witness_WaveResults :
    wave.interlock [(124, 32)] [(119, 32)] = .ok () ∧ (dstOk 119 32 && waveSrcOk 124) = true ∧ waveSrcOk 96 = false ∧
    streamsOnce [120, 121] = true ∧ isOk ((stream wave).pullAll true [(120, 32)]) = true ∧
    (stream wave).streamsOk [(120, 32)] = true ∧ wave.streamsOk [(120, 32)] = false ∧
    isOk ((overrun wave).pullAll true [(120, 32)]) = false ∧ wave.streamsOk [(124, 32)] = true := by decide +kernel

theorem witness_SpecialRegisterAccess :
    let staged := wave.modMyCore fun x => { x with run := .stage 0 255 }
    let s := withS matrix [(1, 15)]
    staged.myCore.run = .stage 0 255 ∧ wave.myCore.run = .tasks ∧ wave.myCore.ctx = some 0 ∧ wave.me.lvl[0]? = some 0 ∧
    wave.interlock [] [(119, 64)] = .ok () ∧ wave.interlock [(119, 64)] [] = .ok () ∧
    (isSz 119 && decide ((31 : BitVec 7).toNat < 32)) = true ∧ isSz 95 = false ∧
    s.interlock [(97, 64)] [] = .ok () ∧ s.me.role = .matrix ∧ ¬(s.me.slots = 0 ∨ (s.sval 97).toNat % 16 + s.me.slots ≤ s.myCore.lr.slotTotal) ∧
    (matrix.sval 97).toNat % 16 + matrix.me.slots ≤ matrix.myCore.lr.slotTotal := by decide +kernel

theorem witness_WindowMoves :
    let wide := wave.setMe { wave.me with vregs := 128 }
    let at_ := fun (x : W64) => withS wide [(0, x)]
    (at_ 32).interlock [(96, 64)] [] = .ok () ∧ ((at_ 32).sval 96).toNat = 32 ∧ (at_ 32).me.role ≠ .copy ∧
    (32 % 32 = 0 ∧ 32 + 96 ≤ (at_ 32).me.vregs) ∧ ¬(64 + 96 ≤ (at_ 64).me.vregs) ∧ ¬(31 % 32 = 0) ∧
    copyCtx.me.role = .copy ∧ (handled.trap 0x0D 31).agent? 0 0 ≠ none := by decide +kernel

theorem witness_MiscResults :
    let asked := wave.modMyCore fun x => { x with lr := { x.lr with lmcount := 4096 }, pre := .requested }
    let sel := fun (k : W64) => withS wave [(0, k)]
    let held := wave.setMe { wave.me with ld := [{ id := 0, seq := 0, done := false }] }
    wave.myCore.lr.lmcount ≤ 0 ∧ 4095 < asked.myCore.lr.lmcount ∧ asked.myCore.pre = .requested ∧ wave.myCore.pre ≠ .requested ∧
    wave.interlock [] [(118, 128)] = .ok () ∧ evenScalar 118 = true ∧ evenScalar 119 = false ∧
    wave.interlock [(96, 64)] [(119, 64)] = .ok () ∧ (sel 6).sval 96 = 6 ∧ 7 ≤ ((sel 7).sval 96).toNat ∧
    wave.myCore.run = .tasks ∧ wave.takeDeferred (wave.me.waitcTakes 0 7 7 7 7) = none ∧
    ((trapped wave (.park none)).takeDeferred ((trapped wave (.park none)).me.waitcTakes 0 0 7 7 7)).isSome = true ∧
    ¬((0 : BitVec 3).toNat = 7 ∨ held.me.ld.length ≤ (0 : BitVec 3).toNat) ∧
    wave.me.ld.length ≤ (0 : BitVec 3).toNat := by decide +kernel

theorem witness_JoinAndExit :
    let two := wave.setMe { wave.me with parts := [(0, { slot := some 0, lanes := 1, em := 1, pc := 0x1000000 }),
      (1, { slot := some 1, lanes := 2, em := 2, pc := 0x1000000, wait := some .wsync })] }
    let other := two.setMe { two.me with parts := two.me.parts.put 1 { slot := some 1, lanes := 2, em := 2, pc := 0x1000004 } }
    let busy := wave.setMe { wave.me with xc := [{ id := 0, seq := 0, done := false }] }
    copyCtx.me.role = .copy ∧ wave.me.role ≠ .copy ∧
    (other.me.parts.map fun p => (p.1, p.2.wait)) = [(0, none), (1, none)] ∧
    two.me.parts.keys = [0, 1] ∧ (two.me.parts.map fun p => (p.2.pc, p.2.wait)) = [(two.pc, none), (two.pc, some .wsync)] ∧
    2 ≤ two.me.parts.length ∧ wave.me.parts.length ≤ 1 ∧ two.takeDeferred (two.me.exitTakes 0) = none ∧
    ((trapped wave .copy).takeDeferred ((trapped wave .copy).me.exitTakes 0)).isSome = true ∧ two.cur.part = 0 ∧
    wave.takeDeferred (wave.me.exitTakes 0) = none ∧
    (busy.me.ld.isEmpty && busy.me.st.isEmpty && busy.me.eng.isEmpty && busy.me.xc.isEmpty) = false ∧
    (wave.me.ld.isEmpty && wave.me.st.isEmpty && wave.me.eng.isEmpty && wave.me.xc.isEmpty) = true ∧
    (wave.agent? 0 0).isSome = true ∧ wave.myCore.wgs.all (fun g => g.2.task.isNone) = true := by decide +kernel

theorem witness_BranchResults :
    let odd := withS wave [(0, 0x1000002), (23, 0x1000001)]
    wave.interlock [] [(119, 64)] = .ok () ∧ wave.interlock [(119, 64)] [] = .ok () ∧ wave.interlock [(96, 64)] [(119, 64)] = .ok () ∧
    isSz 96 = true ∧ isSz 0 = false ∧ isScalar 119 = true ∧ isScalar 125 = false ∧ maskOk 7 = true ∧
    wave.me.role ≠ .copy ∧ copyCtx.me.role = .copy ∧ wave.me.q.find? 3 = none ∧ ((stream wave).me.q.find? 0).isSome = true ∧
    (odd.sval 96).toNat % 4 ≠ 0 ∧ (odd.me.sget 23).toNat % 4 ≠ 0 ∧ (wave.me.sget 23).toNat % 4 = 0 := by decide +kernel

/-- Fork states: the split of a wave whose other slots are free, full, or full with 16 deferred entries. -/
def forks (n : Nat) : State :=
  wave.setMe { wave.me with
    m := wave.me.m.set 7 1
    parts := (List.range n).map fun k => (k, { slot := if k < 4 then some k else none, lanes := 3 <<< (2 * k), em := 3 <<< (2 * k), pc := 0x1000000 }) }

theorem witness_DivergentBranches :
    let used := fun (s : State) => s.me.parts.filterMap fun q => q.2.slot
    let em := fun (s : State) => s.em
    let m := fun (s : State) => s.me.mget 7
    (forks 1).me.role ≠ .copy ∧ copyCtx.me.role = .copy ∧ em (forks 1) &&& m (forks 1) = 1 ∧ em (forks 1) &&& ~~~(m (forks 1)) = 2 ∧
    em (forks 1) &&& (forks 1).me.mget 0 = 0 ∧ em (forks 1) &&& ~~~((forks 1).me.mget 0) = 3 ∧
    used (forks 3) = [0, 1, 2] ∧ used (forks 4) = [0, 1, 2, 3] ∧
    ((forks 19).me.parts.filter fun q => q.2.slot.isNone).length = 15 ∧
    ((forks 20).me.parts.filter fun q => q.2.slot.isNone).length = 16 ∧ (forks 20).me.parts.length < 64 := by decide +kernel

theorem witness_StreamResults :
    let s := withS (stream wave) [(0, 64), (1, 65), (2, 0x1000000)]
    let st := s.me.q.find? 0
    s.interlock [] [(119, 64)] = .ok () ∧ s.interlock [(96, 64)] [] = .ok () ∧ s.me.role ≠ .copy ∧ s.me.q.find? 3 = none ∧
    st.map (fun q => (q.pos, q.total)) = some (0, 64) ∧ (s.sval 96).toNat = 64 ∧ (s.sval 97).toNat = 65 ∧
    s.trapGate s.parkPoint [(98, 64)] = .ok () ∧
    isOk ((trapped s (.park none)).trapGate (trapped s (.park none)).parkPoint [(98, 64)]) = false ∧
    s.memGate = .ok () ∧ isOk (s.setMe { s.me with memParked := true }).memGate = false ∧ s.interlock [(98, 64)] [] = .ok () ∧
    s.readGate [(64, [(0, s.sval 98)])] = .ok () ∧ isOk (s.readGate [(64, [(0, 0x1000001)])]) = false ∧ isSz 98 = true ∧
    copyCtx.me.role = .copy ∧ Stream.ofBytes (leBytes 0 64) = none ∧
    Stream.ofBytes (List.replicate 64 0) = none ∧
    (Stream.ofBytes ([0, 0, 0, 1, 0, 0, 0, 0, 1, 0, 0, 0, 1, 0, 0, 0, 1, 0, 0, 0, 1, 0, 0, 0] ++ List.replicate 32 0 ++
      [4, 0, 0, 0, 0, 0, 0, 0])).isSome = true := by decide +kernel

theorem witness_TrapInstructions :
    (0x001FFFFF : W32).toNat / 2 ^ 21 = 0 ∧ 0x20 ≤ (0x20 : BitVec 8).toNat ∧ (0x3F : BitVec 8).toNat ≤ 0x3F ∧
    ¬((0x40 : BitVec 8).toNat ≤ 0x3F) ∧ ¬(0x20 ≤ (0x1F : BitVec 8).toNat) ∧ wave.me.handling = none ∧ inHandler.me.handling ≠ none ∧
    inHandler.me.epc.toNat % 4 = 0 ∧ (inHandler.setMe { inHandler.me with epc := 0x1000002 }).me.epc.toNat % 4 ≠ 0 := by
  decide +kernel

theorem witness_TrapEntry :
    handled.agent? 0 0 = some handled.me ∧ (handled.core 0).lr.flags % 2 = 1 ∧ handled.me.handling = none ∧
    (handled.me.parts.find? 0).map Part.op = some none := by decide +kernel

theorem witness_KernelEnd :
    wave.agent? 0 0 = some wave.me ∧ (wave.core 0).lr.flags % 2 = 0 ∧ ((wave.core 0).wgs.find? wave.me.wg).isSome = true ∧
    inHandler.agent? 0 0 = some inHandler.me ∧ (inHandler.core 0).lr.flags % 2 = 1 ∧ inHandler.me.handling ≠ none ∧
    ((staged wave).core 0).run = .stage 0 0 ∧ (staged wave).plans.find? 0 = some plan0 ∧ plan0.ending = none := by decide +kernel

theorem witness_LimmJoins :
    let s : State := { wave with mem := wave.mem.putBytes 4 (wordBytes 0x2626BEE4), cur := { wave.cur with word := 0x0D234567 } }
    (0x0D234567 : W32).toNat / 2 ^ 26 = 3 ∧ s.fetch (s.pc + 4) (some s.cur.word) = .ok 0x2626BEE4 ∧
    decode 0x2626BEE4 = .ok (.iaddi 0x89A 125 100) ∧ joins (.iaddi 0x89A 125 100) = true ∧ joins .nop = false ∧
    decode 0x26268361 = .ok (.iaddi 0x89A 6 97) ∧ decode 0x2626B061 = .ok (.iaddi 0x89A 96 97) ∧ isScalar 96 = true ∧
    isScalar 97 = true ∧ s.ready = true ∧
    decode 0xFFFFFFFF = .error .illegalOpcode ∧ decode 0x003F7EFC = .error .illegalOperand ∧
    decode 0x001FFFFF = .ok (.ztrap 0x1FFFFF) ∧
    isOk ((s.modPart fun q => { q with pc := 0x3000000 }).fetch 0x3000004 (some s.cur.word)) = false := by decide +kernel

theorem witness_AddressChecks :
    let x := wave.core 0
    let es := fun (a : W64) => wave.eas false 96 a 4
    (es 0x1000002).find? (fun e => e.2.toNat % 4 != 0) = some (0, 0x1000002) ∧
    (es 0x3000000).filter (fun e => (wave.place 0 .r e.2 4).isNone) = [(0, 0x3000000)] ∧
    (es 0x11FFFFC).filter (fun e => (wave.place 0 .r e.2 4).isNone) = [] ∧
    2 ^ 23 - 128 < 2 ^ 23 ∧ (2 ^ 23 - 128) % 128 = 0 ∧ 128 ∣ 128 ∧ x.regTop ≤ x.scrTop ∧ x.scrTop ≤ x.xchTop ∧
    x.regTop * 65536 = 0x180000 ∧ x.scrTop * 65536 = 0x400000 := by decide +kernel

/-- A copy of two words from 0x1000400 to offset 0x180100, unfinished or at its visible point. -/
def copyBox : Box :=
  { gaddr := 0x1000400, key := 0, soff := 0x180100, spitch := 128, ndim := 1, esize := 4, pipe := 0, n := [2, 1, 1, 1, 1],
    strides := [0, 0, 0, 0], reserved := true }
def copying (fn : Nat) (moved : Bool) : CopyOp :=
  { id := 7, agent := 128, fn := fn, cmd := 0x40000, box := copyBox, bar := none, sig := some 0x1000200, due := 8, moved := moved,
    word := 0, pc := 0 }
def copyRuns (o : CopyOp) : State := copyCtx.modMyCore fun x => { x with copies := [o] }

/-- A state whose core holds all 2 048 requests; one with an access of the issuing agent at the pager. -/
def filled (s : State) : State := s.modMyCore fun x => { x with agents := x.agents.put 9 { s.me with ld := [{ id := 0, seq := 0, done := false, reqs := 2048 }] } }
def faulted (s : State) (ord : Nat) : State :=
  s.setMe { s.me with faults := [{ id := 0, cls := .ld, kind := .load false, size := 4, scope := 1, dst := none, pc := 0, word := 0, reqs := [],
                                   ord := ord }] }

/-- A load, a store and an atomic operation of the word at 0x1000010, and each check that can stop one. -/
theorem witness_LoadsIssue :
    let s := withS wave [(0, 0x1000010)]
    let es := s.eas true 96 0 4
    let empty := (withS wave [(0, pool 0x180000)]).modMyCore fun x => { x with emptyLines := [0x3000] }
    let full := s.setMe { s.me with ld := (List.range 63).map fun k => { id := k, seq := k, done := false },
                                    st := (List.range 63).map fun k => { id := k, seq := k, done := false } }
    let late := faulted s 0
    let cp := copyRuns (copying 0 false)
    let bad := trapped s (.park none)
    let read := trapped s (.loads [1024])
    let need_ := fun (t : State) => t.requests 0 .r 4 (es.map Prod.snd)
    -- traps whose point it is, fields, parked memory issue
    s.trapGate s.parkPoint [(96, 64)] = .ok () ∧ isOk (bad.trapGate bad.parkPoint [(96, 64)]) = false ∧
    isOk (read.trapGate read.parkPoint [(96, 64)]) = false ∧ s.trapGate s.parkPoint [(96, 64), (0, 32)] = .ok () ∧
    s.memGate = .ok () ∧ isOk (late.setMe { late.me with memParked := true }).memGate = false ∧ isOk (faulted s 1).memGate = false ∧
    s.interlock [(96, 64)] [(0, 32)] = .ok () ∧ loadOk 0 32 96 = true ∧ loadOk 124 32 96 = false ∧
    -- alignment and rights, EMPTY lines, earlier accesses, earlier copies
    s.checkEa .r 4 es = .ok () ∧ isOk (s.checkEa .r 4 [(0, 0x1000011)]) = false ∧ isOk (s.checkEa .r 4 [(0, 0x3000000)]) = false ∧
    s.emptyGate 4 es = .ok () ∧ isOk (empty.emptyGate 4 [(0, pool 0x180000)]) = false ∧ late.orderGate 0 es = .ok () ∧
    late.orderGate 1 es = .ok () ∧ isOk (late.orderGate 1 []) = false ∧ isOk (late.orderGate 2 es) = false ∧
    cp.copyOrderGate .r 4 [(0, pool 0x180200)] = .ok () ∧ isOk (cp.copyOrderGate .r 4 [(0, pool 0x180100)]) = false ∧
    s.copyOrderGate .r 4 es = .ok () ∧
    -- room and requests
    es ≠ [] ∧ s.me.room .ld = true ∧ full.me.room .ld = false ∧ full.me.room .st = false ∧ 0 < need_ s ∧
    s.myCore.outstanding + need_ s ≤ 2048 ∧ 2048 < (filled s).myCore.outstanding + need_ (filled s) ∧ need_ (filled s) ≠ 0 ∧
    -- stores and atomic operations
    s.interlock [(96, 64), (0, 32)] [] = .ok () ∧ storeOk 0 32 96 = true ∧ s.streamsOk [(0, 32)] = true ∧
    s.streamsOk [(120, 32)] = false ∧ s.checkEa .w 4 es = .ok () ∧ s.me.room .st = true ∧ isOk (s.pullAll true [(0, 32)]) = true ∧
    (overrun s).streamsOk [(120, 32)] = true ∧ isOk ((overrun s).pullAll false [(120, 32)]) = false ∧
    s.interlock [(96, 64), (0, 32), (swapReg 0 32, 32)] [(0, 32)] = .ok () ∧ atomOk true 0 32 96 = true ∧
    atomOrderOk 4 3 = true ∧ s.checkEa .rw 4 es = .ok () ∧ copyCtx.me.role = .copy ∧ namesLanes [0, 96] = true := by decide +kernel

theorem witness_LoadResults :
    let s := withS wave [(0, 0x1000010)]
    let es := s.eas (isVec 0) 96 (s.imm 0xFFF) 1
    let code := fun (t : State) (va : W64) => t.laneCode 0 (t.openPages 0 0 t.nextId) (.load false) 1 va 1
    s.trapGate s.parkPoint [(96, 64)] = .ok () ∧ s.memGate = .ok () ∧ s.interlock [(96, 64)] [(0, 8)] = .ok () ∧
    loadOk 0 8 96 = true ∧ s.me.role ≠ .copy ∧ s.issueGate .r 1 0 .ld es = .ok () ∧ es.length = 64 ∧
    (code s 0x100000F).isNone = true ∧ s.laneBad 0 (.load false) 1 0x100000F 1 = false ∧
    (code s 0x1010000).isNone = false := by decide +kernel

/-- No line is in a cache of the core, so none is of another context. -/
theorem wave_cachesOwn (s : State) (l1 : (s.core 0).l1 = []) (buf : (s.cluster (clusterOf 0)).buf = [])
    (au : (s.cluster (clusterOf 0)).au = []) : s.cachesOwn 0 := by
  intro line l h
  rw [l1, buf, au] at h
  rcases h with h | h | h <;> exact nomatch (show (none : Option CLine) = some l from h)

theorem witness_caches : wave.cachesOwn 0 ∧ (stream wave).cachesOwn 0 ∧ (withS wave [(0, 0x1000010)]).cachesOwn 0 :=
  ⟨wave_cachesOwn _ (by decide +kernel) (by decide +kernel) (by decide +kernel),
   wave_cachesOwn _ (by decide +kernel) (by decide +kernel) (by decide +kernel),
   wave_cachesOwn _ (by decide +kernel) (by decide +kernel) (by decide +kernel)⟩

theorem witness_StoreResults :
    let s := withS wave [(0, 0x1000010)]
    let es := s.eas (storePerLane 118 96) 96 (s.imm 0x7F0) 16
    s.trapGate s.parkPoint [(96, 64), (118, 128)] = .ok () ∧ s.memGate = .ok () ∧ s.interlock [(96, 64), (118, 128)] [] = .ok () ∧
    storeOk 118 128 96 = true ∧ s.streamsOk [(118, 128)] = true ∧ s.me.role ≠ .copy ∧ s.issueGate .w 16 0 .st es = .ok () ∧
    es = [(0, 0x1000800)] ∧ s.pullAll (storePerLane 118 96) [(118, 128)] = .ok (s, []) ∧
    (s.laneCode 0 (s.openPages 0 0 s.nextId) .store 1 0x1000800 16).isNone = true := by decide +kernel

theorem witness_StreamReads :
    let s := stream wave
    let two := s.setMe { s.me with q := s.me.q ++ s.me.q.map fun p => (3, p.2) }
    streamsOnce [0, 120] = true ∧ s.streamsOk [(0, 32), (120, 32)] = true ∧ isOk (s.pullAll true [(0, 32), (120, 32)]) = true ∧
    streamsOnce [123, 120] = true ∧ two.streamsOk [(123, 32), (120, 32)] = true ∧
    isOk (two.pullAll false [(123, 32), (120, 32)]) = true := by decide +kernel

theorem witness_MemoryLanes :
    let s := wave
    let ia := 5 * 2 ^ 53 + 3 * 2 ^ 43
    let rep : CLine := { own := 0, data := [], dirty := 0, bad := 0, valid := BitVec.allOnes 128 }
    let r := s.setDie 0 { s.die 0 with reps := [(2 ^ 48 / 128, rep)] }
    s.place 0 .w (pool 0x3FFFFC) 4 = some (.pool 0x3FFFFC) ∧ s.place 0 .rw (pool 0x180000) 8 = some (.pool 0x180000) ∧
    MemKind.write (.red 10) = true ∧ MemKind.write (.load true) = false ∧
    s.place 0 .w 0x100007C 4 = some (.mem 0x7C) ∧ 0x7C % 128 + 4 ≤ 128 ∧ (s.core 0).l1.find? 0 = none ∧
    (2 < 3 ∧ iaClass 0x7C ≠ 5 ∧ iaClass 0x7C ≠ 6) ∧ ¬(3 < 3) ∧ iaClass ia = 5 ∧ (s.cluster (clusterOf 0)).buf.find? 0 = none ∧
    (s.cluster (clusterOf 0)).au.find? 0 = none ∧ s.memBad (s.home 0x7C) 4 = false ∧ (s.flushLine 0 0).memBad (s.home 0x7C) 4 = false ∧
    s.replicaHeld 0x7C = false ∧ (r.die 0).reps.keys = [2 ^ 48 / 128] := by decide +kernel

theorem witness_FenceResults :
    let late := faulted wave 0
    let bad := trapped wave (.park none)
    wave.trapGate wave.parkPoint [] = .ok () ∧ isOk (bad.trapGate bad.parkPoint []) = false ∧ late.trapGate late.parkPoint [] = .ok () ∧
    wave.memGate = .ok () ∧ isOk (faulted wave 1).memGate = false ∧ late.memGate = .ok () ∧ wave.me.faults = [] ∧ late.me.faults ≠ [] ∧
    (4 : BitVec 3).toNat < 5 ∧ 5 ≤ (5 : BitVec 3).toNat ∧ (1 : BitVec 3).toNat < 2 ∧ (2 : BitVec 2) ≠ 1#2 := by decide +kernel

theorem witness_CacheLines :
    let s := withS wave [(0, 0x1000080), (1, pool 0x180000), (2, 0x3000000), (3, 0x180000), (4, 0x5000), (5, 0x180040), (6, 0x5001),
      (7, 0xFE00000000800000), (8, 0x8000000000180000), (9, 0)]
    let ro : State := { s with ctxs := s.ctxs.put 0 { s.ctx 0 with mw := [(0, { vbase := 8, ibase := 0, log2 := 21, valid := true, w := true })] } }
    let full := s.setMe { s.me with st := (List.range 63).map fun k => { id := k, seq := k, done := false } }
    let dirty := s.modMyCore fun x => { x with l1 := [(1, { own := 0, data := [(5, 9)], dirty := 32, bad := 0, valid := BitVec.allOnes 128 })] }
    let x := s.myCore
    let pool_ := fun (r : Reg) => decide ((s.sval r).toNat / 2 ^ 23 = 0xFE * 2 ^ 33)
    s.trapGate s.parkPoint [(96, 64)] = .ok () ∧ s.memGate = .ok () ∧ s.interlock [(96, 64)] [] = .ok () ∧ isSz 96 = true ∧
    isSz 0 = false ∧ pool_ 97 = true ∧ pool_ 96 = false ∧ pool_ 103 = false ∧ s.place 0 .r (s.sval 103) 1 = none ∧
    s.place 0 .w (s.sval 103) 1 = none ∧ s.place 0 .r (s.sval 98) 1 = none ∧ s.place 0 .w (s.sval 98) 1 = none ∧
    s.place 0 .r (s.sval 96) 1 = some (.mem 0x80) ∧ ro.place 0 .r (s.sval 96) 1 = none ∧ ro.place 0 .w (s.sval 96) 1 = some (.mem 0x80) ∧
    s.me.room .st = true ∧ full.me.room .st = false ∧ s.myCore.outstanding < 2048 ∧ 2048 ≤ (filled s).myCore.outstanding ∧
    (filled s).me.room .st = true ∧ s.retiredLine (s.home 128 / 128) = false ∧ s.memBad (s.home 128 / 128 * 128) 128 = false ∧
    (dirty.core 0).l1.keys = [1] ∧ dirty.place 0 .r (dirty.sval 96) 1 = some (.mem 0x80) ∧
    s.trapGate s.parkPoint [(99, 64), (100, 64)] = .ok () ∧ s.interlock [(99, 64), (100, 64)] [] = .ok () ∧
    s.trapGate s.parkPoint [(99, 64)] = .ok () ∧ s.interlock [(99, 64)] [(119, 64)] = .ok () ∧
    (s.sval 101).toNat % 2 ^ 23 % 128 ≠ 0 ∧ (s.sval 99).toNat < 2 ^ 23 ∧ (s.sval 99).toNat % 2 ^ 23 % 128 = 0 ∧
    x.regTop * 65536 ≤ (s.sval 99).toNat ∧ (s.sval 99).toNat + 128 * (s.sval 100).toNat = x.scrTop * 65536 ∧
    ¬((s.sval 99).toNat + 128 * (s.sval 102).toNat ≤ x.scrTop * 65536) ∧ ¬((s.sval 104).toNat < 2 ^ 23) ∧
    (s.sval 105).toNat = 0 ∧ (s.sval 99).toNat + 128 * 1 ≤ x.scrTop * 65536 := by decide +kernel

theorem witness_ExchangeStores :
    let one := wave.modMyCore fun x => { x with scrTop := 32, xchTop := 64 }
    let va : W64 := 0xFD000000000FFFF8
    let s := withS one [(0, va)]
    let full := s.setMe { s.me with xc := (List.range 63).map fun k => { id := k, seq := k, done := false } }
    s.trapGate s.parkPoint [(96, 64), (98, 64)] = .ok () ∧ s.memGate = .ok () ∧ s.interlock [(96, 64), (98, 64)] [] = .ok () ∧
    s.me.role ≠ .copy ∧ copyCtx.me.role = .copy ∧ storeOk 98 64 96 = true ∧ storeOk 95 64 96 = false ∧ s.streamsOk [(98, 64)] = true ∧
    s.streamsOk [(120, 64)] = false ∧ s.eas (storePerLane 98 96) 96 0 8 = [(0, va)] ∧ va.toNat % 8 = 0 ∧
    (s.eas (storePerLane 98 96) 96 0 8).filter (fun e => (s.peer e.2 8).isNone) = [] ∧
    (wave.eas false 96 0x3000001 8).find? (fun e => e.2.toNat % 8 != 0) = some (0, 0x3000001) ∧
    (wave.eas false 96 0 8).filter (fun e => (wave.peer e.2 8).isNone) = [(0, 0)] ∧ s.me.room .xc = true ∧ full.me.room .xc = false ∧
    s.pullAll (storePerLane 98 96) [(98, 64)] = .ok (s, []) ∧ (overrun s).streamsOk [(120, 32)] = true ∧
    isOk ((overrun s).pullAll false [(120, 32)]) = false := by decide +kernel

/-- A barrier of the scratchpad or of the cluster, initialised and empty of bytes. -/
def barred (s : State) (p : BarAt) (b : Bar) : State :=
  let s := s.barPut 0 p b
  match p with
  | .cluster n => { s with clusters := s.clusters.put 0 { s.cluster 0 with own := [(n, 0)] } }
  | .pool _ => s
def bar (clu xchg : Bool) (exp pend carry : Nat) : Bar :=
  { phase := 0xFFFF, exp := exp, pend := pend, ephase := 0, bytes := 0, err := false, ovf := false, xchg := xchg, clu := clu, carry := carry }

theorem witness_BarrierObjects :
    let x := wave.myCore
    2 ^ 63 + 63 < 2 ^ 63 + 64 ∧ 0x180000 % 16 = 0 ∧ x.regTop * 65536 ≤ 0x180000 ∧ 0x3FFFF0 + 16 ≤ x.scrTop * 65536 ∧
    0x17FFF0 < x.regTop * 65536 ∧ x.scrTop * 65536 < 0x400000 + 16 ∧
    (bar true false 65535 65535 255).phase < 2 ^ 16 ∧ (bar true false 65535 65535 255).exp < 2 ^ 16 ∧
    (bar true false 65535 65535 255).carry < 256 ∧ (bar true false 65535 65535 255).rest < 16 ∧
    (bar true false 65535 65535 255).resv < 2 ^ 16 := by decide +kernel

theorem witness_BarrierCompletes :
    let s := barred wave (.cluster 63) (bar true true 1 0 0)
    let t : State := { s with clusters := s.clusters.put 0 { s.cluster 0 with arrived := [(63, [0, 3])] } }
    ((t.barGet 0 (.cluster 63)).pend = 0 ∧ (t.barGet 0 (.cluster 63)).bytes = 0 ∧ (t.barGet 0 (.cluster 63)).carry = 0) ∧
    ((t.cluster (clusterOf 0)).arrived.getD 63 []) = [0, 3] ∧ (t.barGet 0 (.cluster 63)).xchg = true ∧
    ((barred wave (.pool 0x180000) (bar false false 2 1 0)).barGet 0 (.pool 0x180000)).pend = 1 ∧
    ((barred wave (.pool 0x180000) (bar false false 2 0 2)).barGet 0 (.pool 0x180000)).carry = 2 := by decide +kernel

theorem witness_BarrierArrivals :
    let at_ := fun (clu xchg : Bool) (exp pend carry : Nat) =>
      let p := if clu then BarAt.cluster 0 else .pool 0x180000
      withS (barred wave p (bar clu xchg exp pend carry)) [(0, if clu then 0x8000000000000000 else 0x180000)]
    let s := at_ false false 2 1 0
    let late := s.setMe { s.me with faults := [{ id := 0, cls := .st, kind := .store, size := 4, scope := 1, dst := none,
                                                 pc := 0, word := 0, reqs := [] }] }
    s.interlock [(96, 64)] [(119, 64)] = .ok () ∧ isSz 96 = true ∧ isSz 119 = true ∧
    s.barOf (s.sval 96) = .ok (.pool 0x180000, bar false false 2 1 0) ∧ isOk (s.barOf 0x180001) = false ∧
    s.me.faults = [] ∧ late.me.faults ≠ [] ∧
    (at_ true true 2 1 0).barOf 0x8000000000000000 = .ok (.cluster 0, bar true true 2 1 0) ∧
    (at_ true true 2 1 0).interlock [(96, 64)] [(119, 64)] = .ok () ∧ (at_ true true 2 1 0).me.faults = [] ∧
    (at_ true true 2 1 0).xstsLanded = true ∧
    (s.modMyCore fun x => { x with xsts := [{ id := 7, from_ := 0, agent := 0, writes := [], peers := [] }] }).xstsLanded = false ∧
    (at_ true true 2 0 1).barOf 0x8000000000000000 = .ok (.cluster 0, bar true true 2 0 1) ∧
    (at_ false false 2 0 2).barOf 0x180000 = .ok (.pool 0x180000, bar false false 2 0 2) ∧ min 2 255 ≤ 2 ∧
    (at_ false false 2 0 1).barOf 0x180000 = .ok (.pool 0x180000, bar false false 2 0 1) ∧ 1 < min 2 255 := by decide +kernel

theorem witness_BarrierOperations :
    let s := withS (barred wave (.pool 0x180000) (bar false false 2 2 0)) [(0, 0x180000), (1, 65535), (2, 0x8000000000000000),
      (3, 65537), (4, 0x7FFFFFFF), (5, 0x80000000)]
    s.interlock [(96, 64), (97, 64)] [] = .ok () ∧ s.barName (s.sval 96) = .ok (.pool 0x180000) ∧ isOk (s.barName 1) = false ∧
    s.barOwner (s.sval 96) (.pool 0x180000) true = .ok () ∧ s.barName (s.sval 98) = .ok (.cluster 0) ∧
    s.barOwner (s.sval 98) (.cluster 0) true = .ok () ∧ isOk (({ s with clusters := s.clusters.put 0 { s.cluster 0 with
      own := [(0, 5)] } } : State).barOwner (s.sval 98) (.cluster 0) true) = false ∧ (s.sval 97).toNat < 65536 ∧ (s.sval 99).toNat < 2 ^ 17 ∧
    1 ≤ (s.sval 99).toNat % 65536 ∧ ¬((s.sval 99).toNat < 65536) ∧
    s.barOf (s.sval 96) = .ok (.pool 0x180000, bar false false 2 2 0) ∧ isOk (s.barOf 1) = false ∧
    ((s.sval 100).toInt < 2 ^ 31 ∧ -(2 ^ 31 : Int) ≤ (s.sval 100).toInt) ∧ ¬((s.sval 101).toInt < 2 ^ 31) ∧
    s.interlock [(96, 64)] [(118, 128)] = .ok () ∧ evenScalar 118 = true ∧ s.interlock [(96, 64)] [] = .ok () := by decide +kernel

theorem witness_BarrierWaits :
    let s := withS (barred wave (.pool 0x180000) (bar false false 2 2 0)) [(0, 0x180000), (1, 0x7FFF), (2, 0x7FFE)]
    let ready := fun (ph : Nat) => decide (1 ≤ (0xFFFF + 65536 - ph) % 65536 ∧ (0xFFFF + 65536 - ph) % 65536 ≤ 2 ^ 15)
    let never := s.setMe { s.me with twh := 0 }
    s.interlock [(96, 64), (97, 64)] [(119, 64)] = .ok () ∧ isSz 96 = true ∧ isSz 97 = true ∧ isSz 119 = true ∧
    s.barOf (s.sval 96) = .ok (.pool 0x180000, bar false false 2 2 0) ∧ ready (s.sval 97).toNat = true ∧ ready (s.sval 98).toNat = false ∧
    s.myPart.expired = false ∧ s.me.twh ≠ 0 ∧ never.me.twh = 0 := by decide +kernel

/-- A box of two rows of two words at global address 0x1000400 and offset 0x180100, its command, and its barrier. -/
def copyReady (cmd : W64) : State :=
  withS (barred (withPool copyCtx 0x180000 ([0, 4, 0, 1, 0, 0, 0, 0] ++ List.replicate 8 0 ++ [0, 1, 0x18, 0] ++ [128, 0, 0, 0] ++
    [2, 4, 0, 0] ++ [2, 0, 2, 0] ++ List.replicate 8 0 ++ [128, 0, 0, 0, 0, 0] ++ List.replicate 18 0)) (.pool 0x180800) (bar false false 1 1 0))
    [(0, 0x180000), (1, cmd), (2, 0x180800), (3, 0)]

theorem witness_CopiesIssue :
    let s := copyReady 0x10C00
    let plain := copyReady 0x10000
    s.copyGate [(96, 64), (97, 64), (98, 128)] = .ok () ∧ isOk ((trapped s .copy).copyGate []) = false ∧
    s.copyGate [(96, 64), (97, 64)] = .ok () ∧ isScalar 125 = false ∧ s.copyGate [] = .ok () ∧
    s.interlock [(96, 64), (97, 64), (98, 128)] [] = .ok () ∧
    (match plain.copyChecks 0 97 96 125 with
      | .ok (o, mark) => o.bar == none && o.sig == none && mark == []
      | .error _ => false) = true ∧
    (match s.copyChecks 0 97 96 98 with
      | .ok (o, mark) => o.bar == some 0x180800 && o.sig == none && mark != []
      | .error _ => false) = true ∧
    wave.me.role ≠ .copy ∧ s.me.role = .copy ∧ copyRegsOk 97 96 98 = true ∧ copyRegsOk 97 96 99 = false ∧
    isOk (s.copyChecks 0 97 96 98) = true ∧ isOk (s.copyChecks 1 97 96 98) = false ∧
    isOk ((copyReady 0x10800).copyChecks 1 97 96 98) = true ∧ isOk (s.collChecks 97 96 98) = false ∧
    s.interlock [] [(119, 64)] = .ok () ∧ isSz 119 = true ∧ isSz 0 = false := by decide +kernel

theorem witness_MatrixIssue :
    let g := fun (s : State) => s.setMe { s.me with gng := 0x200 }
    let two := matrix.modMyCore fun x => { x with
      agents := x.agents.put 1 { matrix.me with index := 1, gng := 0x200 }
      lr := { x.lr with nwaves := 2, sects := x.lr.sects.map fun q => { q with count := 2 } } }
    let s := withS two [(0, 0x200), (1, 0x100), (2, 0x180000), (3, 0x20000000000)]
    let met := (g s).modMyCore fun x => { x with
      rdv := [{ wg := 0, gng := 0x200, fn := 1, arrived := [{ agent := 1, part := 0, slot := 0, d := 0, a := 0, ctl := 0 }] }] }
    let holds := (g s).modMyCore fun x => { x with baton := some (0, 0x200), nomActive := { x.nomActive with valid := true } }
    let drain := fun (at_ : Nat) => withPool (barred holds (.pool 0x190000) (bar false false 1 1 0)) 0x180000 (leBytes 0x1A0000 4 ++ leBytes 0 8 ++
      leBytes 512 4 ++ [10, 0, 0, 0] ++ leBytes 0 16 ++ leBytes at_ 4 ++ leBytes 0 24)
    let desc := withPool holds 0x180000 ([0, 0x40, 0x18, 0] ++ List.replicate 8 0 ++ [0x80, 0, 0, 0])
    matrix.mtxHead [(96, 64)] [] true = .ok () ∧ isOk (wave.mtxHead [] [] true) = false ∧ matrix.me.usedSlots.length ≤ 1 ∧
    (gangCount 0x200 = 2 ∧ gangBase 0x200 = 0 ∧ 2 ≤ s.myCore.lr.nwaves ∧ s.myCore.lr.waveRole 1 = some 0 ∧ s.holdsBaton = false ∧
      s.batonPending = false ∧ s.me.gng = 0) ∧ gangCount 0x100 = 1 ∧
    gangCount matrix.me.gng = 0 ∧ (g s).holdsBaton = false ∧ holds.holdsBaton = true ∧
    met.myCore.rdv.map (fun r => (r.wg, r.gng, r.fn)) = [(0, 0x200, 1)] ∧ ((met.agentD 0 1).parts.find? 0).isSome = true ∧
    isOk (holds.mmaChecks 5 99 98 0) = true ∧ isOk ((g s).mmaChecks 5 99 98 0) = false ∧
    isOk (desc.wloadChecks 98) = true ∧ isOk ((g s).wloadChecks 98) = false ∧
    s.me.slots ≤ (15 : BitVec 7).toNat ∧ (0 : BitVec 7).toNat < s.me.slots ∧ s.me.room .eng = true ∧
    isOk (s.mdrainChecks 97 0) = false ∧ isOk ((drain 0).mdrainChecks 98 0) = true ∧ isOk ((drain 0x80190000).mdrainChecks 98 0) = true ∧
    isOk ((drain 0x190000).mdrainChecks 98 0) = true ∧ isOk ((drain 0x800000).mdrainChecks 98 0) = false ∧ matrix.mtxHead [] [(119, 64)] (isSz 119 && decide ((3 : BitVec 7).toNat < 4)) = .ok () := by
  decide +kernel

theorem witness_PipeInstructions :
    let s := withS (staged wave) [(0, 0), (1, 1)]
    let with_ := fun (q : PipeSt) => withS { staged wave with plans := [(0, { plan0 with pipes := [q] })] } [(0, 0), (1, 1)]
    let mine : Ticket := { t := 1, at_ := .vault 0, wg := 0, st := .reserved }
    let eats : PipeSt := { pipe0 with producer := 1, consumer := 0, tickets := [{ mine with st := .delivered }], waitC := [] }
    let of_ := fun (s : State) (side : PipeSt → List Nat) => s.pipeOf 0 96 side
    let p := fun (q : PipeSt) => [q.producer]
    let c := fun (q : PipeSt) => [q.consumer]
    let both := fun (q : PipeSt) => [q.producer, q.consumer]
    s.interlock [(96, 64)] [(119, 64)] = .ok () ∧ isOk (of_ s p) = true ∧ isOk (of_ (with_ eats) p) = false ∧
    isOk (of_ (with_ eats) both) = true ∧ isOk (of_ s both) = true ∧
    isOk (of_ (with_ { pipe0 with producer := 1, consumer := 1 }) both) = false ∧ pipe0.sealedP = false ∧ pipe0.waitP = [] ∧ pipe0.vfree.pop.isSome = true ∧
    ({ pipe0 with vfree := {} } : PipeSt).vfree.pop = none ∧ ({ pipe0 with flags := 1 } : PipeSt).wfree.pop.isSome = true ∧
    ({ pipe0 with flags := 1 } : PipeSt).flags % 2 = 1 ∧ pipe0.flags % 2 ≠ 1 ∧ pipe0.spillOpen = false ∧
    s.interlock [(96, 64), (97, 64)] [] = .ok () ∧ s.myUid = 0 ∧
    ([mine].any fun u => u.t == 1 && u.wg == s.myUid && u.st == .reserved) = true ∧ s.me.faults = [] ∧
    s.pushing 0 s.me.wg 0 0 1 = false ∧ s.interlock [(96, 64)] [(118, 128)] = .ok () ∧ isOk (of_ (with_ eats) c) = true ∧
    s.myCore.moving = false ∧ eats.closed = false ∧ eats.cfree = 0 ∧
    ({ pipe0 with consumer := 0, producer := 1, tNext := 1,
                  tickets := [{ mine with t := 0, st := .committed, atHome := true }] } : PipeSt).cfree = 1 ∧
    ({ pipe0 with sealedP := true, sealedH := true } : PipeSt).closed = true ∧
    (eats.tickets.any fun u => u.t == 1 && u.wg == s.myUid && u.st == .delivered) = true ∧ eats.flying = [] := by decide +kernel

/-- Page 0 with the records that the attention, invocation and plan statements read: a sweep descriptor at 0x400, query
records of slots 0 and 9 at 0x440 and 0x460, a list at 0x480, a row at 0x500, an invocation record at 0x600, a template table
at 0x800 with its nodes at 0x900, and a launch record at 0x1000. -/
def records (s : State) : State :=
  let m := s.mem.putBytes 0x400 (leBytes 0x1004000 8 ++ leBytes 0x1008000 8 ++ leBytes 0x2000 4 ++ leBytes 2 4 ++ [0, 64, 0, 0] ++
    leBytes 8 2 ++ leBytes 0 2 ++ leBytes 0x100C000 8 ++ leBytes 1 4 ++ leBytes 0 20)
  let m := m.putBytes 0x440 (leBytes 0 2 ++ [0, 128] ++ leBytes 2 4 ++ leBytes 0x1000500 8 ++ leBytes 0x1000480 8 ++ leBytes 7 8 ++
    leBytes 9 2 ++ [0, 128] ++ leBytes 2 4 ++ leBytes 0x1000500 8 ++ leBytes 0x1000480 8 ++ leBytes 7 8)
  let m := m.putBytes 0x480 (leBytes 1 4 ++ leBytes 0 4)
  let m := m.putBytes 0x600 (leBytes 0 4 ++ leBytes 5 4 ++ leBytes 0 24)
  let m := (m.putBytes 0x800 (leBytes 0x1000900 8 ++ leBytes 1 4)).putBytes 0x900 (leBytes 0x1001000 8)
  let m := m.putBytes 0x1000 (leBytes 0x4C524E31 4 ++ leBytes 1 2 ++ leBytes 0 2 ++ leBytes 0x1000000 8 ++ leBytes 0 4 ++
    leBytes 0xFFFFFFFF 4 ++ leBytes 96 2 ++ [24, 64, 64, 1, 1, 0] ++ leBytes 0 10 ++ [1, 0] ++ leBytes 0 20 ++ leBytes 0 4 ++
    [1, 1, 0, 0] ++ leBytes 0 56 ++ leBytes 1 4 ++ [1, 0, 0, 0])
  { s with mem := m }

def query0 (st : SlotSt) : QSlot :=
  { st := st, qfmt := 0, last := 128, pages := [1, 0], tag := 7, row := List.replicate 64 0, acc := { ord := 0, m := 0xFF800000, l := 0, o := [] } }
def sweep0 (st : SweepSt) : Sweep :=
  { ctx := 0, addr := 0x1000400, plan := 0, kbase := 0x1004000, vbase := 0x1008000, pstride := 0x2000, npages := 2, kvfmt := 0,
    hdim := 64, stage := 0, leadDie := 0, nslots := 8, wheyBase := 0x100C000, wheySlots := 1, doneSig := 0, st := st,
    slots := [(0, query0 .active)] }
def swept (s : State) (v : Sweep) : State := { staged (records s) with sweeps := [v] }

theorem witness_AttnInstructions :
    let s := withS (staged (records wave)) [(0, 0x1000400), (1, 0x1000440), (2, 0x1000460)]
    let w := sweep0 .running
    let late := withS (swept wave w) [(0, 0x1000400), (1, 0x1000440)]
    let u := s.release 0 3
    let desc := (u.homeBytes 0 0x1000400 64).bind (u.sweepOf 0 0 0x1000400)
    let leaves : State := { s with ctxs := s.ctxs.put 0 { s.ctx 0 with st := .teardown } }
    s.attnGate [(96, 64)] = .ok () ∧ s.attnGate [(96, 64), (97, 64)] = .ok () ∧ s.interlock [(96, 64), (97, 64)] [(119, 64)] = .ok () ∧ isSz 96 = true ∧ isSz 119 = true ∧
    (s.sval 96).toNat % 64 = 0 ∧ (s.sval 97).toNat % 32 = 0 ∧ s.sweepGate 0x1000400 = .ok () ∧ s.mapped 0 .r 0x1000440 32 = true ∧
    u.pageGate [u.awaited 0 .r 0x1000400 64, u.awaited 0 .r 0x1000440 32] = .ok () ∧ desc.isSome = true ∧
    (leaves.ctx 0).st ≠ .active ∧ (s.ctx 0).st = .active ∧
    u.recordGate desc 0x1000440 = .ok () ∧ s.me.faults = [] ∧ (late.sweep? 0 0x1000400).map Sweep.st = some .running ∧
    (s.release 0 3).sweep? 0 0x1000400 = none ∧ s.sweeps.length < 16 ∧ s.planOf.isSome = true ∧ w.stage < plan0.stages.length ∧
    ((s.release 0 3).queryOf w 0x1000440).map Prod.fst = some 0 ∧ (s.release 0 3).queryOf w 0x1000460 = none ∧
    (late.queryOf w 0x1000440).map Prod.fst = some 0 ∧ (w.slots.find? 0).isSome = true ∧
    ({ w with slots := [] } : Sweep).slots.find? 0 = none ∧ (s.release 0 3).mergeBase 0 1024 = some 0 ∧
    (late.release 0 3).mergeBase 0 1024 = none ∧ (1 : BitVec 7).toNat < 2 := by decide +kernel

theorem witness_AttnInstructions_copy :
    let w := sweep0 .running
    let cp := withS (swept copyCtx w) [(0, 0x1000400), (1, 0x180000)]
    let land := withPool cp 0x180000 (leBytes 0x180080 4 ++ leBytes 0x190000 4 ++ leBytes 0x1A0000 4 ++ leBytes 0x1C0000 4)
    cp.interlock [(96, 64), (97, 64)] [(118, 128)] = .ok () ∧ cp.me.role = .copy ∧ evenScalar 118 = true ∧
    cp.attnGate [(96, 64), (97, 64)] = .ok () ∧ wave.attnGate [(96, 64), (97, 64)] = .ok () ∧ wave.me.role ≠ .copy ∧
    cp.sweepGate 0x1000400 = .ok () ∧ isOk (land.landDesc 0x180000) = true ∧ cp.onStage 0 w = true ∧ wave.onStage 0 w = false ∧
    (cp.modMyCore fun x => { x with moving := true }).myCore.moving = true ∧
    cp.sweepIdle { w with slots := [] } = true ∧ cp.sweepIdle w = false := by decide +kernel

theorem witness_AttnInstructions_hoop :
    let s := withS (staged (records wave)) [(0, 0x1000400), (3, 0x180000), (4, 0x800000), (5, 1023), (6, 1024), (7, 0x1800000000), (8, 0x400)]
    let w := sweep0 .running
    let late := swept wave w
    let gone := swept wave { w with slots := [(0, query0 .complete)] }
    s.attnGate [(96, 64), (99, 64)] = .ok () ∧ s.interlock [(96, 64), (99, 64)] [] = .ok () ∧ s.sweepGate (s.sval 96) = .ok () ∧
    s.interlock [(96, 64), (99, 64)] [(119, 64)] = .ok () ∧ (s.sval 99).toNat < 2 ^ 23 ∧ 2 ^ 23 ≤ (s.sval 100).toNat ∧ s.poolGate 0x180000 528 = .ok () ∧ isOk (s.poolBytes 0x180000 528) = true ∧
    s.me.room .xc = true ∧ (s.sval 101).toNat < 1024 ∧ 1024 ≤ (s.sval 102).toNat ∧ s.hoopWait = [] ∧ (3 : BitVec 7).toNat < 4 ∧
    (s.sval 103).toNat / 2 ^ 10 % 2 ^ 6 = 0 ∧ (s.sval 103).toNat < 2 ^ 39 ∧ (s.sval 103).toNat / 2 ^ 16 % 2 ^ 23 = 0x180000 ∧
    (s.sval 104).toNat / 2 ^ 10 % 2 ^ 6 ≠ 0 ∧ s.myPart.op = none ∧ s.myPart.expired = false ∧ s.me.twh ≠ 0 ∧
    s.emptyGate 528 [(0, ownPool 0x180000)] = .ok () ∧
    (((gone.sweep? 0 0x1000400).bind fun v => v.slots.find? 0).map QSlot.st = some .complete) ∧
    (((late.sweep? 0 0x1000400).bind fun v => v.slots.find? 0).map QSlot.st = some .active) := by decide +kernel

theorem witness_InvkInstructions :
    let h : W64 := 0x40000001
    let s := withS (records wave) [(0, 0x1000600), (1, 1024), (2, 1025), (3, 0x1000200), (4, 1), (5, 0x1000040), (6, 3), (7, 0x40000001),
      (8, 0x1000041), (9, 0x3000000), (10, 0)]
    let entry := fun (st : HandleSt) => ({ st := st, owner := 0, gen := 1 } : HEntry)
    let with_ := fun (st : HandleSt) => ({ s with hrt := [(1, entry st)] } : State)
    let cancelled : State := { s with ctxs := s.ctxs.put 0 { s.ctx 0 with cancel := [5] } }
    let shared : State := { s with podCtx := [(0, [3])] }
    let lost : State := { shared with lostDevs := [3] }
    let inv : MsgKind := .invoke { template := 0, node := 0, job := 5, inst := 3, handle := 0x80000001 } h
    let asked : State := { s with msgs := [{ id := 7, core := 0, agent := 0, ctx := 0, kind := inv }] }
    let waits := (with_ .pending).modPart fun q => { q with expired := true }
    -- the spawns
    s.interlock [(96, 64), (97, 64)] [(118, 128)] = .ok () ∧ s.interlock [(96, 64)] [(118, 128)] = .ok () ∧ evenScalar 118 = true ∧
    evenScalar 119 = false ∧ s.recGate 0x1000600 = .ok () ∧ (s.release 0 4).laneBad 0 .stream 1 0x1000600 32 = false ∧
    (s.sval 97).toNat ≤ 1024 ∧ 1024 < (s.sval 98).toNat ∧
    BitVec.ofNat 32 (leNat (((leBytes ((s.release 0 4).lane 0 .stream 1 32 { lane := 0, va := 0x1000600, data := 0, data2 := 0 }).2 32).drop 4).take 4)) = 5#32 ∧
    (5 : BitVec 32) ∈ (cancelled.ctx 0).cancel ∧ (5 : BitVec 32) ∉ (s.ctx 0).cancel ∧ s.freeEntry = some 1 ∧
    (with_ .pending).freeEntry = some 2 ∧ s.holdsCtx 0 (handleHome h) = true ∧ s.holdsCtx 0 1023 = false ∧
    shared.holdsCtx 0 3 = true ∧ lost.holdsCtx 0 3 = false ∧
    -- HRES and HDROP
    s.interlock [(103, 64)] [(118, 128)] = .ok () ∧ s.hentry 0 h = none ∧ (with_ .resolved).hentry 0 h = some (entry .resolved) ∧
    (with_ .broken).hentry 0 h = some (entry .broken) ∧ (with_ .pending).hentry 0 h = some (entry .pending) ∧ h ≠ 0 ∧
    (s.sval 106) = 0 ∧ s.inFlight 0 0 (handleHome h) = false ∧ asked.inFlight 0 0 (handleHome h) = true ∧ s.myPart.latch = none ∧
    waits.myPart.expired = true ∧ s.myPart.expired = false ∧ s.me.twh ≠ 0 ∧ s.interlock [(103, 64)] [] = .ok () := by decide +kernel

theorem witness_InvkInstructions_rest :
    let h : W64 := 0x40000001
    let s := withS (records wave) [(0, 0x1000600), (1, 1024), (2, 1025), (3, 0x1000200), (4, 1), (5, 0x1000040), (6, 3), (7, 0x40000001),
      (8, 0x1000041), (9, 0x3000000), (10, 0)]
    let shared : State := { s with podCtx := [(0, [3])] }
    let task := fun (r : Bool) => s.modMyCore fun x =>
      { x with wgs := x.wgs.map fun g => (g.1, { g.2 with task := some { handle := h, job := 5, returned := r } }) }
    let full := s.setMe { s.me with xc := (List.range 63).map fun k => { id := k, seq := k, done := false } }
    -- RRET
    s.interlock [(96, 64), (97, 64)] [] = .ok () ∧ (s.myCore.wgs.find? s.me.wg).bind Wg.task = none ∧
    (((task false).myCore.wgs.find? 0).bind Wg.task).map TaskRun.returned = some false ∧
    (((task true).myCore.wgs.find? 0).bind Wg.task).map TaskRun.returned = some true ∧ 2 ^ 48 - 1 < 2 ^ 48 ∧ s.me.faults = [] ∧
    -- JCAN
    s.interlock [(96, 64)] [(119, 64)] = .ok () ∧ (1 : BitVec 7).toNat < 2 ∧ s.me.room .xc = true ∧ full.me.room .xc = false ∧
    shared.devicesOf 0 = [0, 3] ∧
    -- signals
    s.trapGate s.parkPoint [(99, 64), (100, 64)] = .ok () ∧ s.memGate = .ok () ∧ s.interlock [(99, 64), (100, 64)] [] = .ok () ∧
    s.checkEa .rw 16 [(0, 0x1000200)] = .ok () ∧ isOk (s.checkEa .rw 16 [(0, 0x1000208)]) = false ∧
    s.emptyGate 16 [(0, 0x1000200)] = .ok () ∧ s.copyOrderGate .rw 16 [(0, 0x1000200)] = .ok () ∧
    s.copyOrderGate .r 16 [(0, 0x1000200)] = .ok () ∧ s.reqGate .rw 16 [(0, 0x1000200)] = .ok () ∧
    s.interlock [(99, 64), (100, 64)] [(119, 64)] = .ok () ∧ s.readGate [(16, [(0, 0x1000200)])] = .ok () ∧ s.myPart.op = none ∧
    ((s.count .xc s.nextId).lane 0 .stream 4 16 { lane := 0, va := 0x1000200, data := 0, data2 := 0 }).2 = 0 ∧
    ((0 : W64).sle (s.sval 100)) = true ∧ ((0 : W64).sle 0xFFFFFFFFFFFFFFFF) = false ∧
    -- PLNCH
    s.interlock [(101, 64), (102, 64)] [(119, 64)] = .ok () ∧ (s.sval 102).toNat < 4 ∧ 4 ≤ (s.sval 97).toNat ∧
    (s.sval 101).toNat % 64 = 0 ∧ (s.sval 104).toNat % 64 ≠ 0 ∧ s.mapped 0 .r 0x1000040 64 = true ∧
    (s.sval 105).toNat % 64 = 0 ∧ s.mapped 0 .r 0x3000000 64 = false := by decide +kernel

theorem witness_VatEvents :
    let q := fun (kind : VatKind) => ({ id := 7, agent := 0, kind := kind } : VatOp)
    let with_ := fun (l : List VatOp) => matrix.modMyCore fun x => { x with vatQ := l }
    let m : Arrival := { agent := 0, part := 0, slot := 15, d := 0, a := 0x180000, ctl := 0x20000000000, op := 8 }
    let ops := [VatKind.wload 0x180000 0x190000 0 128 0 true, .mzero 15, .mma true [m], .wswap,
      .mdrain 15 0 { out := 0x180000, bias := 0, res := 0, ostride := 128, rstride := 0, ofmt := 0, resfmt := 0, ctrl := 0, flags := 0,
                     thresh := 0, dscale := 0, row0 := 0, col0 := 0, bar := 2 ^ 31 + 0x180000, key := 0, srkey := 0, reserved := true }]
    let empty := fun (l : List VatOp) => (with_ l).modMyCore fun x => { x with emptyLines := [0x3000] }
    let run := q (.mma false [m])
    (ops.all fun k => ((with_ [q k]).core 0).vatQ.find? (fun o => o.id == 7) == some (q k) && (vatReady [] [q k]).contains (q k) &&
      (((with_ [q k]).core 0).vatEmpty (q k)).isNone && (((with_ [q k]).core 0).vatBad (q k)).isNone) = true ∧
    vatReady [] [q .wswap, { q (.mzero 15) with id := 9 }] = [q .wswap, { q (.mzero 15) with id := 9 }] ∧
    (vatReady [] [q (.mzero 15), { q (.mma true [m]) with id := 9 }]).length = 1 ∧
    ((empty [run]).core 0).vatEmpty run = some 0x180000 ∧
    (vatReady [] ((empty [run]).core 0).vatQ).find? (fun o => (((empty [run]).core 0).vatEmpty o).isSome) = some run ∧
    ((with_ [q (.mzero 15)]).me.eng = []) ∧ 7 ∈ (((with_ [run]).setMe { matrix.me with eng := [{ id := 7, seq := 0, done := false }] }).me.eng.map OpRec.id) ∧
    ([m].map Arrival.slot).Nodup ∧ ([m].map Arrival.agent).Nodup ∧ (matrix.core 0).active.bad = none ∧ vatRow 0 ≤ 128 ∧
    (vatReady [] [q .wswap]).find? (fun o => o.kind == .wswap) = some (q .wswap) ∧
    ((matrix.modMyCore fun x => { x with drains := [{ id := 7, agent := 0, bar := 0x180000, lines := [(0x181000, [1])] }] }).core 0).drains.find?
      (fun d => d.id == 7) = some { id := 7, agent := 0, bar := 0x180000, lines := [(0x181000, [1])] } ∧
    ((handled.modMyCore fun x => { x with rdv := [{ wg := 0, gng := 0x200, fn := 1, arrived := [{ m with a := 0 }] }] }).core 0).rdv.length = 1 ∧
    (handled.core 0).lr.flags % 2 = 1 ∧ handled.me.handling = none := by decide +kernel

def step0 : CollDesc :=
  { src := 0x1000400, dst := 0x1000480, count := 4, kind := 2, dtype := 0, redop := 0, step := 0, group := 1, reserved := true }
def colling (started moved : Bool) : CopyOp := { copying 5 moved with started := started, coll := some step0 }
def collRuns (o : CopyOp) : State :=
  let s := copyRuns o
  s.setDie 0 { s.die 0 with groups := [(1, { members := [(0, 0), (0, 1)], rank := 0 })] }

theorem witness_CopyEvents :
    let o := copying 0 false
    let s := copyRuns o
    let w := copying 1 false
    let cpOut := copyRuns w
    let two := s.modMyCore fun x => { x with copies := [o, { o with id := 8 }] }
    let hold := cpOut.modMyCore fun x => { x with emptyLines := [0x3002] }
    let barred_ := { w with bar := some 0x180800 }
    s.copyOp? 0 7 = some o ∧ o.rowCount ≠ 0 ∧ o.suspended = none ∧ s.engineNext 0 = some o ∧ s.unitMeets 0 o = .go ∧
    cpOut.engineNext 0 = some w ∧ cpOut.unitMeets 0 w = .go ∧ hold.unitMeets 0 w = .hold ∧ hold.engineNext 0 = none ∧
    two.copyOp? 0 8 = some { o with id := 8 } ∧ two.engineNext 0 ≠ some { o with id := 8 } ∧
    s.srcAt o 0 0 = .va 0x1000400 ∧ s.dstAt o 0 0 = .pool 0x180100 ∧ o.bar = none ∧ o.scope = 4 ∧ w.scope = 4 ∧
    cpOut.srcAt w 0 0 = .pool 0x180100 ∧ cpOut.dstAt w 0 0 = .va 0x1000400 ∧ 0 < (s.unitAt o).sb ∧ 0 < (cpOut.unitAt w).db ∧
    ({ o with cmd := 0 } : CopyOp).scope = 0 ∧ (copyRuns { o with cmd := 0 }).srcAt { o with cmd := 0 } 0 0 = .va 0x1000400 ∧
    (0x1000400 : W64).toNat % 128 + (s.unitAt o).sb ≤ 128 ∧ 0x400 % 128 = (0x1000400 : W64).toNat % 128 ∧
    (0x1000400 : W64).toNat % 128 + (cpOut.unitAt w).db ≤ 128 ∧ s.home 0x400 % 128 = (0x1000400 : W64).toNat % 128 ∧
    (w.convert (List.replicate (cpOut.unitAt w).sb 0)).1.length = (cpOut.unitAt w).db ∧ (∀ k ∈ eccWords (s.home 0x400) 8, k ∉ s.bad) ∧
    (s.core 0).l1 = [] ∧ (s.cluster (clusterOf 0)).buf = [] ∧ (s.cluster (clusterOf 0)).au = [] ∧
    (copyRuns (copying 0 true)).copyOp? 0 7 = some (copying 0 true) ∧ s.agent? 0 128 = some s.me ∧
    (s.ctx 0).translate .rw 0x1000200 = some 0x200 ∧ (s.ctx 0).translate .r 0x1000400 = some 0x400 ∧
    (s.ctx 0).translate .w 0x1000400 = some 0x400 ∧ s.nak 0 0x200 true = none ∧ s.home 0x200 % 16 = 0 ∧ s.home 0x200 / 32 ∉ s.bad ∧
    (s.ctx 0).translate .rw 0x1010000 = some 65536 ∧ s.nak 0 65536 true = some 0x01 ∧
    ((barred (copyRuns barred_) (.pool 0x180800) (bar false false 1 1 0)).barGet 0 (barAt 0x180800)).pend ≠ 0 ∧
    barAt 0x180800 = .pool 0x180800 := by decide +kernel

/-- Collective steps of two members on one die: one that may begin and one that may not; one with a unit to send, with or
without an older copy in its way; and one with a unit to gather or to reduce. -/
theorem witness_CopyEvents_coll :
    let y := step0
    let g : Group := { members := [(0, 0), (0, 1)], rank := 0 }
    let t := collRuns (colling false false)
    let u := collRuns (colling true false)
    let sent : CopyOp := { colling true false with row := 8 }
    let data : List Byte := List.replicate 8 1
    let got : CopyOp := { sent with land := [(0, data)] }
    let red : CollDesc := { y with kind := 1 }
    let reds : CopyOp := { got with coll := some red }
    let older := u.modMyCore fun x => { x with copies := [{ copying 1 false with id := 3 }, colling true false] }
    let all := { got with moved := true }
    let inbox := (collRuns sent).setDie 0 { t.die 0 with groups := [(1, { g with inbox := [(0, data)] })] }
    let held := fun (s : State) (o : CopyOp) (r : W64) (w : W64) => s.heldByOlder 0 o (s.rangesAt 0 (.va r) 8) (s.rangesAt 0 (.va w) 8)
    t.stepOf 0 (colling false false) = some (y, g) ∧ t.collReady 0 (colling false false) y = true ∧
    t.collReady 0 (colling false false) { y with step := 1 } = false ∧ (colling false false).suspended = none ∧
    0 < y.sends 2 0 ∧ y.sends 2 0 = 8 ∧ y.receives 2 0 = 8 ∧ y.esize = 4 ∧
    u.copyOp? 0 7 = some (colling true false) ∧ u.stepOf 0 (colling true false) = some (y, g) ∧
    y.unit g (colling true false) = some { sends := true, n := 8, src := some 0x1000408, dst := some 0x1000488 } ∧
    held u (colling true false) 0x1000408 0x1000488 = false ∧ held older (colling true false) 0x1000400 0x1000488 = true ∧
    u.collMeets 0 (u.collPieces 0 .r (some 0x1000408) 8) (u.collPieces 0 .w (some 0x1000488) 8) = none ∧
    (u.ctx 0).translate .r 0x1000408 = some 0x408 ∧ (u.ctx 0).translate .w 0x1000488 = some 0x488 ∧ u.home 0x488 = 0x488 ∧
    (0x1000488 : W64).toNat % 128 + 8 ≤ 128 ∧ (∀ k ∈ eccWords 0x488 8, k ∉ u.bad) ∧ (u.core 0).l1 = [] ∧
    (collRuns got).copyOp? 0 7 = some got ∧ (collRuns got).stepOf 0 got = some (y, g) ∧
    (y.unit g got).map CollUnit.sends = some false ∧ y.reduces 2 = false ∧ red.reduces 2 = true ∧
    (red.unit g reds).map (fun v => (v.sends, v.src.isSome, v.dst.isSome)) = some (false, true, true) ∧ 4 ∣ 8 ∧
    (collRuns sent).copyOp? 0 7 = some sent ∧ sent.land = [] ∧ data.length = 8 ∧ g.prev.map Prod.fst = some t.devNum ∧
    ((inbox.die 0).groups.find? 1).bind (fun h => h.inbox.find? 0) = some data ∧ inbox.copyOp? 0 7 = some sent ∧
    (collRuns all).copyOp? 0 7 = some all ∧ all.moved = true ∧ 8 ≤ all.row := by decide +kernel

theorem witness_CoreEvents :
    let wait := fun (w : Wait) (e : Bool) => handled.modPart fun p => { p with wait := some w, expired := e }
    let xst : XstOp := { id := 7, from_ := 0, agent := 0, writes := [(0, 4, 5)], peers := [0] }
    let flying := wave.modMyCore fun x => { x with xsts := [xst] }
    let waiting := wave.setDie 0 { wave.die 0 with
      reqs := [{ slice := 0, stack := 0, pch := 0, write := false, ctx := 0, ia := 0, op := some 7 }] }
    let empty := (wait (.lines [0x3000] 0) false).modMyCore fun x => { x with emptyLines := [0x3000] }
    let copies := (copyRuns (copying 1 false)).modMyCore fun x => { x with emptyLines := [0x3002] }
    wave.agent? 0 0 = some wave.me ∧ ((wait .exit false).me.parts.find? 0).bind Part.wait = some .exit ∧
    (wait .exit false).waitReady 0 0 (wait .exit false).me 0 .exit = true ∧
    (wait (.lines [0x3000] 0) false).waitReady 0 0 (wait (.lines [0x3000] 0) false).me 0 (.lines [0x3000] 0) = true ∧
    ((wait (.hres 1) false).me.parts.find? 0).map (fun p => p.wait.any Wait.tries) = some true ∧ ((wait (.hres 1) true).myPart.expired) = true ∧
    (wave.me.parts.map fun p => (p.2.slot.isSome, p.2.wait)) = [(true, none)] ∧ wave.me.handling = none ∧
    CounterClass.ld ≠ .eng ∧ wave.me.faults = [] ∧ wave.myCore.xsts = [] ∧ wave.msgs = [] ∧ (wave.me.parts.map fun p => p.2.op) = [none] ∧
    wave.awaitsBase 7 = false ∧ (waiting.die 0).reqs.map Req.op = [some 7] ∧
    (flying.core 0).xsts.find? (fun o => o.id == 7) = some xst ∧ xst.writes.length = xst.peers.length ∧ xst.peers.Nodup ∧
    (empty.core 0).lr.flags % 2 = 1 ∧ empty.me.handling = none ∧ 0x3000 ∈ (empty.core 0).emptyLines ∧
    copies.copyOp? 0 7 = some (copying 1 false) ∧
    (copies.core 0).emptyOf (linesOf 0x180100 (copies.unitAt (copying 1 false)).sb) = [0x3002] := by decide +kernel

theorem witness_Preemption :
    let asked := fun (p : Pre) => (wave.modPart fun q => { q with wait := some (.safept 0) }).modMyCore fun x => { x with pre := p }
    let img : CoreImage := { agents := [(0, wave.me)], wgs := wave.myCore.wgs, pool := [], liveHigh := false, emptyLines := [], emptier := [], badPool := [], acc := [],
                             nomActive := {}, nomShadow := {}, active := {}, shadow := {}, heldBaton := some (0, 0x200), run := .tasks, ctx := some 0,
                             lr := wave.myCore.lr, forced := [0] }
    let saved := wave.modMyCore fun x => { x with pre := .saved, image := some img, agents := [], wgs := [] }
    let table := (asked .requested).modMyCore fun x => { x with lr := { x.lr with lmtab := 0x1000700, lmcount := 1 } }
    wave.preGroup 0 = [0] ∧ wave.myCore.wgs ≠ [] ∧ (wave.core 0).pre = .none ∧ ((asked .requested).core 0).pre = .requested ∧
    ((asked .requested).me.parts.map fun p => (p.2.slot, p.2.wait)) = [(some 0, some (.safept 0))] ∧
    ((wave.modMyCore fun x => { x with pre := .requested }).me.parts.map fun p => p.2.wait) = [none] ∧
    ((asked .forced).core 0).pre = .forced ∧ ((asked .requested).core 0).quietForSave = true ∧
    (saved.core 0).pre = .saved ∧ (img.agents.all fun p => p.2.faults.isEmpty) = true ∧ (saved.core 0).image = some img ∧ img.heldBaton ≠ none ∧ table.me.role ≠ .copy ∧
    (table.homeBytes 0 ((table.core 0).lr.lmtab + BitVec.ofNat 64 (16 * 0)) 16).isSome = true ∧
    ((staged wave).core 0).run = .stage 0 0 ∧ ¬(((staged wave).core 0).scrTop < ((staged wave).core 0).xchTop) := by decide +kernel

theorem witness_PipeEvents :
    let w : PipeWait := { core := 0, agent := 0, part := 0, d := 119 }
    let ticket : Ticket := { t := 0, at_ := .vault 1, wg := 0, st := .committed }
    let q : PipeSt := { pipe0 with tickets := [ticket], flying := [(0, 0)], waitP := [w], tNext := 1 }
    let s : State := { staged wave with plans := [(0, { plan0 with pipes := [q] })] }
    (s.plans.find? 0).bind (fun p => p.pipes[0]?) = some q ∧ ((plan0.stages[0]?).any fun t => t.device == s.devNum) = true ∧
    s.agent? 0 0 = some s.me ∧ (s.me.parts.find? 0).isSome = true ∧ (q.reserve 0).isSome = true ∧
    ({ q with vfree := {} } : PipeSt).reserve 0 = none ∧
    (q.tickets.any fun t => t.t == 0 && !t.atHome && (t.st == .committed || (t.st == .reserved && t.wg == remoteWg))) = true ∧
    q.tickets.find? (fun u => u.t == 0) = some ticket ∧ (q.flying.map Prod.fst) = [0] ∧ s.pulling 0 0 0 = false ∧ (s.modPart fun p => { p with wait := some (.pcmt 0 0 0) }).committing 0 0 = true ∧
    (staged wave).committing 0 0 = false ∧ q.sealedP = false := by decide +kernel

theorem witness_AttnEvents :
    let v := sweep0 .running
    let pass : Pass := { page := 1, die := 0, catchup := false, rows := [(query0 .active).prow 0 0] }
    let land : LandDesc := { koff := 0x180000, voff := 0x190000, qoff := 0x1A0000, ioff := 0x1C0000, bar := none, mark := false }
    let w : LpassWait := { at_ := { core := 0, agent := 128, part := 0, d := 118 }, desc := land }
    let z := { v with passes := [pass], waiting := [w] }
    let s := swept copyCtx z
    let row := (query0 .active).prow 0 0
    let late := swept wave { v with begun := [0, 1], walk := [(0, 2)], catchups := [(1, row)] }
    let p := fun (o : Nat) => ({ ord := o, m := 0, l := 0, o := [] } : Partial)
    let m : Msg := { id := 7, core := 0, agent := 0, ctx := 0, kind := .partial_ 0x1000400 0 (p 1) none }
    let bound : Msg := { m with kind := .partial_ 0x1000400 0 (p 1) (some 0) }
    let hoop : State := { swept wave v with msgs := [m], hoopWait := [7] }
    let again : Sweep := { v with passes := [{ pass with fetched := false }] }
    let lands := fun (n : Int) => (barred s (.pool 0x180800) { bar false false 1 1 0 with bytes := n })
    let lost : State := { s with pages := s.pages.map fun g => (g.1, { g.2 with owner := 5 }) }
    let eng := s.setMe { s.me with eng := (List.range 63).map fun k => { id := k, seq := k, done := false } }
    again.passes.findIdx? (fun p => p.die == 0 && !p.fetched) = some 0 ∧ (swept wave again).ladleLoad 0 < 8 ∧
    (pass.die = 0 ∧ pass.fetched = true) ∧ (v.walk.getD 0 0 = 0 ∧ v.begun = [] ∧ 0 ∈ (query0 .active).pages) ∧
    ((late.sweep? 0 0x1000400).map fun z => (z.catchups.map Prod.fst, z.begun)) = some ([1], [0, 1]) ∧ late.pageDie v 1 = 0 ∧
    (swept wave v).sweep? 0 0x1000400 = some v ∧ (swept wave v).ladleLoad 0 = 0 ∧ (swept wave v).nextMain v 0 = some 0 ∧
    (swept wave v).pageDie v 0 = 0 ∧ (late.sweeps.map fun v => late.nextMain v 0) = [none] ∧
    s.passFor z w = some 0 ∧ s.agent? 0 128 = some s.me ∧ (s.me.parts.find? 0).isSome = true ∧ 96 ≤ w.at_.d ∧ s.me.room .eng = true ∧
    z.waiting.find? (fun w => w.at_.core == 0 && w.at_.agent == 128) = some w ∧ eng.me.room .eng = false ∧
    (lands 0).barFits 0 (.pool 0x180800) 65536 = true ∧ (lands 0x7FFFFFFF).barFits 0 (.pool 0x180800) 65536 = false ∧
    s.targetDie z 1 = dieOf 0 ∧ s.stopCode 0 .r (v.ktile 9) v.tileBytes = some 0x01 ∧ (lost.stopCode 0 .r (v.ktile 1) v.tileBytes).isSome = true ∧
    ((lost.stopCode 0 .r (v.ktile 1) v.tileBytes).any resolvable) = false ∧
    s.stopCode 0 .r (v.ktile 1) v.tileBytes = none ∧ s.stopCode 0 .r (v.vtile 1) v.tileBytes = none ∧
    ({ s with bad := [0x6000 / 32] } : State).homeBytes 0 (v.ktile 1) v.tileBytes = none ∧
    (s.homeBytes 0 (v.ktile 1) v.tileBytes).isSome = true ∧ pass.batch = 0 ∧ ({ pass with batch := 1 } : Pass).batch ≠ 0 ∧
    hoop.msgs.find? (fun n => n.id == 7) = some m ∧ (v.slots.find? 0).map QSlot.st = some .active ∧ v.slots.find? 1 = none ∧
    (query0 .active).pages.length ≤ (p 2).ord ∧ (p 0).ord = (query0 .active).next ∧ (query0 .active).next < (p 1).ord ∧
    (query0 .active).held = [] ∧ hoop.buffersUsed 0 < 4096 ∧ hoop.hoopWait = [7] ∧ hoop.freeWhey v = some 0 ∧
    ((swept wave { v with wheySlots := 0 }).freeWhey { v with wheySlots := 0 }) = none ∧ hoop.stopCode 0 .w (v.whey 0) 528 = none ∧
    hoop.stopCode 0 .w (({ v with wheyBase := 0x1010000 } : Sweep).whey 0) 528 = some 0x01 ∧ bound.kind ≠ m.kind ∧
    ((lost.stopCode 0 .w (v.whey 0) 528).any resolvable) = false ∧ lost.stopCode 0 .w (v.whey 0) 528 ≠ none := by decide +kernel

theorem witness_PlanEvents :
    let s : State := { staged wave with numSet := true }
    let m : Move := { core := 0, donor := 0, receiver := 1 }
    let moves := ({ s with plans := [(0, { plan0 with move := some m })] } : State).modMyCore fun x => { x with moving := true, wgs := [], agents := [] }
    let entry := leBytes 0x1001000 8 ++ [0, 1] ++ leBytes 0 2 ++ [1, 2, 1, 0] ++ leBytes 0 4 ++ leBytes 4 4 ++ leBytes 1 4 ++ leBytes 0 36
    let far : RemotePlan := { ctx := 0, prio := 3, addr := 0x1000040, record := leBytes 0x504C4E31 4 ++ leBytes 1 2 ++ [1, 0] ++ leBytes 0 56 ++ entry,
                              launches := [((records wave).homeBytes 0 0x1001000 256).getD []] }
    let many : State := { s with plans := (List.range 32).map fun k => (k, plan0) }
    let leaves : State := { s with ctxs := s.ctxs.put 0 { s.ctx 0 with st := .teardown } }
    (s.announced far).isSome = true ∧ s.announced { far with prio := 4 } = none ∧ s.plans.length < 32 ∧ 32 ≤ many.plans.length ∧
    (s.ctx far.ctx).st = .active ∧ s.numSet = true ∧ (leaves.ctx far.ctx).st ≠ .active ∧
    (plan0.stages[1]?).map StageSt.ended = some false ∧ plan0.lead = true ∧
    ({ stage0 with ended := true } : StageSt).ended = true ∧ (moves.plans.find? 0).bind PlanSt.move = some m := by decide +kernel

theorem witness_PlanEvents_launch :
    let s := staged wave
    let fresh : State := { State.reset with plans := [(0, plan0)], ctxs := wave.ctxs, pages := wave.pages, mem := (records wave).mem }
    let starts : State := { fresh with plans := [(0, { plan0 with running := false, stages := [{ stage0 with cores := [], running := false }] })],
                                       ctxs := fresh.ctxs.put 0 { fresh.ctx 0 with cbCores := 1 } }
    let lr := LaunchRec.ofBytes 0x1001000 (((records wave).homeBytes 0 0x1001000 256).getD [])
    let pers : State := { s with plans := [(0, { plan0 with stages := [{ stage0 with kind := 1, npersist := 2 }] })] }
    let ends : State := { s with plans := [(0, { plan0 with ending := some (3, 1, 0, 0) })] }
    let empty := (ends.modMyCore fun x => { x with wgs := [], agents := [] })
    let m : Move := { core := 0, donor := 0, receiver := 1 }
    let moves := ({ s with plans := [(0, { plan0 with move := some m })] } : State).modMyCore fun x => { x with moving := true, wgs := [], agents := [] }
    let snap : DlSnap := { quiet := true, count := 0, parked := [], commits := 0 }
    let dead := ({ s with plans := [(0, { plan0 with snap := some { snap with parked := [(0, 0, 0, 1)] } })] } : State).modPart fun p => { p with wait := some (.prsv 0 0), stamp := 1 }
    (fresh.core 0).wgs = [] ∧ (fresh.core 0).pre = .none ∧ fresh.plans.find? 0 = some plan0 ∧ plan0.stages[0]? = some stage0 ∧ 0 ∈ stage0.cores ∧
    (fresh.core 0).run = .idle ∧ fresh.xstTo 0 = false ∧ fresh.launchRec 0 0x1001000 = some lr ∧ fresh.checkRec 0 lr 1 = 0 ∧
    (fresh.ctx 0).st = .active ∧ (fresh.core 0).noNew = false ∧
    (match pers.offerTo 0 0 0 { plan0 with stages := [{ stage0 with kind := 1, npersist := 2 }] } { stage0 with kind := 1, npersist := 2 } with
      | .take 0 _ => true
      | _ => false) = true ∧
    pers.budgetRoom 0 stage0.proj = true ∧ pers.budgetRoom 0 3000000001 = false ∧ (pers.core 0).hasRoom = true ∧
    ((pers.modMyCore fun x => { x with lr := { x.lr with wgmax := 1 } }).core 0).hasRoom = false ∧
    (starts.firstWaiting.map Prod.fst) = some 0 ∧ (starts.pickCores [{ stage0 with cores := [] }] []).isSome = true ∧
    starts.pickCores [{ stage0 with coreInit := 33 }] [] = none ∧ (starts.ctx 0).cbCores = 1 ∧ starts.heldCores 0 = 0 ∧
    (ends.plans.find? 0).bind PlanSt.ending = some (3, 1, 0, 0) ∧ (empty.planCores 0).all (fun d => (empty.core d).wgs.isEmpty) = true ∧
    (ends.core 0).wgs ≠ [] ∧ moves.myCore.moving = true ∧ moves.myCore.wgs = [] ∧ moves.myCore.image = none ∧ moves.myCore.run = .stage 0 0 ∧
    dead.planParked 0 = some [(0, 0, 0, 1)] ∧ plan0.commits = 0 ∧ State.reset.stretch = none := by decide +kernel

theorem witness_TaskEvents :
    let h : W64 := 0x40000001
    let h2 : W64 := 0x80000001
    let far : W64 := 0x00C0000000000001 + 0x40000000
    let t : TaskRec := { template := 0, node := 0, job := 5, inst := 3, handle := h }
    let e : HEntry := { st := .pending, owner := 0, gen := 1, sig := 0x1000200 }
    let f : HEntry := { st := .pending, owner := 0, gen := 1 }
    let m : Msg := { id := 7, core := 0, agent := 0, ctx := 0, kind := .task t 0 }
    let i : Msg := { m with id := 8, kind := .invoke t h2 }
    let j : Msg := { m with id := 9, kind := .jcan 5 0 119 [0] [] false }
    let k : Msg := { m with id := 10, kind := .jcan 5 1 119 [0] [(0, true)] false }
    let d : Msg := { m with id := 11, kind := .drop h2 }
    let s : State := { records wave with hrt := [(1, e), (2, { f with st := .resolved, addr := 0x1000000, size := 64 })], msgs := [m, i, j, k] }
    let waits : State := { s with hrt := [(1, { f with waiting := [{ t with handle := h2 }] }), (2, f)] }
    let returns := s.modPart fun p => { p with wait := some (.rret h) }
    let c := s.ctx 0
    let mine : Msg := { i with task := some h }
    let held : State := { s with msgs := [{ mine with kind := .invoke t h }] }
    let via : Msg := { m with id := 12, kind := .task { t with via := h2, handle := 0x80000001 } 0 }
    let sent : State := { s with msgs := [{ via with id := 6 }, via, d, i] }
    let gone : State := { s with ctxs := s.ctxs.put 0 { c with st := .teardown } }
    let r : RemoteTask := { ctx := 0, record := List.replicate 16 0, arg0 := 0, handle := 0x0080000040000001, input := h2, result := none }
    let moved : State := { s with forwards := [(h2.toNat, 3)] }
    -- a handle settles
    s.ownerOf h = 0 ∧ s.noticeHeld h = false ∧ held.noticeHeld h = true ∧ s.hentry 0 h = some e ∧ s.hentry 0 0x40000002 = none ∧
    e.waiting = [] ∧ e.sig ≠ 0 ∧ handleHome far ≠ s.devNum ∧ handleHome h = s.devNum ∧ ({ s with hrt := [(s.hkey far, f)] } : State).hentry 0 far = some f ∧
    (s.ctx 0).translate .rw e.sig = some 0x200 ∧ s.nak 0 0x200 true = none ∧ s.home 0x200 % 16 = 0 ∧ s.home 0x200 / 32 ∉ s.bad ∧
    (returns.me.parts.map fun p => p.2.wait) = [some (.rret h)] ∧ waits.hentry 0 h2 = some f ∧ waits.hkey h2 ≠ waits.hkey h ∧
    (waits.hentry 0 h).map (fun e => e.waiting.length) = some 1 ∧
    -- records and invocations
    s.msgs.find? (fun n => n.id == 7) = some m ∧ s.forwardOf t = none ∧ t.job ∉ (s.ctx 0).cancel ∧ s.behindSame m t = false ∧
    sent.behindSame via { t with via := h2 } = true ∧ moved.forwardOf { t with via := h2 } = some 3 ∧ (s.ctx 0).taskQ.length < 65536 ∧
    s.msgs.find? (fun n => n.id == 8) = some i ∧ handleHome h2 = s.devNum ∧ s.behindOwn i = false ∧ sent.behindOwn i = true ∧
    sent.msgs.find? (fun n => n.id == 11) = some d ∧ sent.behindOwn d = false ∧
    (s.hentry 0 h2).map HEntry.st = some .resolved ∧ (waits.hentry 0 h2).map HEntry.st = some .pending ∧
    (s.ctx r.ctx).st = .active ∧ (gone.ctx r.ctx).st ≠ .active ∧ r.input ≠ 0 ∧ r.result = none ∧ handleHome r.input = s.devNum ∧
    handleHome r.handle ≠ s.devNum := by decide +kernel

theorem witness_TaskEvents_tasks :
    let h : W64 := 0x40000001
    let h2 : W64 := 0x80000001
    let t : TaskRec := { template := 0, node := 0, job := 5, inst := 3, handle := h }
    let e : HEntry := { st := .pending, owner := 0, gen := 1, sig := 0x1000200 }
    let f : HEntry := { st := .pending, owner := 0, gen := 1 }
    let m : Msg := { id := 7, core := 0, agent := 0, ctx := 0, kind := .task t 0 }
    let i : Msg := { m with id := 8, kind := .invoke t h2 }
    let j : Msg := { m with id := 9, kind := .jcan 5 0 119 [0] [] false }
    let k : Msg := { m with id := 10, kind := .jcan 5 1 119 [0] [(0, true)] false }
    let s : State := { records wave with hrt := [(1, e), (2, { f with st := .resolved, addr := 0x1000000, size := 64 })], msgs := [m, i, j, k] }
    let c := s.ctx 0
    let queued : State := { s with ctxs := s.ctxs.put 0 { c with taskQ := [t], ttBase := 0x1000800, ttCount := 1, cbCores := 2, cancel := [6] } }
    let reads : State → Nat := fun s => match s.readNode 0 t with
      | .wait _ => 0
      | .bad => 1
      | .spoilt _ _ => 2
      | .node lr _ _ => lr.addr.toNat
    -- tasks
    (queued.ctx 0).taskQ = [t] ∧ (queued.ctx 0).st = .active ∧ reads queued = 0x1001000 ∧
    reads { queued with pages := [] } = 0 ∧ reads { queued with ctxs := queued.ctxs.put 0 { queued.ctx 0 with ttCount := 0 } } = 1 ∧
    reads { queued with bad := [0x800 / 32] } = 2 ∧
    (queued.launchRec 0 0x1001000).isSome = true ∧ ((queued.launchRec 0 0x1001000).map fun lr => queued.checkRec 0 lr 1) = some 0 ∧
    ((queued.launchRec 0 0x1001000).bind fun lr => queued.taskCore 0 lr) = some (1, true) ∧ queued.budgetRoom 0 0 = true ∧
    (queued.core 1).wgs = [] ∧ (queued.core 1).agents = [] ∧
    -- cancellation and migration
    jcanAct 0 = .reserve ∧ s.devNum ∈ [0] ∧ 3 ≠ s.devNum ∧
    s.msgs.find? (fun n => n.id == 10) = some k ∧ [0].length ≤ [(0, true)].length ∧
    (s.hentry 0 h2).map (fun e => s.resultPages 0 e) = some [0] ∧ 0 ∉ s.migrating ∧ (s.hentry 0 h2).bind HEntry.loc = none := by decide +kernel

theorem witness_MemoryEvents :
    let r : LaneReq := { lane := 0, va := 0x1010000, data := 5, data2 := 0, code := 0x01 }
    let f : Access := { id := 7, cls := .st, kind := .store, size := 4, scope := 1, dst := none, pc := 0x1000000, word := 0, reqs := [r] }
    let at_ := fun (o : Option Bool) => wave.setMe { wave.me with faults := [{ f with reqs := [{ r with answer := o }] }], memParked := true }
    let o := copying 0 false
    let far := { o with box := { o.box with gaddr := 0x1010000 } }
    let q : Req := { slice := 0, stack := 0, pch := 0, write := true, ctx := 0, ia := 0x40, data := List.replicate 64 1, mask := List.replicate 64 true }
    let die := fun (l : List Req) => wave.setDie 0 { wave.die 0 with reqs := l }
    let tagged := fun (q : Req) => die [{ q with tag := some 0 }]
    let shut := (tagged q).setDie 0 { (tagged q).die 0 with reqs := [{ q with tag := some 1 }, { q with tag := some 0 }] }
    let held : State := { wave with heldWb := [{ own := 0, line := 512, bytes := [(0, 1)], marks := [] }] }
    let dup : State := { wave with pages := [(0, { owner := 0, policy := 1 })] }
    let retired : State := { wave with pages := [(0, { owner := 0, retired := true })] }
    let full := die ((List.range 8).map fun k => { q with tag := some k })
    let reader := wave.modPart fun p => { p with wait := some (.fetch 1) }
    -- NAKs, the pager, the replay
    (at_ none).agent? 0 0 = some (at_ none).me ∧ ((at_ none).me.faults.find? (fun g => g.id == 7)).isSome = true ∧
    wave.laneNak 0 .store 1 0x1010000 4 = some 0x01 ∧ wave.pageAt 0 0x1010000 = some 1 ∧
    (dup.pageAt 0 0x1000000).bind dup.pages.find? = some { owner := 0, policy := 1 } ∧ MemKind.write .store = true ∧
    (copyRuns far).copyStop 0 far = some (0x1010000, 0x01) ∧ (copyRuns o).copyStop 0 o = none ∧ copyCtx.me.faults = [] ∧
    wave.pages.find? 1 = none ∧ iaClass (1 * 65536) ≤ 4 ∧ (at_ none).pageFor 1 = some 0 ∧ (held.heldWb.map fun w => w.line * 128 / 65536) = [1] ∧
    wave.heldWb = [] ∧ wave.heldSys = [] ∧ (retired.pages.find? 0).map Page.retired = some true ∧ (reader.me.parts.map fun p => p.2.wait) = [some (.fetch 1)] ∧
    (at_ (some false)).me.memParked = true ∧ ((at_ (some false)).me.faults.map fun f => f.reqs.map LaneReq.answer) = [[some false]] ∧
    f.ord = 0 ∧ f.scope ≠ 5 ∧
    -- packets
    (die [q]).baseNak 0 0x40 = none ∧ wave.baseNak 0 0x10040 ≠ none ∧
    (((die [q]).die 0).reqs.find? fun q => q.at_ 0 0 0 && q.tag.isNone && q.nak.isNone) = some q ∧
    ((full.die 0).reqs.map Req.tag) = (List.range 8).map some ∧
    ((tagged q).die 0).req? 0 0 0 0 = some { q with tag := some 0 } ∧ ((tagged q).die 0).mayServe { q with tag := some 0 } = true ∧
    (shut.die 0).mayServe { q with tag := some 0 } = false ∧ (0x40 % 64 = 0 ∧ 0x40 / 32 ∉ wave.dramBad ∧ q.marks = []) ∧
    ((tagged { q with served := true, nak := some 0x04 }).die 0).req? 0 0 0 0 = some { q with tag := some 0, served := true, nak := some 0x04 } ∧
    ((tagged { q with write := false, served := true }).die 0).req? 0 0 0 0 = some { q with tag := some 0, write := false, served := true } := by decide +kernel

theorem witness_MemoryEvents_caches :
    let late : State := { wave with heldSys := [{ ctx := 0, pieces := [], sigs := [(0x1010000, 0)] }] }
    let retired : State := { wave with pages := [(0, { owner := 0, retired := true })] }
    let rep := 5 * 2 ^ 53 + 3 * 2 ^ 43
    let away : State := { wave with repMem := [(rep, 1)], replicas := [(rep / 65536, [0])] }
    let l : CLine := { own := 0, data := [(5, 9)], dirty := 32, bad := 0, valid := BitVec.allOnes 128 }
    let dirty := wave.modMyCore fun x => { x with l1 := [(0, l)] }
    let buf : State := { wave with clusters := wave.clusters.put 0 { wave.cluster 0 with buf := [(0, l)] } }
    -- slices and caches
    (homeOf (wave.home 0x40)).isSome = true ∧ wave.home 0x40 % 128 + 64 ≤ 128 ∧ wave.nak 0 0x40 true = none ∧
    wave.nak 0 0x10040 true ≠ none ∧ retired.nak 0 0x40 true = some 0x04 ∧ (∀ w ∈ eccWords 0x40 64, w ∉ wave.bad) ∧
    homeOf (away.home rep) = none ∧ away.replicaHeld (away.home rep) = true ∧ wave.replicaHeld (wave.home rep) = false ∧
    (wave.core 0).ctx = some 0 ∧ wave.nak 0 0x10040 false ≠ none ∧ wave.nak 0 0x40 false = none ∧ 127 < 128 ∧ 31 < 32 ∧
    (dirty.core 0).l1.find? 0 = some l ∧ (dirty.cluster 0).foreign l.own 0 = false ∧ l.dirty ≠ 0 ∧ (buf.cluster 0).buf.find? 0 = some l ∧
    (buf.cluster 0).au.find? 0 = none ∧ l.bad &&& l.dirty = 0 ∧ wave.retiredLine 0 = false ∧ iaClass (0 * 128) ≤ 4 ∧
    (homeOf (0 * 128)).map Prod.fst = some 0 ∧
    -- a signal at the pager
    late.pages.find? 1 = none ∧ late.pageFor 1 = some 0 ∧
    (late.ctx 0).translate .rw 0x1010000 = some 65536 ∧ iaClass 65536 < 4 ∧ iaOff 65536 < 384 * GiB ∧ 65536 / 65536 = 1 ∧
    1 ∉ late.migrating ∧ 65536 / 32 ∉ late.bad ∧ late.heldWb = [] := by decide +kernel

theorem witness_PodEvents :
    let dup : State := { wave with pages := [(0, { owner := 0, policy := 1 })], numSet := true }
    let shared : State := { wave with numSet := true }
    let closing : State := { dup with collapse := [(0, [])] }
    let e : HEntry := { st := .pending, owner := 0, gen := 1, loc := some 3 }
    let m : Msg := { id := 7, core := 0, agent := 0, ctx := 0, kind := .task { template := 0, node := 0, job := 5, inst := 0, handle := 0 } 3 }
    let lost : State := { wave with hrt := [(1, e), (2, { e with loc := none, via := some 3, dropped := true })], msgs := [m] }
    let carved := wave.setDie 3 { wave.die 3 with vaultSteps := 8 }
    let rep := 5 * 2 ^ 53 + 3 * 2 ^ 43
    let away : State := { wave with repMem := [(rep, 1)], replicas := [(rep / 65536, [0])] }
    let bad : State := { shared with bad := [0] }
    let coll := collRuns (colling true false)
    let far := coll.setDie 0 { coll.die 0 with groups := [(1, { members := [(0, 0), (3, 0)], rank := 0 })] }
    -- pages and granules
    63 < 64 ∧ iaClass (0 * 65536) ≤ 4 ∧ 0 < 2 ^ 40 ∧ wave.pages.find? 0 = some { owner := 0 } ∧ wave.pages.find? 1 = none ∧
    6143 < 64 * (carved.die 3).vaultSteps * 12 ∧
    -- collapses and replicas
    dup.pages.find? 0 = some { owner := 0, policy := 1 } ∧ dup.collapse.find? 0 = none ∧ closing.collapse.find? 0 = some [] ∧
    ({ dup with collapse := [(0, [3])] } : State).collapse.find? 0 = some [3] ∧ dup.heldSys = [] ∧
    away.replicaHeld (rep / 65536 * 65536) = true ∧ wave.replicaHeld (rep / 65536 * 65536) = false ∧
    iaClass (rep / 65536 * 65536) = 5 ∧ podDev (rep / 65536 * 65536) ≠ wave.devNum ∧ (remoteAddr (rep / 65536 * 65536 % 2 ^ 43)).isSome = true ∧
    ([(0, (1 : Byte)), (65535, 2)].map Prod.fst).Nodup ∧
    -- requests: open, a page that is read-duplicated, no page, no device number
    dup.podNak 0 (2 ^ 41) false false = none ∧ dup.podNak 0 (2 ^ 41) true false ≠ none ∧ shared.podNak 0 (2 ^ 41) true false = none ∧
    shared.podNak 0 (2 ^ 41 + 7) true false = none ∧ wave.podNak 0 (2 ^ 41) false false ≠ none ∧ shared.podNak 0 (2 ^ 41 + 65536) false false ≠ none ∧
    (remoteAddr (2 ^ 41)).getD 0 = 0 ∧ 2 ^ 41 + 63 < 2 ^ 42 ∧ podWrites (.read 64 false) = false ∧ podSize (.atom 0 8 1 0 false) = 8 ∧ shared.memBad 0 8 = false ∧
    bad.memBad 0 8 = true ∧ (remoteAddr (2 ^ 41 + 4)).getD 0 % 8 ≠ 0 ∧ (∀ w ∈ eccWords 0 64, w ∉ shared.bad) ∧
    -- a device is lost
    3 ≠ wave.devNum ∧ handleHome 0x40000001 = lost.devNum ∧ lost.hentry 0 0x40000001 = some e ∧ lost.hrt.find? (lost.hkey 0x40000001) = some e ∧
    (lost.hentry 0 0x80000001).map (fun f => (f.loc, f.via, f.dropped)) = some (none, some 3, true) ∧
    e.waiting = [] ∧ (far.lostSteps 3).length = 1 := by decide +kernel

theorem witness_ErrorTimeLink :
    let u : UnitRec := { cls := 1, unit := 9, times := [0, 0, 0] }
    let v : UnitRec := { cls := 2, unit := 3, times := [0, 0, 0] }
    let s : State := { staged wave with dies := [(0, { wave.die 0 with units := [u, v], postponed := [(65, 8)] })] }
    let l : CLine := { own := 0, data := [(5, 9)], dirty := 32, bad := 0, valid := BitVec.allOnes 128 }
    let line : State := { wave.modMyCore (fun x => { x with l1 := [(0, l)] }) with
      clusters := wave.clusters.put 0 { wave.cluster 0 with buf := [(0, l)], au := [(1, l)] } }
    let ways := wave.setDie 0 { wave.die 0 with ways := [(0, { own := 0, dirty := 0, frame := 0 })] }
    let reps := wave.setDie 0 { wave.die 0 with reps := [(0, l)] }
    let gone : State := { wave with pages := [(0, { owner := 0, retired := true })] }
    let x := wave.core 0
    let spilled := sweep0 .running
    let h : Held := { p := { ord := 1, m := 0, l := 0, o := [] }, whey := none }
    let hoop := swept wave { spilled with slots := [(0, { query0 .active with held := [h] })] }
    16 < 64 ∧ 16 % 16 ≠ 15 ∧ 128 * 65536 - 1 < 128 * 65536 ∧ ((s.die 0).units.find? fun u => u.cls == 1 && u.unit == 9) = some u ∧
    u.retired = false ∧ s.reg (.retireThreshold 1) 4 ≤ (s.now :: u.times).length ∧ ¬(s.reg (.retireThreshold 1) 4 ≤ [s.now].length) ∧
    ((s.die 0).units.find? fun u => u.cls == 2 && u.unit == 3) = some v ∧ v.retired = false ∧
    s.reg (.retireThreshold 2) 4 ≤ (s.now :: v.times).length ∧ (s.die 0).spares.getD (spareKey 2 3) 0 < spareLimit 2 ∧
    s.plans.find? 0 = some plan0 ∧ plan0.slot = 0 ∧ plan0.ending = none ∧ 13 % 16 = 13 ∧
    -- what an uncorrectable error strikes: a row, a line of the ways, a replica, the pool, a register, the Hoop, L1 and the cluster
    iaClass 0 ≤ 4 ∧ wave.wayOf 0 = none ∧ (ways.wayOf 0).isSome = true ∧ (homeOf 0).map Prod.fst = some 0 ∧ (wave.die 0).reqs = [] ∧
    (reps.die 0).reps.find? 0 = some l ∧ x.regB ≤ 0x180000 ∧ x.agents.find? 0 = some wave.me ∧ wave.me.role ≠ .copy ∧
    wave.me.regBase ≤ 0 ∧ 0 < x.regB ∧ (0 - wave.me.regBase) / 32 < wave.me.vregs * 8 ∧
    (hoop.sweeps.map fun v => (v.leadDie, v.base + 0, (v.slots.find? 0).map fun q => q.held.map Held.whey)) = [(0, 0, some [none])] ∧
    (line.core 0).l1.find? 0 = some l ∧ (line.cluster 0).buf.find? 0 = some l ∧ (line.cluster 0).au.find? 1 = some l ∧
    s.pages.find? (0 / 65536) = some { owner := 0 } ∧ (gone.pages.find? 0).any Page.retired = true := by decide +kernel

theorem witness_ErrorTimeLink_links :
    let u : UnitRec := { cls := 1, unit := 9, times := [0, 0, 0] }
    let s : State := { staged wave with dies := [(0, { wave.die 0 with units := [u], postponed := [(65, 8)] })] }
    let retrains : State := { wave with link := { wave.link with retraining := true } }
    let down : State := { wave with link := { wave.link with down := true } }
    let ptp : PtpSt → State := fun st => { wave with ptp := { wave.ptp with st := st, t1 := some 0, good := 7 }, now := 3000000 }
    -- refresh, links, time
    8 ≤ (s.die 0).postponed.getD (1 * 64 + 1) 0 ∧
    (s.die 0).postponed.getD 0 0 < 8 ∧ 24 ≤ 24 ∧ 25 ≤ 25 ∧ wave.link.down = false ∧ wave.link.retraining = false ∧
    retrains.link.retraining = true ∧ down.link.down = true ∧ (ptp .holdover).ptp.t1 = some 0 ∧ (ptp .unsync).ptp.st = .unsync ∧
    (ptp .holdover).ptp.st ≠ .unsync ∧ (ptp .locked).ptp.last + 3000000 ≤ (ptp .locked).now ∧ wave.now < wave.ptp.last + 3000000 := by
  decide +kernel

theorem witness_HostEvents :
    let data : BitVec 512 := BitVec.ofNat 512 (0x1000040 + 0x1000200 * 2 ^ 64 + 3 * 2 ^ 320 + 2 ^ 328)
    let r : LwReq := { plan := 0x1000040, waits := [0x1000200], prio := 3, errStop := true }
    let put : List LwReq → List Byte → State := fun l bs =>
      { wave with ctxs := wave.ctxs.put 0 { wave.ctx 0 with lwQ := l }, mem := wave.mem.putBytes 0x200 bs }
    let with_ := put [r]
    let stops : List Byte := [0, 0, 0, 0, 0, 0, 0, 0, 5]
    let found := fun (s : State) => (s.ctx 0).lwQ.map LwReq.found
    let w : Watch := { addr := 0x1000200, threshold := 0, vector := 5, armed := true }
    let watched : State := { wave with ctxs := wave.ctxs.put 0 { wave.ctx 0 with watches := [(255, w)] } }
    let img : Image := { body := 1, signature := 0, svn := 2 }
    let rescue : State := { wave with fw := { wave.fw with recovery := true, flash := some img } }
    let full : State := { wave with ctxs := wave.ctxs.put 0 { wave.ctx 0 with lwQ := List.replicate 256 r } }
    let early : LwReq := { r with found := some 0 }
    wave.link.down = false ∧ wave.fw.recovery = false ∧ (wave.ctx 0).st = .active ∧ LwReq.ofData data = some r ∧
    LwReq.ofData (BitVec.ofNat 512 (2 ^ 336)) = none ∧ (wave.ctx 0).lwQ.length < 256 ∧ 256 ≤ (full.ctx 0).lwQ.length ∧
    -- a check: satisfied, not satisfied, behind another, stopped, lost
    ((with_ []).ctx 0).lwQ[0]? = some r ∧ (with_ []).readSig 0 [] 0x1000200 = .val 0 0 ∧ (with_ [1]).readSig 0 [] 0x1000200 = .val 1 0 ∧
    (with_ stops).readSig 0 [] 0x1000200 = .val 0 5 ∧ wave.readSig 0 [] 0x3000000 = .lost ∧ wave.readSig 0 [] 0x1010000 = .wait ∧
    found ((with_ [1]).checkWaits 0) = [none] ∧ found ((put [r, r] []).checkWaits 0) = [some (with_ []).nextId, some ((with_ []).nextId + 1)] ∧
    found ((put [r, early] [1]).checkWaits 0) = [none, some 0] ∧
    ((with_ []).checkWaits 0).planAwaits 0 r.plan r.gone = false ∧ ((with_ []).checkWaits 0).plans.length < 32 ∧ 255 < 256 ∧
    (watched.ctx 0).watches.find? 255 = some w ∧ watched.readSig 0 [] w.addr = .val 0 0 ∧ (0 : W64).sle w.threshold = true ∧
    (1 : W64).sle w.threshold = false ∧ rescue.fw.recovery = true ∧ rescue.fw.minSvn ≤ img.svn ∧
    ({ wave with fw := { wave.fw with svn := 1 } } : State).fw.minSvn < 1 := by decide +kernel

theorem witness_RegisterEvents :
    let mgmt : Ownership → State := fun o => { staged wave with mgmt := o, now := 10000000 }
    let owned := mgmt { owner := some 7 }
    let other := mgmt { owner := some 8 }
    let late : State := { owned with now := 1000000000 }
    let handed := mgmt { owner := some 7, handover := some (1, 2, 0) }
    let claimed := mgmt { claims := [(7, 0, 5), (8, 1, 4)] }
    let tied := mgmt { claims := [(7, 0, 5), (8, 0, 5)] }
    let empty := mgmt {}
    let lapses := fun (s : State) => s.mgmt.owner.isSome && decide (s.mgmt.heartbeat + 1000000000 ≤ s.now)
    let leaves : State := { owned with ctxs := owned.ctxs.put 0 { owned.ctx 0 with st := .teardown } }
    let routes : State := { owned with swaps := [3], routes := [(3 * 2 ^ 32, 1)], shadowRoutes := [(3 * 2 ^ 32, 2)] }
    let carved := owned.setDie 0 { owned.die 0 with vaultSteps := 7 }
    let w : Window := { vbase := 16, ibase := 0, log2 := 21, valid := true, r := true }
    owned.mgmt.owner = some 7 ∧ lapses owned = false ∧ lapses late = true ∧ claimed.mgmt.owner = none ∧ other.mgmt.owner ≠ some 7 ∧
    other.mgmt.owner ≠ none ∧ handed.mgmt.handover = some (1, 2, 0) ∧ handed.now ≤ 0 + 100000000 ∧ ¬(late.now ≤ 0 + 100000000) ∧
    claimed.mgmt.claims ≠ [] ∧ claimed.mgmt.opened + 10000000 ≤ claimed.now ∧ (7, 0, 5) ∈ claimed.mgmt.claims ∧
    empty.mgmt.claims = [] ∧ (after (exec .electionDecide claimed)).mgmt.owner = some 7 ∧ (after (exec .electionDecide tied)).mgmt.owner = none ∧
    (claimed.mgmt.claims.filter fun d => d.2 == (0, 5)).length = 1 ∧ (tied.mgmt.claims.filter fun d => d.2 == (0, 5)).length = 2 ∧
    1500 ≤ 3200 ∧ owned.carveBusy 1 = false ∧ owned.carveBusy 0 = true ∧ ({ carved with plans := [] } : State).carveBusy 0 = false ∧
    (carved.die 0).vaultSteps = 7 ∧ owned.mem.wf = true ∧ (owned.ctx 0).st = .active ∧ (owned.ctx 63).st = .free ∧
    (owned.plans.find? 0).map PlanSt.ctx = some 0 ∧ (leaves.ctx 0).st = .teardown ∧ leaves.plans ≠ [] ∧
    ({ leaves with plans := [] } : State).plans = [] ∧ (leaves.core 0).ctx = some 0 ∧ leaves.pages.find? 0 = some { owner := 0 } ∧
    owned.windowBad 1 7 w = false ∧ owned.windowBad 1 7 { w with log2 := 20 } = true ∧ routes.swaps = [3] ∧
    (routes.routes.map Prod.fst).Nodup ∧ (routes.shadowRoutes.map Prod.fst).Nodup ∧ (State.reset.ctxs.all fun x => x.2.st != .active) = true ∧
    (owned.ctxs.any fun x => x.2.st == .active) = true ∧ (owned.die 0).trEn = false ∧ (30 : Nat) ≠ (owned.die 0).trLog2 ∧
    291 < 292 ∧ owned.regs = [] ∧ owned.qosWeight 291 3 = 1 := by decide +kernel

-- Single steps, with the results of the spec's worked examples ---------------------------------------------------------------------

/-- The lanes of the issuing split that are active. -/
def withEm (s : State) (em : BitVec 64) : State := s.modPart fun p => { p with em := em }

/-- MOVI of −1: a 19-bit value is sign-extended to 64 bits, and the wave goes on to the next word (R64). -/
theorem test_step_movi :
    let t := after (step (State.reset.withFetchWord 32 0b001110_111111111111_1111111_1100000))
    (t.agentD 0 0).sget 0 = 0xFFFFFFFFFFFFFFFF ∧ ((t.agentD 0 0).parts.map fun p => p.2.pc) = [0x1000004] := by decide +kernel

/-- The all-zero word takes ILLEGAL_OPCODE; without a handler it ends the workgroup and is logged (R63, R427, R430). -/
theorem test_step_zero :
    let t := after (State.reset.withFetchWord 32 0).turn
    (t.core 0).agents = [] ∧ (t.found.map fun f => (f.logged, f.entry.kind, f.entry.detail)) = [(true, 6, 1)] := by decide +kernel

/-- The LIMM pair of the worked encodings: s4 = 0x12_3456_789A, and the part goes on after both words (R50). -/
theorem test_step_limm :
    let s := State.reset.withFetchWord 32 0x0D234567
    let t := after (step { s with mem := s.mem.putBytes 4 (wordBytes 0x2626BEE4) })
    (t.agentD 0 0).sget 4 = 0x123456789A ∧ ((t.agentD 0 0).parts.map fun p => p.2.pc) = [0x1000008] := by decide +kernel

/-- "A clamp that counts", first line: the saturating sums of lanes 0 to 3 (R106). -/
theorem test_clamp_iadds :
    let s := withV wave [(0, 0, 0x7FFFFFF0), (1, 0, 0x20), (0, 1, 0xFFFFFFFB), (1, 1, 3), (0, 2, 0x64), (1, 2, 0xFFFFFF9C),
      (0, 3, 0x80000001), (1, 3, 0xFFFFFFF6)]
    let t := after (exec (.iaddss 0 1 0 2) s)
    (List.range 5).map (t.me.vget 2) = [0x7FFFFFFF, 0xFFFFFFFE, 0, 0x80000000, 0] ∧ t.me.fflags = 0 := by decide +kernel

/-- The same fragment under em = lanes 0 to 2 and m1 = 0xF0: bits of other lanes stay (R116). -/
theorem test_clamp_icmpi :
    let s := withEm (withV wave [(2, 0, 0x7FFFFFFF), (2, 1, 0xFFFFFFFE), (2, 3, 0x80000000)]) 7
    let s := s.setMe (s.me.mset 1 0xF0)
    (after (exec (.icmpi 0 2 2 1) s)).me.mget 1 = 0xF2 := by decide +kernel

/-- mpopc counts m1 AND em (R115). -/
theorem test_clamp_mpopc :
    let s := withEm wave 7
    (after (exec (.mpopc 1 100) (s.setMe (s.me.mset 1 0xF2)))).me.sget 4 = 1 := by decide +kernel

/-- "The tree decides the bits": the pairwise sum is 16 777 218, and inexact is raised (R138). -/
theorem test_tree_wred :
    let s := withEm (withV wave ((List.range 64).map fun l => (1, l, if l = 0 then 0x4B800000 else 0x3F800000))) 0xF
    let t := after (exec (.wredAddF32 1 100) s)
    t.me.sget 4 = 0x4B800001 ∧ t.me.fflags = 1 := by decide +kernel

/-- The Kogge-Stone sum of the same register; an inactive lane keeps its value (R140). -/
theorem test_tree_wscan :
    let s := withEm (withV wave ((List.range 64).map fun l => (1, l, if l = 0 then 0x4B800000 else 0x3F800000))) 0xF
    let t := after (exec (.wscanAddF32 1 2) s)
    (List.range 5).map (t.me.vget 2) = [0x4B800000, 0x4B800000, 0x4B800001, 0x4B800001, 0] ∧ t.me.fflags = 1 := by decide +kernel

/-- −0.4 to n32: 0 with inexact under RNE, 0 with invalid under RD (R135). -/
theorem test_cvt_n32 :
    toInteger false 32 .rne (Fmt.f32.decode 0xBECCCCCD) = (0, 0b00001#5) ∧
    toInteger false 32 .rd (Fmt.f32.decode 0xBECCCCCD) = (0, 0b10000#5) := by decide +kernel

/-- CKG(0, 0, 0), of the worked drain and copy (R96). -/
theorem test_ckg : ckg 0 0 0 = 0xD188C13C := by decide +kernel

/-- BF16 1.0625 rounds stochastically to E4M3 0x39 under that draw (R94). -/
theorem test_round_sr : (Fmt.e4m3.round (.sr 0xD188C13C) false (Fmt.bf16.decode 0x3F88)).1 = 0x39 := by decide +kernel

/-- Block order and scales: row 0 gives 2^24 and row 1 gives 2.0 under weights of 1.0; a scale of 0xFF gives NaN (R88, R164). -/
theorem test_mma_rows :
    let tile : SMap 16 := (List.range 128).map fun k => (128 * k, 0x38)
    let bank : Bank := { fmt := 0, sc := true, tile := tile, scales := (List.range 512).map fun i => (i, 0x7F) }
    let scales := fun (first : Byte) => (0x190000, first) :: (List.range 255).map fun i => (0x190001 + i, 0x7F)
    let acts : SMap 8 := [(0x180000, 0x78), (0x180020, 0x38), (0x180040, 0x38), (0x1800A0, 0x38), (0x1800A1, 0x38)]
    let ctl := BitVec.ofNat 64 (2 * 2 ^ 40 + 0x190000 * 2 ^ 16 + 0x100)
    let m : Arrival := { agent := 0, part := 0, slot := 0, d := 0, a := 0x180000, ctl := ctl }
    let run := fun (first : Byte) (i : Nat) => mmaElement { ({} : Core) with pool := acts ++ scales first } bank false m i 0
    (run 0x8F 0, run 0x8F 1, run 0xFF 0) = (0x4B800000, 0x40000000, 0x7FC00000) := by decide +kernel

/-- "Carries, chains and a slow waiter", step 4: an arrival with nothing pending is carried; D is the next phase (R252). -/
theorem test_bar_carry :
    let s := withS (barred wave (.pool 0x180000) { bar false false 2 0 0 with phase := 0, bytes := 8192 }) [(0, 0x180000)]
    let t := after (exec (.barv 96 97) s)
    ((t.barGet 0 (.pool 0x180000)).carry, (t.barGet 0 (.pool 0x180000)).phase, t.me.sget 1) = (1, 0, 1) := by decide +kernel

/-- Step 11: one arrival more than EXP sets OVF and takes BARRIER_OVERRUN (R252, R256). -/
theorem test_bar_overrun :
    let s := withS (barred handled (.pool 0x180000) { bar false false 2 0 2 with phase := 2, bytes := 128 }) [(0, 0x180000)]
    let t := after (exec (.barv 96 97) s)
    ((t.barGet 0 (.pool 0x180000)).ovf, (t.barGet 0 (.pool 0x180000)).carry, t.me.tcode) = (true, 2, 0x09) := by decide +kernel

/-- Step 12: the last bytes complete phase 2, and the two carried arrivals complete phase 3 in the same step (R252). -/
theorem test_bar_settle :
    let s := (barred wave (.pool 0x180000) { bar false false 2 0 2 with phase := 2 }).barSettle 0 (.pool 0x180000)
    let b := s.barGet 0 (.pool 0x180000)
    (b.phase, b.pend, b.carry) = (4, 2, 0) := by decide +kernel

/-- Step 7: BWAIT with p = 0 at phase 2 writes DONE and the phase (R254). -/
theorem test_bar_wait :
    let s := withS (barred wave (.pool 0x180000) { bar false false 2 2 0 with phase := 2 }) [(0, 0x180000)]
    (after (exec (.bwait 125 96 97) s)).me.sget 1 = 0x8000000000000002 := by decide +kernel

/-- A taken brd.t with lanes 1 and 3: slot 1 receives them at the target, this split goes on with 0 and 2 (R293). -/
theorem test_brd_split :
    let s := (wave.setMe { wave.me with m := wave.me.m.set 0 0xA }).modPart fun p => { p with lanes := 0xF, em := 0xF }
    let t := after (exec (.brdT 0 4) s)
    (t.me.parts.map fun p => (p.2.slot, p.2.em, p.2.pc)) = [(some 0, 5, 0x1000004), (some 1, 0xA, 0x1000010)] := by decide +kernel

/-- TRAP with a handler: sr.epc is the next word, sr.tcode the code, the pc the handler's (R426, R433). -/
theorem test_trap_handler :
    let t := after (exec (.trap 0x20) handled)
    (t.me.tcode, t.me.epc, t.pc) = (0x20, 0x1000004, 0x1000040) := by decide +kernel

/-- The address of the chapter's example, class 4 offset 0x1234_5680: die 0, slice 16, stack 0, pseudo-channel 52 (R188, R193,
R194). -/
theorem test_home_example :
    let ia := 4 * 2 ^ 53 + 0x12345680
    (homeOf ia, stackOf ia, pchOf ia) = (some (0, 16), 0, 52) := by decide +kernel

/-- "A late joiner", merge order: the initial state, then 1.0, then twice 2^-24, each a tie that rounds to 1.0 (R358, R360). -/
theorem test_merge_order :
    let p := fun (x : W32) => ({ ord := 0, m := 0, l := x, o := [(0, x)] } : Partial)
    let init : Partial := { ord := 0, m := 0xFF800000, l := 0, o := [] }
    let q := [p 0x3F800000, p 0x33800000, p 0x33800000].foldl (Partial.merge 64) init
    (q.m, q.l, q.o.get 0, q.o.get 1) = (0, 0x3F800000, 0x3F800000, 0) := by decide +kernel

/-- The same two small partials merged first would give 0x3F80_0001, which R360 forbids. -/
theorem test_merge_other_order :
    let p := fun (x : W32) => ({ ord := 0, m := 0, l := x, o := [(0, x)] } : Partial)
    (Partial.merge 64 (Partial.merge 64 (p 0x33800000) (p 0x33800000)) (p 0x3F800000)).l = 0x3F800001 := by decide +kernel

/-- TR_RD, TR_WR, DROPPED and the record at TR_RD: type, count, first and last time. -/
def ring (s : State) : List Nat :=
  let d := s.die 0
  [d.trRd, d.trWr, d.trDropped] ++ ((d.trace.find? d.trRd).map fun g =>
    [g.type, gapCount g, g.time, (g.payload.extractLsb' 64 64).toNat]).getD []

/-- The ring of the example, full, and a record written at a time. -/
def fullRing : State :=
  let r := fun (t : Nat) => ({ time := t, type := 4, flags := 0, core := 0, ctx := 0, payload := 0 } : TraceRec)
  State.reset.setDie 0 { trEn := true, trRd := 100, trWr := 32868, trace := [(100, r 1000), (101, r 1010), (102, r 1020)] }
def marked (s : State) (time : Nat) : State := State.trace { s with now := time } 0 4 0 0 0

/-- "A run of drops", steps 1 and 2: two records, then a third, go into one GAP at the read position (R461). -/
theorem test_trace_drops :
    ring (marked fullRing 5000) = [101, 32869, 2, 8, 2, 1000, 1010] ∧
    ring (marked (marked fullRing 5000) 5040) = [102, 32870, 3, 8, 3, 1000, 1020] := by decide +kernel

/-- "A chain that breaks": entry 17 of device 5 in its first generation is handle 0x0140_0004_4000_0001 (R376). -/
theorem test_handle_example :
    ({ State.reset with devNum := 5 } : State).handleOf 17 1 = 0x0140000440000001 := by decide +kernel

end Sys2Proof.Tests
end

section
/-! SUPPORT. Fields of words, the trap instructions (R63, R432, R433), and LIMM with its follower (R50 to R52). -/

namespace Sys2Proof.Machine

-- Fields --------------------------------------------------------------------------------------------------------------

/-- The lowest field of a word. -/
theorem fld_zero (w : W32) (n : Nat) : fld w 0 n = w.setWidth n := by
  apply BitVec.eq_of_toNat_eq
  simp [fld]

/-- The major opcode (R46). -/
theorem major_eq (w : W32) : bits w 26 6 = w.toNat / 2 ^ 26 :=
  Nat.mod_eq_of_lt (by omega)

-- Trap instructions ---------------------------------------------------------------------------------------------------

/-- A word whose high eleven bits are 0 is ZTRAP (R63). -/
theorem decode_ztrap {w : W32} (h : w.toNat / 2 ^ 21 = 0) : decode w = .ok (.ztrap (w.setWidth 21)) := by
  have hmajor : bits w 26 6 = 0 := by rw [major_eq]; omega
  have hfn : bits w 21 5 = 0 := by rw [bits, h, Nat.zero_mod]
  simp only [decode, decodeMisc, hmajor, hfn, fld_zero]

/-- RFT outside a handler. -/
theorem exec_rft_outside {s : State} (h : s.me.handling = none) : exec .rft s = .next s.illegalOperand := by
  show execRft s = _
  simp [execRft, h]

/-- RFT in a handler with an address in sr.epc that is not a word's. -/
theorem exec_rft_misaligned {s : State} (h : s.me.handling ≠ none) (ha : s.me.epc.toNat % 4 ≠ 0) :
    exec .rft s = .next (s.alignTrap s.me.epc) := by
  show execRft s = _
  simp [execRft, h, ha]

/-- RFT in a handler. -/
theorem exec_rft_returns {s : State} (h : s.me.handling ≠ none) (ha : s.me.epc.toNat % 4 = 0) :
    exec .rft s = .next s.returnFromTrap := by
  show execRft s = _
  simp [execRft, h, ha]

/-- The return from a handler ends it, and the part goes on at sr.epc (R433). -/
theorem State.returnFromTrap_does (s : State) :
    OnlyMe s s.returnFromTrap ∧ WentTo s s.returnFromTrap s.me.epc ∧
      s.returnFromTrap.me = { s.me with handling := none, parts := s.returnFromTrap.me.parts } := by
  refine ⟨((AtMostMe.refl s).modMe _).onlyMe_jump _, WentTo_jump _ rfl (by simp), ?_⟩
  have hjump := State.me_jump (s.modMe fun a => { a with handling := none }) s.me.epc
  rwa [State.me_modMe] at hjump

/-- Settles O25: each trap instruction is a trap of its own, but for RFT in a handler, which returns. -/
theorem trapInstructions : Obligations.TrapInstructions := by
  intro x c s take
  refine ⟨fun w => decode_ztrap, rfl, rfl, fun hlo hhi => ?_, fun hc => ?_, exec_rft_outside, exec_rft_misaligned,
    fun h ha => ?_⟩
  · exact congrArg Host.Outcome.next (if_pos ⟨hlo, hhi⟩)
  · exact congrArg Host.Outcome.next (if_neg hc)
  · exact ⟨_, exec_rft_returns h ha, State.returnFromTrap_does s⟩

-- The followers of a LIMM ---------------------------------------------------------------------------------------------

/-- The major opcodes that may follow a LIMM (R51). -/
def joinMajors : List Nat :=
  [0x09, 0x0A, 0x0B, 0x0C, 0x0F, 0x24, 0x25, 0x26, 0x27, 0x28, 0x29, 0x2A, 0x2B, 0x2C, 0x2D, 0x2E, 0x2F]

/-- Whether a word was decoded to an instruction that a LIMM may join. -/
def joining : Except Reject Instr → Bool
  | .ok j => joins j
  | .error _ => false

@[simp] theorem joining_ok (j : Instr) : joining (.ok j) = joins j := rfl
@[simp] theorem joining_error (e : Reject) : joining (.error e) = false := rfl
@[simp] theorem joining_ite (p : Prop) [Decidable p] (x y : Except Reject Instr) :
    joining (if p then x else y) = if p then joining x else joining y := apply_ite ..

/-- The rows that a function field chooses hold no instruction that a LIMM may join. -/
theorem joining_functionRows (w : W32) :
    joining (decodeMisc w) = false ∧ joining (decodeIalu w) = false ∧ joining (decodeIcmp w) = false ∧
    joining (decodeShfi w) = false ∧ joining (decodeFalu w) = false ∧ joining (decodeFfma w) = false ∧
    joining (decodeFcmp w) = false ∧ joining (decodeFsfu w) = false ∧ joining (decodeCvt w) = false ∧
    joining (decodeHalu w) = false ∧ joining (decodeDalu w) = false ∧ joining (decodeWave w) = false ∧
    joining (decodeMask w) = false ∧ joining (decodeStream w) = false ∧ joining (decodeBrd w) = false ∧
    joining (decodeBeod w) = false ∧ joining (decodeJmpr w) = false ∧ joining (decodeLdo w) = false ∧
    joining (decodeSto w) = false ∧ joining (decodeAtom w) = false ∧ joining (decodeRed w) = false ∧
    joining (decodeFence w) = false ∧ joining (decodeCache w) = false ∧ joining (decodeBar w) = false ∧
    joining (decodeXfer w) = false ∧ joining (decodeCopy w) = false ∧ joining (decodeMtx w) = false ∧
    joining (decodePipe w) = false ∧ joining (decodeAttn w) = false ∧ joining (decodeInvk w) = false := by
  simp only [decodeMisc, decodeIalu, decodeIcmp, decodeShfi, decodeFalu, decodeFfma, decodeFcmp, decodeFsfu,
    decodeCvt, decodeHalu, decodeDalu, decodeWave, decodeMask, decodeStream, decodeBrd, decodeBeod, decodeJmpr, decodeLdo,
    decodeSto, decodeAtom, decodeRed, decodeFence, decodeCache, decodeBar, decodeXfer, decodeCopy, decodeMtx, decodePipe,
    decodeAttn, decodeInvk]
  and_intros <;> split <;> simp [joins]

/-- A word decodes to an instruction that a LIMM may join exactly where its major is one of R51: such a major has one row,
and the other majors' rows hold none. -/
theorem joining_decode (w : W32) : joining (decode w) = decide (bits w 26 6 ∈ joinMajors) := by
  unfold decode
  split
  all_goals simp_all [joinMajors, joins, joining_functionRows]

/-- Of the words that decode, ZTRAP alone takes ILLEGAL_OPCODE (R63). -/
theorem opcodeIllegal_ok {w : W32} {j : Instr} (hd : decode w = .ok j) (hz : ∀ x, j ≠ .ztrap x) :
    opcodeIllegal w = false := by
  unfold opcodeIllegal
  split
  case h_1 he => rw [hd] at he; cases he
  case h_2 x hx => rw [hd] at hx; exact absurd (Except.ok.inj hx) (hz x)
  case h_3 => rfl

-- LIMM (R50 to R52) ---------------------------------------------------------------------------------------------------

/-- The state in which the follower of a LIMM executes: its word, the length of the pair, and the LIMM's immediate (R50, R52). -/
def State.joined (s : State) (i : BitVec 26) (w : W32) : State :=
  { s with cur := { s.cur with word := w, len := 8, pre := some i } }

/-- The immediate of a follower is the joined one (R50). -/
theorem State.imm_joined (s : State) (i : BitVec 26) (w : W32) (im : BitVec 12) :
    (s.joined i w).imm im = (i ++ im).signExtend 64 := rfl

/-- A LIMM word (R50). -/
theorem decode_limm {w : W32} (h : w.toNat / 2 ^ 26 = 3) : decode w = .ok (.limm (w.setWidth 26)) := by
  have hmajor : bits w 26 6 = 3 := by rw [major_eq, h]
  simp only [decode, hmajor, fld_zero]

section
variable {i : BitVec 26} {s : State} {w : W32}

/-- A LIMM whose follower cannot be fetched. -/
theorem exec_limm_unfetched {e : State} (hf : s.fetch (s.pc + 4) (some s.cur.word) = .error e) :
    exec (.limm i) s = .next e := by
  show execLimm i s = _
  simp only [execLimm, hf]

/-- A LIMM before a word that takes ILLEGAL_OPCODE (R51). -/
theorem exec_limm_illegal (hf : s.fetch (s.pc + 4) (some s.cur.word) = .ok w) (ho : opcodeIllegal w = true) :
    exec (.limm i) s = .next s.illegalOpcode := by
  show execLimm i s = _
  simp only [execLimm, hf, ho, if_true]

/-- A LIMM before a word of no major of R51. -/
theorem exec_limm_sequence (hf : s.fetch (s.pc + 4) (some s.cur.word) = .ok w) (ho : opcodeIllegal w = false)
    (hj : joining (decode w) = false) : exec (.limm i) s = .next (s.trap 0x04 (w.setWidth 64)) := by
  have hmajor : bits w 26 6 ∉ joinMajors := by simpa [joining_decode] using hj
  show execLimm i s = _
  simp only [execLimm, hf, ho, Bool.false_eq_true, if_false]
  split
  case h_18 => rfl
  all_goals simp [joinMajors, *] at hmajor

/-- A LIMM before a follower of R51. -/
theorem exec_limm_joins {j : Instr} (hf : s.fetch (s.pc + 4) (some s.cur.word) = .ok w) (hd : decode w = .ok j)
    (hj : joins j = true) : exec (.limm i) s = exec j (s.joined i w) := by
  have hmajor : bits w 26 6 ∈ joinMajors := by simpa [hd, hj] using joining_decode w
  have ho := opcodeIllegal_ok hd fun x hx => by subst hx; cases hj
  show execLimm i s = _
  simp only [execLimm, hf, ho, Bool.false_eq_true, if_false]
  split
  case h_18 => simp_all [joinMajors]
  all_goals
    rename_i hm
    simp only [decode, hm, Except.ok.injEq] at hd
    subst hd
    rfl

/-- A LIMM pair has an outcome, which is a next state. -/
theorem exec_limm_next (i : BitVec 26) (s : State) : ∃ t, exec (.limm i) s = .next t := by
  show ∃ t, execLimm i s = _
  unfold execLimm
  split
  · exact ⟨_, rfl⟩
  · split
    · exact ⟨_, rfl⟩
    · dsimp only
      split
      case h_18 => exact ⟨_, rfl⟩
      all_goals exact finish_next _

end

-- Integer followers on a scalar (R53, R54, R109) ------------------------------------------------------------------------

theorem exec_iaddi (im : BitVec 12) (a d : Reg) (s : State) : exec (.iaddi im a d) s = s.immOp im a d opAdd := rfl
theorem exec_andi (im : BitVec 12) (a d : Reg) (s : State) :
    exec (.andi im a d) s = s.immOp im a d fun _ x y => Nat.land x y := rfl
theorem exec_ori (im : BitVec 12) (a d : Reg) (s : State) :
    exec (.ori im a d) s = s.immOp im a d fun _ x y => Nat.lor x y := rfl
theorem exec_xori (im : BitVec 12) (a d : Reg) (s : State) :
    exec (.xori im a d) s = s.immOp im a d fun _ x y => Nat.xor x y := rfl

theorem isScalar_not_isStream {r : Reg} (h : isScalar r = true) : isStream r = false := by
  simp [isScalar, isStream] at *; omega
theorem isScalar_not_isLid {r : Reg} (h : isScalar r = true) : isLid r = false := by
  simp [isScalar, isLid] at *; omega

/-- The value of a scalar source of 64 bits. -/
theorem State.val_scalar (s : State) (got : Pulled) (lane : Nat) {a : Reg} (ha : isScalar a = true) :
    s.val got lane (a, 64) = (s.sval a).toNat := by
  simp [State.val, State.sval, isScalar_not_isVec ha, ha, Nat.mod_eq_of_lt (BitVec.isLt _)]

/-- Raising no flag after a write of a scalar. -/
theorem State.raise_zero_setS (s : State) {d : Reg} (hd : isScalar d = true) (x : W64) :
    (s.setS d x).raise 0 = s.setS d x := by
  simp [State.setS, hd, State.raise, State.modMe]

/-- IADDI, ANDI, ORI and XORI of a settled agent from a scalar to a scalar. -/
theorem State.immOp_scalar {s : State} (hs : s.ready = true) {a d : Reg} (ha : isScalar a = true) (hd : isScalar d = true)
    {g : Nat → Nat → Nat → Nat} {f : W64 → W64 → W64} (hg : ∀ x k : W64, g 64 x.toNat k.toNat = (f x k).toNat)
    (im : BitVec 12) : s.immOp im a d g = .next (s.setS d (f (s.sval a) (s.imm im))).advance := by
  have hv : isVec d = false := isScalar_not_isVec hd
  have hq : isStream a = false := isScalar_not_isStream ha
  have hlegal : s.legal (aluOk d 64 [(a, 64)] && true && s.streamsOk [(a, 64)]) [d, a] = .ok () :=
    State.legal_ok (by simp [aluOk, dstOk, srcOk, scalarOk, streamsOnce, State.streamsOk, ha, hd, hq])
      fun _ => by simp [namesLanes, isScalar_not_isVec, isScalar_not_isStream, isScalar_not_isLid, ha, hd]
  have hpull : s.pullAll false [(a, 64)] = .ok (s, []) := State.pullAll_plain s _ _ (by simp [hq])
  have happly : s.apply d 64 [(a, 64)] [] (iop1 fun x => g 64 x ((s.imm im).toNat % 2 ^ 64)) =
      s.setS d (f (s.sval a) (s.imm im)) := by
    simp only [State.apply, hv, State.putScalar, iop1, List.map_cons, List.getD_cons_zero, State.val_scalar s _ _ ha,
      Nat.mod_eq_of_lt (BitVec.isLt _), hg, BitVec.ofNat_toNat, BitVec.setWidth_eq]
    exact State.raise_zero_setS s hd _
  simp only [State.immOp, immWidth, hv, State.alu, State.interlock_ok hs, List.map_cons, List.map_nil, Bool.false_eq_true,
    if_false, hlegal, hpull, bind, Except.bind]
  rw [happly, finish_ok]

/-- A LIMM before an integer immediate instruction on a scalar: the destination receives the result with the joined
immediate, and execution goes on after both words (R50, R52). -/
theorem exec_limm_immOp {i : BitVec 26} {s : State} {w : W32} {im : BitVec 12} {a d : Reg} {j : Instr}
    {g : Nat → Nat → Nat → Nat} {f : W64 → W64 → W64} (hf : s.fetch (s.pc + 4) (some s.cur.word) = .ok w)
    (hd : decode w = .ok j) (hj : joins j = true) (hx : ∀ u, exec j u = u.immOp im a d g)
    (hg : ∀ x k : W64, g 64 x.toNat k.toNat = (f x k).toNat)
    (hs : s.ready = true) (ha : isScalar a = true) (hds : isScalar d = true) :
    ∃ t, exec (.limm i) s = .next t ∧ OnlyMe (s.joined i w) t ∧ WentTo s t (s.pc + 8) ∧
      WroteS s t d (f (s.sval a) ((i ++ im).signExtend 64)) ∧ t.me = { s.me with s := t.me.s, parts := t.me.parts } := by
  have hu : (s.joined i w).ready = true := hs
  rw [exec_limm_joins hf hd hj, hx, State.immOp_scalar hu ha hds hg]
  exact writesScalar (f := fun u => f (u.sval a) (u.imm im))

/-- Settles O28: a LIMM is its follower with the joined immediate, where R51 lets it join. -/
theorem limmJoins : Obligations.LimmJoins := by
  intro i s w
  refine ⟨decode_limm, fun e => exec_limm_unfetched, fun hf => ⟨?_, ?_, ?_, ?_, ?_, ?_⟩⟩
  · intro im a d j f hjf hd ha hds hs
    simp only [List.mem_cons, Prod.mk.injEq, List.not_mem_nil, or_false] at hjf
    obtain ⟨rfl, rfl⟩ | ⟨rfl, rfl⟩ | ⟨rfl, rfl⟩ | ⟨rfl, rfl⟩ := hjf
    · exact exec_limm_immOp hf hd rfl (exec_iaddi im a d) (fun x k => (BitVec.toNat_add x k).symm) hs ha hds
    · exact exec_limm_immOp hf hd rfl (exec_andi im a d) (fun x k => (BitVec.toNat_and x k).symm) hs ha hds
    · exact exec_limm_immOp hf hd rfl (exec_ori im a d) (fun x k => (BitVec.toNat_or x k).symm) hs ha hds
    · exact exec_limm_immOp hf hd rfl (exec_xori im a d) (fun x k => (BitVec.toNat_xor x k).symm) hs ha hds
  · intro j hd hj
    obtain ⟨t, ht⟩ := exec_limm_next i s
    exact ⟨t, ht, (exec_limm_joins hf hd hj).symm.trans ht, State.imm_joined s i w⟩
  · exact fun hd => exec_limm_illegal hf (by rw [opcodeIllegal, hd])
  · exact fun x hd => exec_limm_illegal hf (by rw [opcodeIllegal, hd])
  · exact fun j hd hj hz => exec_limm_sequence hf (opcodeIllegal_ok hd hz) (by rw [hd]; exact hj)
  · exact fun hd => exec_limm_sequence hf (by rw [opcodeIllegal, hd]) (by rw [hd]; rfl)

end Sys2Proof.Machine
end

section
/-! SUPPORT. Free keys of a table, and divergent branches with the splits that they make (R292, R293). -/

namespace Sys2Proof.Machine

-- Tables --------------------------------------------------------------------------------------------------------------

/-- A key that is found is listed. -/
theorem AList.mem_of_find? {α : Type} {t : AList α} {k : Nat} {v : α} (h : t.find? k = some v) : (k, v) ∈ t := by
  induction t with
  | nil => cases h
  | cons p rest ih =>
    obtain ⟨c, w⟩ := p
    by_cases hk : k = c
    · rw [AList.find?, if_pos hk] at h
      rw [hk, Option.some.inj h]; exact List.mem_cons_self
    · rw [AList.find?, if_neg hk] at h
      exact List.mem_cons_of_mem _ (ih h)

/-- The search for a free key ends at one, unless every candidate is listed. -/
theorem AList.find?_free {α : Type} (t : AList α) (n lo : Nat) :
    t.find? (t.free lo n) = none ∨ ∀ k, lo ≤ k → k < lo + n → (t.find? k).isSome := by
  induction n generalizing lo with
  | zero => exact .inr fun k h1 h2 => absurd h2 (by omega)
  | succ n ih =>
    by_cases h : (t.find? lo).isSome
    · rw [AList.free, if_pos h]
      refine (ih (lo + 1)).imp_right fun hall k h1 h2 => ?_
      rcases Nat.eq_or_lt_of_le h1 with rfl | hlt
      · exact h
      · exact hall k hlt (by omega)
    · rw [AList.free, if_neg h]
      exact .inl (by simpa using h)

/-- A table does not list more keys than it has entries. -/
theorem AList.exists_find?_eq_none {α : Type} {t : AList α} {n : Nat} (h : t.length < n) :
    ∃ k, k < n ∧ t.find? k = none := by
  by_contra hall
  have hsub : List.range n ⊆ t.keys := fun k hk => by
    obtain ⟨v, hv⟩ := Option.ne_none_iff_exists'.mp fun hnone => hall ⟨k, List.mem_range.mp hk, hnone⟩
    exact List.mem_map.mpr ⟨_, AList.mem_of_find? hv, rfl⟩
  have hle := (List.nodup_range.subperm hsub).length_le
  simp [AList.keys] at hle
  omega

/-- Beside the entry of a listed key, a table of less than `n` entries has a free key among `n`. -/
theorem AList.free_put {α : Type} {t : AList α} {c n : Nat} {v : α} (hc : t.find? c = some v) (hn : t.length < n) (w : α) :
    (t.put c w).free 0 n ≠ c ∧ t.find? ((t.put c w).free 0 n) = none := by
  have hnone : (t.put c w).find? ((t.put c w).free 0 n) = none := by
    refine (AList.find?_free _ n 0).resolve_right fun hall => ?_
    obtain ⟨k, hk, hfree⟩ := AList.exists_find?_eq_none hn
    have hkc : k ≠ c := fun h => by simp [h, hc] at hfree
    simpa [hkc, hfree] using hall k (Nat.zero_le _) (by omega)
  have hne : (t.put c w).free 0 n ≠ c := fun h => by simp [h] at hnone
  exact ⟨hne, by simpa [hne] using hnone⟩

-- Splits (R292, R293) -------------------------------------------------------------------------------------------------

/-- The lowest free split slot is one below which every slot is used. -/
theorem Agent.freeSlot_eq_some {a : Agent} {k : Nat} (hk : k < 4) (hfree : k ∉ a.usedSlots) (hlow : ∀ j, j < k → j ∈ a.usedSlots) :
    a.freeSlot = some k := by
  simp only [Agent.freeSlot, List.find?_range_eq_some]
  simpa [hk, hfree] using hlow

/-- No split slot is free where all four are used. -/
theorem Agent.freeSlot_eq_none {a : Agent} (h : ∀ k, k < 4 → k ∈ a.usedSlots) : a.freeSlot = none := by
  simpa [Agent.freeSlot] using h

/-- A part with an active lane is listed. -/
theorem State.find?_myPart {s : State} (h : s.em ≠ 0) : s.me.parts.find? s.cur.part = some s.myPart := by
  unfold State.em State.myPart at *
  cases hp : s.me.parts.find? s.cur.part with
  | none => simp [hp] at h
  | some p => rfl

/-- The split of a wave that lanes `t` leave: the issuing part goes on without them (R293). -/
def State.without (s : State) (t : BitVec 64) : Part :=
  { s.myPart.goOn s.after_ with lanes := s.myPart.lanes &&& ~~~t, em := s.em &&& ~~~t }

/-- The part that lanes `t` become when they leave the issuing one (R293). -/
def State.forked (s : State) (t : BitVec 64) (target : W64) : Part :=
  { slot := s.me.freeSlot, lanes := t, em := t, pc := target, stamp := s.nextId }

theorem State.modMe_setMe (s : State) (a : Agent) (f : Agent → Agent) : (s.setMe a).modMe f = s.setMe (f a) := by
  simp [State.modMe]

theorem State.modPart_eq (s : State) (f : Part → Part) :
    s.modPart f = s.setMe { s.me with parts := s.me.parts.put s.cur.part (f s.myPart) } := rfl

/-- A part that is changed and goes on after its instruction. -/
theorem State.advance_modPart (s : State) (f : Part → Part) :
    (s.modPart f).advance = s.setMe { s.me with
      parts := s.me.parts.put s.cur.part ((f s.myPart).goOn ((f s.myPart).pc + BitVec.ofNat 64 s.cur.len)) } := by
  have hme : (s.modPart f).me = { s.me with parts := s.me.parts.put s.cur.part (f s.myPart) } := State.me_setPart ..
  rw [State.advance, State.modPart_eq (s.modPart f), State.myPart_modPart, hme, State.cur_modPart, AList.put_put]
  exact State.setMe_setMe s _ _

/-- The wave whose issuing split lanes `t` have left (R293). -/
def State.splitMe (s : State) (t : BitVec 64) (target : W64) : Agent :=
  let ps := s.me.parts.put s.cur.part (s.without t)
  { s.me with parts := ps.put (ps.free 0 64) (s.forked t target) }

/-- Where lanes leave a split and others stay, with a place for them, the one table of parts changes (R293). -/
theorem State.diverge_splits {s : State} {t : BitVec 64} {target : W64} (ht : t ≠ 0) (hn : s.em &&& ~~~t ≠ 0)
    (hroom : (s.me.freeSlot.isNone && decide (16 ≤ s.me.listed)) = false) :
    s.diverge t target = { s.setMe (s.splitMe t target) with nextId := s.nextId + 1 } := by
  simp only [State.diverge, ht, hn, hroom, if_false, Bool.false_eq_true, State.advance_modPart, State.modMe_setMe]
  rfl

/-- What a divergent branch does in which lanes of either kind stay, with a place for those that leave (R293). -/
theorem State.diverge_does {s : State} {t : BitVec 64} {target : W64} (ht : t ≠ 0) (hn : s.em &&& ~~~t ≠ 0)
    (hroom : (s.me.freeSlot.isNone && decide (16 ≤ s.me.listed)) = false) (hem : s.em ≠ 0) (hlen : s.me.parts.length < 64) :
    let u := s.diverge t target
    ∃ k, u = { s.setMe u.me with nextId := s.nextId + 1 } ∧ k ≠ s.cur.part ∧ s.me.parts.find? k = none ∧
      u.me.parts.find? k = some (s.forked t target) ∧ u.myPart = s.without t ∧
      (∀ j, j ≠ k → j ≠ s.cur.part → u.me.parts.find? j = s.me.parts.find? j) ∧
      u.me = { s.me with parts := u.me.parts } := by
  intro u
  obtain ⟨hk, hnone⟩ := AList.free_put (State.find?_myPart hem) hlen (s.without t)
  have hu := State.diverge_splits (target := target) ht hn hroom
  have hme : u.me = s.splitMe t target := (congrArg State.me hu).trans (State.me_setMe s _)
  have hcur : u.cur = s.cur := (congrArg State.cur hu).trans rfl
  refine ⟨_, ?_, hk, hnone, ?_, ?_, fun j hj hjc => ?_, ?_⟩
  · rw [hme]; exact hu
  · rw [hme]; simp [State.splitMe]
  · rw [State.myPart, hme, hcur]; simp [State.splitMe, hk.symm]
  · rw [hme]; simp [State.splitMe, hj, hjc]
  · rw [hme]; rfl

theorem State.diverge_none (s : State) (target : W64) : s.diverge 0 target = s.advance := rfl

theorem State.diverge_all {s : State} {t : BitVec 64} (target : W64) (ht : t ≠ 0) (hn : s.em &&& ~~~t = 0) :
    s.diverge t target = s.jump target := by
  simp only [State.diverge, ht, hn, if_false, if_true]

/-- A full list of deferred parts beside four used slots (R293). -/
theorem State.diverge_depth {s : State} {t : BitVec 64} (target : W64) (ht : t ≠ 0) (hn : s.em &&& ~~~t ≠ 0)
    (hslot : s.me.freeSlot = none) (hlist : 16 ≤ s.me.listed) : s.diverge t target = s.trap 0x0C s.wordInfo := by
  simp only [State.diverge, ht, hn, hslot, hlist, if_false, Option.isNone_none, decide_true, Bool.and_self, if_true]

/-- The lanes that a divergent branch takes (R293). -/
def State.takes (s : State) (r : Reg) (sense : Bool) : BitVec 64 :=
  s.em &&& (if sense then s.me.mget r.toNat else ~~~(s.me.mget r.toNat))

/-- BRD in a copy context, with a field that names no mask, and else (R43, R44, R293). -/
theorem State.brd_eq (s : State) (r : Reg) (p : BitVec 16) (sense : Bool) :
    s.brd r p sense = .next (if s.me.role = .copy then s.roleViolation else if r.toNat < 8 then
      s.diverge (s.takes r sense) (s.target p) else s.illegalOperand) := by
  by_cases hc : s.me.role = .copy
  · simp [State.brd, State.notCopy, hc, bind, Except.bind]
  · by_cases hr : r.toNat < 8
    · simp [State.brd, State.notCopy_ok hc, hc, maskOk, hr, bind, Except.bind, State.takes]
    · simp [State.brd, State.notCopy_ok hc, hc, maskOk, hr, bind, Except.bind]

/-- Settles O23, by the four ends of a divergent branch. -/
theorem divergentBranches : Obligations.DivergentBranches := by
  intro r p sense s i m t n target used
  have hexec : exec i s = s.brd r p sense := by cases sense <;> rfl
  rw [State.brd_eq] at hexec
  refine ⟨fun hc => ?_, fun hc hr => ?_, fun hc hr => ?_⟩
  · rw [hexec, if_pos hc]
  · rw [hexec, if_neg hc, if_neg (by omega)]
  rw [if_neg hc, if_pos hr] at hexec
  rw [hexec]
  have htakes : s.takes r sense = t := rfl
  rw [htakes]
  refine ⟨fun ht => ?_, fun ht hn => ?_, fun ht hn hused hlist => ?_, fun ht hn hlen slot hslot => ?_⟩
  · rw [ht, State.diverge_none]; exact Goes_advance s
  · rw [State.diverge_all _ ht hn]; exact Goes_jump s _
  · rw [State.diverge_depth _ ht hn (Agent.freeSlot_eq_none hused) hlist]
  · have hplace : s.me.freeSlot = slot ∧ (slot.isNone && decide (16 ≤ s.me.listed)) = false := by
      cases slot with
      | some k =>
        obtain ⟨hk, hfree, hlow⟩ := hslot
        exact ⟨Agent.freeSlot_eq_some hk hfree hlow, rfl⟩
      | none =>
        obtain ⟨hused, hlist⟩ := hslot
        exact ⟨Agent.freeSlot_eq_none hused, decide_eq_false (Nat.not_le.mpr hlist)⟩
    obtain ⟨rfl, hroom⟩ := hplace
    have hem : s.em ≠ 0 := fun h => ht (by simp [t, h])
    obtain ⟨k, hdoes⟩ := State.diverge_does (target := target) ht hn hroom hem hlen
    exact ⟨_, k, rfl, hdoes⟩

end Sys2Proof.Machine
end

section
/-! SUPPORT. Which agents a core lists after a trap (R427, R430), and the register window (R27, R304). -/

namespace Sys2Proof.Machine

-- Entries of tables -----------------------------------------------------------------------------------------------------

/-- A table whose keys stay reads the changed values. -/
theorem AList.find?_map {α β : Type} {g : Nat × α → Nat × β} (hg : ∀ p, (g p).1 = p.1) (t : AList α) (k : Nat) :
    AList.find? (t.map g) k = (t.find? k).map fun v => (g (k, v)).2 := by
  induction t with
  | nil => rfl
  | cons p rest ih =>
    obtain ⟨c, w⟩ := p
    by_cases h : k = c
    · subst h; simp [AList.find?, hg]
    · simp [AList.find?, hg, h, ih]

/-- A write adds its own entry at most. -/
theorem AList.mem_put {α : Type} {t : AList α} {k : Nat} {v : α} {p : Nat × α} (h : p ∈ t.put k v) : p = (k, v) ∨ p ∈ t := by
  induction t with
  | nil => exact .inl (List.mem_singleton.mp h)
  | cons q rest ih =>
    obtain ⟨c, w⟩ := q
    simp only [AList.put] at h
    split at h
    · exact List.mem_cons.mp h
    · split at h
      · exact (List.mem_cons.mp h).imp_right (List.mem_cons_of_mem _)
      · rcases List.mem_cons.mp h with rfl | h
        · exact .inr List.mem_cons_self
        · exact (ih h).imp_right (List.mem_cons_of_mem _)

/-- In a table that lists a key once, every entry of the key is the one that is found. -/
theorem AList.eq_of_mem {α : Type} {t : AList α} (hn : t.keys.Nodup) {k : Nat} {v w : α} (hf : t.find? k = some v)
    (hm : (k, w) ∈ t) : w = v :=
  congrArg Prod.snd (List.inj_on_of_nodup_map hn hm (AList.mem_of_find? hf) rfl)

-- The agents of a core after a trap (R427, R430) -------------------------------------------------------------------------

/-- A change of every core that leaves its agents. -/
theorem State.agents_mapCores {s t : State} {g : Nat × Core → Nat × Core} (hk : ∀ p, (g p).1 = p.1)
    (ha : ∀ p, (g p).2.agents = p.2.agents) (h : t.cores = s.cores.map g) (c : Nat) :
    (t.core c).agents = (s.core c).agents := by
  rw [State.core, State.core, h, AList.getD, AList.getD, AList.find?_map hk]
  cases s.cores.find? c with
  | none => rfl
  | some x => exact ha (c, x)

/-- The begin of a drain leaves the agents of a core (R342). -/
theorem State.agents_drainPlan (s : State) (c pl st reason stage pipe : Nat) :
    ((s.drainPlan pl st reason stage pipe).core c).agents = (s.core c).agents := by
  unfold State.drainPlan
  split
  · rfl
  · split
    · rfl
    · refine State.agents_mapCores (s := s) (fun _ => ?_) (fun _ => ?_) rfl c
      · rfl
      dsimp only
      split
      · split <;> rfl
      · rfl

theorem State.core_modPlan (s : State) (n : Nat) (f : PlanSt → PlanSt) (c : Nat) : (s.modPlan n f).core c = s.core c := by
  unfold State.modPlan; split <;> rfl
theorem State.core_serveWaiting (s : State) (pl c : Nat) : (s.serveWaiting pl).core c = s.core c := by
  unfold State.serveWaiting; split <;> rfl
theorem State.core_leavePasses (s : State) (d w uid c : Nat) : (s.leavePasses d w uid).core c = s.core c := rfl

/-- The end of a workgroup removes agents and adds none (R430). -/
theorem State.mem_agents_endWg {s : State} {c w : Nat} {p : Nat × Agent} (h : p ∈ ((s.endWg c w).core c).agents) :
    p ∈ (s.core c).agents := by
  unfold State.endWg at h
  split at h
  · exact h
  · rw [State.core_modCore, if_pos rfl, State.core_leavePasses] at h
    have hcore := (List.mem_filter.mp h).1
    split at hcore
    · rwa [State.core_serveWaiting, State.core_modPlan] at hcore
    · exact hcore

theorem State.agents_unbind (s : State) (c : Nat) : ((s.unbind c).core c).agents = (s.core c).agents := by
  unfold State.unbind
  split
  · simp
  · dsimp only
    split <;> simp

theorem State.agents_afterWg (s : State) (c : Nat) : ((s.afterWg c).core c).agents = (s.core c).agents := by
  unfold State.afterWg
  dsimp only
  split
  · split
    · split <;> rfl
    · rfl
  · split
    · exact State.agents_unbind s c
    · rfl
  · rfl

/-- The end of a kernel removes agents and adds none (R430). -/
theorem State.mem_agents_kernelEnd {s : State} {c k : Nat} {code second : BitVec 8} {offset : W32} {p : Nat × Agent}
    (h : p ∈ ((s.kernelEnd c k code second offset).core c).agents) : p ∈ (s.core c).agents := by
  unfold State.kernelEnd at h
  rw [State.agents_afterWg] at h
  have hend := State.mem_agents_endWg h
  split at hend
  · rwa [State.agents_drainPlan] at hend
  · exact hend
  · exact hend

theorem State.mem_agents_setAgent {s : State} {c k : Nat} {a : Agent} {p : Nat × Agent}
    (h : p ∈ ((s.setAgent c k a).core c).agents) : p = (k, a) ∨ p ∈ (s.core c).agents := by
  rw [State.setAgent, State.core_modCore, if_pos rfl] at h
  exact AList.mem_put h

/-- Taking a trap moves no register window: what a core then lists under the agent's key has the agent's, or was listed
before (R27, R427). -/
theorem State.wb_takeTrap {s : State} {c k part : Nat} {t : TrapInfo} {epc : W64} {a b : Agent} (ha : s.agent? c k = some a)
    (h : (k, b) ∈ ((s.takeTrap c k part t epc).core c).agents) : b.wb = a.wb ∨ (k, b) ∈ (s.core c).agents := by
  have hset {u : State} {e : Agent} (he : e.wb = a.wb) (hm : (k, b) ∈ ((u.setAgent c k e).core c).agents) :
      b.wb = a.wb ∨ (k, b) ∈ (u.core c).agents :=
    (State.mem_agents_setAgent hm).imp_left fun heq => by cases heq; exact he
  rw [State.takeTrap, ha] at h
  dsimp only at h
  generalize (a.parts.find? part).bind Part.op = op at h
  cases op
  all_goals  -- with or without an operation on XC that is over, the trap registers are written alike
    dsimp only at h
    split at h
    · rcases hset (by rfl) h with h | h
      · exact .inl h
      · exact hset (by rfl) h
    · split at h <;> exact hset (by rfl) (State.mem_agents_kernelEnd h)

/-- Where a core lists each agent once, a trap moves no register window. -/
theorem State.wb_trap {s : State} (hn : (s.core s.cur.core).agents.keys.Nodup) {code : BitVec 8} {einfo eaddr fmask : W64}
    {b : Agent} (hb : (s.trap code einfo eaddr fmask).agent? s.cur.core s.cur.agent = some b) : b.wb = s.me.wb := by
  cases ha : s.agent? s.cur.core s.cur.agent with
  | none =>
    rw [State.trap, State.takeTrap, ha] at hb
    exact absurd (ha.symm.trans hb) nofun
  | some a =>
    have hme : s.me = a := by rw [State.me, State.agentD, ha, Option.getD_some]
    rw [hme]
    exact (State.wb_takeTrap ha (AList.mem_of_find? hb)).elim id fun hmem => by rw [AList.eq_of_mem hn ha hmem]

-- WINB (R304) -------------------------------------------------------------------------------------------------------------

/-- WINB: its fields and role, then its value, then the window at it (R27, R304). -/
theorem exec_winb {a : BitVec 7} {s : State} (hi : s.interlock [(a, 64)] [] = .ok ()) :
    exec (.winb a) s = .next (
      if isSz a = true ∧ s.me.role ≠ .copy then
        if (s.sval a).toNat % 32 = 0 ∧ (s.sval a).toNat + 96 ≤ s.me.vregs then
          (s.setMe { s.me with wb := (s.sval a).toNat }).advance
        else s.trap 0x0D (s.sval a)
      else s.illegalOperand) := by
  show execWinb a s = _
  simp only [execWinb, hi, bind, Except.bind]
  by_cases hl : isSz a = true ∧ s.me.role ≠ .copy
  · rw [need_pos (by simpa using hl), if_pos hl]
    by_cases hx : (s.sval a).toNat % 32 = 0 ∧ (s.sval a).toNat + 96 ≤ s.me.vregs
    · rw [need_pos (decide_eq_true hx), if_pos hx]; rfl
    · rw [decide_eq_false hx, if_neg hx]; rfl
  · have hb : (isSz a && s.me.role != .copy) = false := by simpa using hl
    rw [hb, if_neg hl]; rfl

/-- What WINB does in a state whose core lists each agent once (R304). -/
theorem winb_does {a : BitVec 7} {s : State} (hi : s.interlock [(a, 64)] [] = .ok ())
    (hn : (s.core s.cur.core).agents.keys.Nodup) :
    let x := s.sval a
    (isSz a = false ∨ s.me.role = .copy → exec (.winb a) s = .next s.illegalOperand) ∧
    (isSz a = true → s.me.role ≠ .copy →
      (¬(x.toNat % 32 = 0 ∧ x.toNat + 96 ≤ s.me.vregs) → exec (.winb a) s = .next (s.trap 0x0D x) ∧
        ∀ b, (s.trap 0x0D x).agent? s.cur.core s.cur.agent = some b → b.wb = s.me.wb) ∧
      (x.toNat % 32 = 0 → x.toNat + 96 ≤ s.me.vregs →
        ∃ t, exec (.winb a) s = .next t ∧ OnlyMe s t ∧ Passed s t ∧
          t.me = { s.me with wb := x.toNat, parts := t.me.parts } ∧
          ∀ n l, t.me.vget n l = s.me.v.get ((x.toNat + n) * 64 + l))) := by
  intro x
  rw [exec_winb hi]
  refine ⟨fun hl => ?_, fun hsz hc => ⟨fun hx => ⟨?_, fun b => State.wb_trap hn⟩, fun h32 hv => ?_⟩⟩
  · rw [if_neg fun ⟨hsz, hc⟩ => hl.elim (fun hf => Bool.false_ne_true (hf.symm.trans hsz)) hc]
  · rw [if_pos ⟨hsz, hc⟩, if_neg hx]
  · rw [if_pos ⟨hsz, hc⟩, if_pos ⟨h32, hv⟩]
    obtain ⟨t, ht, honly, hpass, hme⟩ := wroteMe s { s.me with wb := x.toNat } rfl
    exact ⟨t, ht, honly, hpass, hme, fun n l => by rw [hme]; rfl⟩

/-- A wave of workgroup 0 with a window value of 31 in s0. -/
def windowWave : Agent := { Agent.blank with s := [(0, 31)], parts := [(0, {})] }

/-- An agent of workgroup 1, with its window at 32. -/
def strayAgent : Agent := { Agent.blank with wg := 1, wb := 32 }

/-- A core that issues for its agent 0, with the entries that it lists for agents. -/
def windowState (agents : AList Agent) : State :=
  { cores := [(0, { agents := agents, wgs := [(0, { uid := 0, g := 0, slotBase := 0, copyEnded := true })] })]
    cur := { core := 0, agent := 0, part := 0 } }

/-- The premises of `winb_does`, and a value that takes WINDOW_RANGE. -/
theorem witness_winb_does :
    let s := windowState [(0, windowWave)]
    s.interlock [(96, 64)] [] = .ok () ∧ (s.core s.cur.core).agents.keys.Nodup ∧ isSz 96 = true ∧ s.me.role ≠ .copy ∧
    ¬(s.sval 96).toNat % 32 = 0 := by decide +kernel

/-- Refutes O19: where a core lists a second agent under the key of the wave that issues, WINDOW_RANGE without a handler ends the
first one's workgroup, and under the key stands the second, whose window is another. In a table that lists each key once
the statement holds (`winb_does`). -/
theorem not_windowMoves : ¬ Obligations.WindowMoves := by
  intro h
  let s := windowState [(0, windowWave), (0, strayAgent)]
  have hi : s.interlock [(96, 64)] [] = .ok () := by decide +kernel
  have hx : ¬((s.sval 96).toNat % 32 = 0 ∧ (s.sval 96).toNat + 96 ≤ s.me.vregs) := by decide +kernel
  have hstray : (s.trap 0x0D (s.sval 96)).agent? s.cur.core s.cur.agent = some strayAgent := by decide +kernel
  obtain ⟨-, hlegal⟩ := h 96 s hi
  obtain ⟨hrange, -⟩ := hlegal rfl (by decide +kernel)
  have hwb : strayAgent.wb = s.me.wb := (hrange hx).2 _ hstray
  exact absurd hwb (by decide +kernel)

end Sys2Proof.Machine
end
